-- ==== Sys2Proof/Word.lean ====
section
/-! DEFINITION. The word types of the Nyloth N4 and the names of its dies and engines (01 R9, 02 R34). -/

namespace Sys2Proof

/-- A byte of memory. -/
abbrev Byte := BitVec 8

/-- A 32-bit word of a stream (R147). -/
abbrev Word32 := BitVec 32

/-- A 64-bit scalar register value (R174). -/
abbrev Word := BitVec 64

/-- An 80-bit virtual address (R89). -/
abbrev Addr := BitVec 80

/-- A 512-byte vector register (R199). -/
abbrev VReg := BitVec 4096

/-- The kinds of die (R9, R12). -/
inductive DieKind | md | vd | gd | bd | sd | hd
  deriving DecidableEq, Repr

/-- The die kind of a slot by its number (R9); slots 37 and above name no die. -/
def dieKind (slot : Nat) : Option DieKind :=
  if slot = 36 then some .hd
  else if 36 < slot then none
  else match slot % 9 with
    | 0 | 1 | 2 | 3 => some .md
    | 4 => some .vd
    | 5 => some .gd
    | 6 | 7 => some .bd
    | _ => some .sd

/-- The kinds of engine (R34, R165). -/
inductive EngKind | me | ve | ce | ge | be | ke
  deriving DecidableEq, Repr

/-- An engine's name: slot, die-local cluster and index within the cluster (R34). -/
structure EngId where
  slot : Nat
  cluster : Nat
  index : Nat
  deriving DecidableEq, Repr

/-- The 24 low bits of ENGID (R34); engines of one tick are ordered by it. -/
def EngId.key (e : EngId) : Nat := e.slot * 65536 + e.index * 256 + e.cluster

/-- The engine that a key names. -/
def EngId.ofKey (k : Nat) : EngId := ⟨k / 65536, k % 256, k / 256 % 256⟩

/-- The key of an engine's cluster; cluster 0 stands for a GD, BD or SD. -/
def EngId.cl (e : EngId) : Nat := e.slot * 16 + e.cluster

/-- The kind of an engine, or none when no such engine exists (R34). -/
def EngId.kind (e : EngId) : Option EngKind :=
  match dieKind e.slot with
  | some .md => if e.cluster < 16 then (if e.index < 4 then some .me else if e.index = 16 then some .ce else none) else none
  | some .vd => if e.cluster < 16 then (if e.index < 16 then some .ve else if e.index = 16 then some .ce else none) else none
  | some .gd => if e.cluster = 0 ∧ e.index < 4 then some .ge else none
  | some .bd => if e.cluster = 0 ∧ e.index < 4 then some .be else none
  | some .sd => if e.cluster = 0 ∧ e.index = 0 then some .ke else none
  | _ => none

/-- A register of the unified file (R158). -/
inductive Reg
  | s (i : Fin 32)
  | a (i : Fin 16)
  | c (i : Fin 8)
  | lc (i : Fin 4)
  | zr
  deriving DecidableEq, Repr

end Sys2Proof
end

