-- ==== Sys2Proof/Config.lean ====
section
/-! DEFINITION. The free values of the model: what the spec leaves to an implementation, to timing or to the world
outside. Each is a constant without a body, applied to the counter `State.fresh` (log 2), so that no statement can rest
on its value. -/

namespace Sys2Proof.Config

/-- The latency, in ticks, of an access that has none fixed (R453); the model bounds it by 12,000,000 (log 7). -/
opaque latency : Nat → Nat

/-- A choice that timing makes: whether a racing access performs before a stop (R400), whether a racing zload sees the
earlier save (R239), whether the governor closes an idle shutter (R114) (logs 2, 4). -/
opaque coin : Nat → Bool

/-- The position at which an unordered combination takes its next operand (R145, R213, R214) (log 9). -/
opaque pick : Nat → Nat → Nat

/-- Package power in watts, measured over the interval before an evaluation (R444) (log 2). -/
opaque watts : Nat → BitVec 16

/-- The certificate chain of a slot: 0 the device identity chain, 1 the chain that Caerba provisions (R349) (log 11). -/
opaque certChain : Nat → List Byte

/-- The body of an SPDM or Caerba response (R349): its signatures, certificates and session data (log 11). -/
opaque spdmBody : Nat → List Byte → List Byte

/-- A byte whose value the spec does not state (log 2). -/
opaque freeByte : Nat → Byte

/-- A word whose value the spec does not state (log 2). -/
opaque freeWord : Nat → BitVec 64

/-- The bytes a BD's checkpoint area holds, which the HD sets aside (R274). -/
opaque ckptBytes : Nat → Nat

/-- The estimated bytes to write for a save (true) or for a drain (R61). -/
opaque saveBytes : Bool → Nat → Nat

/-- The address of a team's save area on its home BD, reserved at binding, and its length less one (R418) (log 22). -/
opaque saveArea : Nat → Nat → Nat × Nat

end Sys2Proof.Config
end

