-- ==== Sys2Proof/Syntax.lean ====
section
/-! DEFINITION. The instructions and package events of the Nyloth N4: one constructor for each row of
spec/opcode_table.json, over the operand layouts of 06 R149-R157. The opcode is the constructor; what is left of the
words is a structure with one field for each field of the layout. A package event (a step of a link, a transfer, the
lattice, the distributor, the governor, the host link, recovery) has no encoding (log 6): its operands name what it
acts on. -/

namespace Sys2Proof

/-- The immediate of layouts G and V: 12 bits, or 44 bits in the 96-bit form (R152, R155). -/
inductive ImmG
  | short (v : BitVec 12)
  | wide (v : BitVec 44)
  deriving DecidableEq, Repr

/-- The immediate of layout W: 28 bits, or 60 bits in the 96-bit form (R153). -/
inductive ImmW
  | short (v : BitVec 28)
  | wide (v : BitVec 60)
  deriving DecidableEq, Repr

/-- The 32-bit form (R149). -/
structure L32 where
  flg : BitVec 1
  b : BitVec 6
  a : BitVec 6
  d : BitVec 6
  stall : BitVec 3
  deriving DecidableEq, Repr

/-- A 32-bit hint: opcode 0xE0 + op, and the bits no rule examines (R166, R397). -/
structure LH32 where
  rest : BitVec 19
  op : BitVec 4
  stall : BitVec 3
  deriving DecidableEq, Repr

/-- A 64-bit or 96-bit hint: opcode 0x3C0 + op, and the bits no rule examines (R166, R397). -/
structure LH64 where
  lit : Option Word32
  rest : BitVec 44
  cls : BitVec 4
  op : BitVec 5
  stall : BitVec 4
  deriving DecidableEq, Repr

/-- Layout G, general (R150, R152). -/
structure LG where
  imm : ImmG
  mod : BitVec 4
  scope : BitVec 4
  x : BitVec 6
  b : BitVec 6
  a : BitVec 6
  d : BitVec 6
  cls : BitVec 4
  stall : BitVec 4
  deriving DecidableEq, Repr

/-- Layout W, wide immediate (R150, R153). -/
structure LW where
  imm : ImmW
  mod : BitVec 4
  a : BitVec 6
  d : BitVec 6
  cls : BitVec 4
  stall : BitVec 4
  deriving DecidableEq, Repr

/-- Layout B, branches and loops (R150, R154). -/
structure LB where
  off : BitVec 20
  imm : BitVec 16
  lc : BitVec 2
  cnd : BitVec 3
  kind : BitVec 2
  cls : BitVec 4
  stall : BitVec 4
  deriving DecidableEq, Repr

/-- Layout V, vector arithmetic (R150, R155). -/
structure LV where
  imm : ImmG
  mod : BitVec 4
  fd : BitVec 4
  fs : BitVec 4
  sx : BitVec 5
  lu : BitVec 3
  wx : BitVec 3
  wb : BitVec 3
  wa : BitVec 3
  wd : BitVec 3
  cls : BitVec 4
  stall : BitVec 4
  deriving DecidableEq, Repr

/-- Layout VM, moves between the operand file and the main file (R150, R156). -/
structure LVM where
  cnt : BitVec 2
  lu : BitVec 1
  vn : BitVec 7
  wn : BitVec 3
  cls : BitVec 4
  stall : BitVec 4
  deriving DecidableEq, Repr

/-- Layout M, matrix (R150, R157). -/
structure LM where
  mod : BitVec 10
  fb : BitVec 4
  fa : BitVec 4
  sx : BitVec 5
  sbb : BitVec 5
  sba : BitVec 5
  tb : BitVec 4
  ta : BitVec 4
  zd : BitVec 3
  cls : BitVec 4
  stall : BitVec 4
  deriving DecidableEq, Repr

/-- A pre-emption request: the four words of PREQ (R327), or the distributor's own (R328, R346). -/
structure PreReq where
  seq : Nat
  team : Nat
  action : Nat
  deadline : Nat
  record : Nat
  source : Nat
  deriving DecidableEq, Repr

/-- A pod message (R277, R320): its tag, packages, the sender's tenant and team, and its payload. -/
structure Message where
  tag : BitVec 16
  src : BitVec 12
  dst : BitVec 12
  tenant : BitVec 16
  seq : Nat
  team : Nat
  payload : List Byte
  deriving DecidableEq, Repr

/-- An SPDM request (R349): the session it travels in (0 for none) and its body. -/
structure SpdmReq where
  session : Nat
  body : List Byte
  deriving DecidableEq, Repr

/-- An access-table entry (R353). -/
structure AccEntry where
  master : BitVec 16
  rights : BitVec 8
  key : BitVec 8
  limit : BitVec 48
  base : BitVec 48
  deriving DecidableEq, Repr

/-- An entry of a PROVISION or REPROVISION: the target's slot and cluster, the entry, and whether it is pinned (R351, R430). -/
structure GrantEntry where
  slot : Nat
  cluster : Nat
  entry : AccEntry
  pinned : Bool
  deriving DecidableEq, Repr

/-- The content of a PROVISION or REPROVISION (R351): tag, XTS key, the BDs that take the key, entries and TDI. -/
structure Grant where
  tag : BitVec 16
  key : BitVec 512
  bds : List Nat
  entries : List GrantEntry
  tdi : Nat
  deriving DecidableEq, Repr

/-- A die firmware image to stage (R360): its slot, its digest, and whether its signature verifies (R448). -/
structure Firmware where
  slot : Nat
  digest : BitVec 256
  sigOk : Bool
  deriving DecidableEq, Repr

/-- A host request (R347, R352, R455): PCIe function (0 or a TDI 1-16), physical address, length, whether it is posted, its
stream, and whether it passed integrity when IDE protects it. -/
structure HostReq where
  fn : Nat
  pa : BitVec 56
  len : Nat
  posted : Bool
  stream : Nat
  ide : Option Bool
  deriving DecidableEq, Repr

/-- What a pattern's object holds beside its image (log 19): initial images by course entry, logical die and offset in that die
(R172), bank formats by course entry and logical die × 16 + cluster (R171), relocatable groups by course entry, stream, first and
past pc (R54). -/
structure PatternTables where
  inits : List (Nat × Nat × Nat × List Byte)
  banks : List (Nat × Nat × Word × Word)
  groups : List (Nat × Nat × Nat × Nat)
  deriving DecidableEq, Repr

/-- A packet of the pod transport (R356): its port, its number in its flow, whether it authenticates under the key of its two packages,
the part of a message it carries, and whether more of the message follows. -/
structure PodPacket where
  port : Nat
  number : Nat
  authentic : Bool
  msg : Message
  more : Bool
  deriving DecidableEq, Repr

/-- The source of a missed deadline (R441, R442). -/
inductive MissSource
  | courseEntry
  | span
  | deadl (e : EngId)
  deriving DecidableEq, Repr

/-- An instruction of an engine stream, or a package event: one constructor for each row of the opcode table. -/
inductive Instr
  /-- `NOP` (R198): 32-bit nop: issues and honours its stall count. -/
  | nop (f : L32)
  /-- `ADD_32` (R176): 32-bit add: d := a + b mod 2^64. -/
  | add32 (f : L32)
  /-- `SUB_32` (R176): 32-bit sub: d := a - b. -/
  | sub32 (f : L32)
  /-- `MUL_32` (R176): 32-bit mul: low 64 bits of a x b. -/
  | mul32 (f : L32)
  /-- `MULH_32` (R176): 32-bit mulh: high 64 bits of the product, signed or .uns. -/
  | mulh32 (f : L32)
  /-- `DIV_32` (R177): 32-bit div: quotient truncated toward zero, never faulting. -/
  | div32 (f : L32)
  /-- `REM_32` (R177): 32-bit rem: remainder of div, never faulting. -/
  | rem32 (f : L32)
  /-- `AND_32` (R176): 32-bit bitwise and. -/
  | and32 (f : L32)
  /-- `OR_32` (R176): 32-bit bitwise or. -/
  | or32 (f : L32)
  /-- `XOR_32` (R176): 32-bit bitwise xor. -/
  | xor32 (f : L32)
  /-- `ANDN_32` (R176): 32-bit and-not: a & ~b. -/
  | andn32 (f : L32)
  /-- `SHL_32` (R176): 32-bit shift left by b mod 64. -/
  | shl32 (f : L32)
  /-- `SHR_32` (R176): 32-bit shift right, zero- or sign-filled with .ari. -/
  | shr32 (f : L32)
  /-- `ROTL_32` (R176): 32-bit rotate left by b mod 64. -/
  | rotl32 (f : L32)
  /-- `MIN_32` (R176): 32-bit minimum, signed or .uns. -/
  | min32 (f : L32)
  /-- `MAX_32` (R176): 32-bit maximum, signed or .uns. -/
  | max32 (f : L32)
  /-- `ADDQ` (R178): Adds a signed 6-bit immediate held in field b. -/
  | addq (f : L32)
  /-- `SHLQ` (R178): Shifts left by a 6-bit immediate. -/
  | shlq (f : L32)
  /-- `SHRQ` (R178): Shifts right by a 6-bit immediate, .ari sign-filled. -/
  | shrq (f : L32)
  /-- `MOV_32` (R179): 32-bit mov between register files, part 0 or 1 in field b. -/
  | mov32 (f : L32)
  /-- `POPC_32` (R178): 32-bit population count. -/
  | popc32 (f : L32)
  /-- `CLZ_32` (R178): 32-bit count of leading zeros. -/
  | clz32 (f : L32)
  /-- `CTZ_32` (R178): 32-bit count of trailing zeros. -/
  | ctz32 (f : L32)
  /-- `SEXT_32` (R178): 32-bit sign extension from bit n. -/
  | sext32 (f : L32)
  /-- `CEQ_32` (R181): 32-bit compare equal into a condition register. -/
  | ceq32 (f : L32)
  /-- `CNE_32` (R181): 32-bit compare not equal. -/
  | cne32 (f : L32)
  /-- `CLT_32` (R181): 32-bit compare less, signed or .uns. -/
  | clt32 (f : L32)
  /-- `CLE_32` (R181): 32-bit compare less-or-equal, signed or .uns. -/
  | cle32 (f : L32)
  /-- `CAND_32` (R181): 32-bit condition and, .neg inverts the second operand. -/
  | cand32 (f : L32)
  /-- `COR_32` (R181): 32-bit condition or. -/
  | cor32 (f : L32)
  /-- `CXOR_32` (R181): 32-bit condition xor. -/
  | cxor32 (f : L32)
  /-- `ADDA_32` (R182): 32-bit address add of a sign-extended scalar, mod 2^80. -/
  | adda32 (f : L32)
  /-- `SUBA_32` (R182): 32-bit address difference into a scalar. -/
  | suba32 (f : L32)
  /-- `LDX_B` (R183): Indexed 1-byte load, .sx sign-extends. -/
  | ldxB (f : L32)
  /-- `LDX_H` (R183): Indexed 2-byte load. -/
  | ldxH (f : L32)
  /-- `LDX_W` (R183): Indexed 4-byte load. -/
  | ldxW (f : L32)
  /-- `LDX_D` (R183): Indexed 8-byte load. -/
  | ldxD (f : L32)
  /-- `STX_B` (R183): Indexed 1-byte store. -/
  | stxB (f : L32)
  /-- `STX_H` (R183): Indexed 2-byte store. -/
  | stxH (f : L32)
  /-- `STX_W` (R183): Indexed 4-byte store. -/
  | stxW (f : L32)
  /-- `STX_D` (R183): Indexed 8-byte store. -/
  | stxD (f : L32)
  /-- `JR` (R186): Jumps to the PC held in a scalar register. -/
  | jr (f : L32)
  /-- `CALLR` (R187): Calls the PC held in a register, moving the register window. -/
  | callr (f : L32)
  /-- `RET` (R187): Returns to the caller's s23, retreating the window. -/
  | ret (f : L32)
  /-- `ERET` (R382): Returns from the exception handler to EPC. -/
  | eret (f : L32)
  /-- `BRK` (R385): Captures pending results, stops the engine and reports a breakpoint. -/
  | brk (f : L32)
  /-- `HINT_32` (R166): 32-bit hint: issues, honours its stall count, does nothing else. -/
  | hint32 (f : LH32)
  /-- `ADD_64` (R176): 64-bit G add with register or immediate second operand. -/
  | add64 (f : LG)
  /-- `SUB_64` (R176): 64-bit G sub. -/
  | sub64 (f : LG)
  /-- `MUL_64` (R176): 64-bit G multiply, low bits. -/
  | mul64 (f : LG)
  /-- `MULH_64` (R176): 64-bit G multiply high. -/
  | mulh64 (f : LG)
  /-- `DIV_64` (R177): 64-bit G divide. -/
  | div64 (f : LG)
  /-- `REM_64` (R177): 64-bit G remainder. -/
  | rem64 (f : LG)
  /-- `AND_64` (R176): 64-bit G and. -/
  | and64 (f : LG)
  /-- `OR_64` (R176): 64-bit G or. -/
  | or64 (f : LG)
  /-- `XOR_64` (R176): 64-bit G xor. -/
  | xor64 (f : LG)
  /-- `ANDN_64` (R176): 64-bit G and-not. -/
  | andn64 (f : LG)
  /-- `SHL_64` (R176): 64-bit G shift left. -/
  | shl64 (f : LG)
  /-- `SHR_64` (R176): 64-bit G shift right. -/
  | shr64 (f : LG)
  /-- `ROTL_64` (R176): 64-bit G rotate left. -/
  | rotl64 (f : LG)
  /-- `MIN_64` (R176): 64-bit G minimum. -/
  | min64 (f : LG)
  /-- `MAX_64` (R176): 64-bit G maximum. -/
  | max64 (f : LG)
  /-- `SEL` (R176): Selects a when x is nonzero, else b. -/
  | sel (f : LG)
  /-- `ADDI` (R180): Adds a wide immediate. -/
  | addi (f : LW)
  /-- `MULI` (R180): Multiplies by a wide immediate. -/
  | muli (f : LW)
  /-- `ANDI` (R180): Ands with a wide immediate. -/
  | andi (f : LW)
  /-- `ORI` (R180): Ors with a wide immediate. -/
  | ori (f : LW)
  /-- `XORI` (R180): Xors with a wide immediate. -/
  | xori (f : LW)
  /-- `SHLI` (R180): Shifts left by an immediate. -/
  | shli (f : LW)
  /-- `SHRI` (R180): Shifts right by an immediate, .ari sign-filled. -/
  | shri (f : LW)
  /-- `LI` (R180): Loads a sign-extended immediate. -/
  | li (f : LW)
  /-- `LIA` (R180): Loads an 80-bit address immediate, or a local-aperture address with .loc. -/
  | lia (f : LW)
  /-- `ADDAI` (R180): Adds an immediate to an address register mod 2^80. -/
  | addai (f : LW)
  /-- `CEQI` (R181): Compares equal with an immediate. -/
  | ceqi (f : LW)
  /-- `CNEI` (R181): Compares not equal with an immediate. -/
  | cnei (f : LW)
  /-- `CLTI` (R181): Compares less than an immediate. -/
  | clti (f : LW)
  /-- `CLEI` (R181): Compares less-or-equal with an immediate. -/
  | clei (f : LW)
  /-- `CGTI` (R181): Compares greater than an immediate. -/
  | cgti (f : LW)
  /-- `CGEI` (R181): Compares greater-or-equal with an immediate. -/
  | cgei (f : LW)
  /-- `CEQ_64` (R181): 64-bit G compare equal. -/
  | ceq64 (f : LG)
  /-- `CNE_64` (R181): 64-bit G compare not equal. -/
  | cne64 (f : LG)
  /-- `CLT_64` (R181): 64-bit G compare less. -/
  | clt64 (f : LG)
  /-- `CLE_64` (R181): 64-bit G compare less-or-equal. -/
  | cle64 (f : LG)
  /-- `CAND_64` (R181): 64-bit G condition and. -/
  | cand64 (f : LG)
  /-- `COR_64` (R181): 64-bit G condition or. -/
  | cor64 (f : LG)
  /-- `CXOR_64` (R181): 64-bit G condition xor. -/
  | cxor64 (f : LG)
  /-- `MOV_64` (R179): 64-bit G mov between register files. -/
  | mov64 (f : LG)
  /-- `POPC_64` (R178): 64-bit G population count. -/
  | popc64 (f : LG)
  /-- `CLZ_64` (R178): 64-bit G leading zeros. -/
  | clz64 (f : LG)
  /-- `CTZ_64` (R178): 64-bit G trailing zeros. -/
  | ctz64 (f : LG)
  /-- `SEXT_64` (R178): 64-bit G sign extension. -/
  | sext64 (f : LG)
  /-- `ADDA_64` (R182): 64-bit G address add with immediate. -/
  | adda64 (f : LG)
  /-- `SUBA_64` (R182): 64-bit G address difference. -/
  | suba64 (f : LG)
  /-- `LD_B` (R183): 1-byte load with offset and class. -/
  | ldB (f : LG)
  /-- `LD_H` (R183): 2-byte load. -/
  | ldH (f : LG)
  /-- `LD_W` (R183): 4-byte load. -/
  | ldW (f : LG)
  /-- `LD_D` (R183): 8-byte load. -/
  | ldD (f : LG)
  /-- `ST_B` (R183): 1-byte store. -/
  | stB (f : LG)
  /-- `ST_H` (R183): 2-byte store. -/
  | stH (f : LG)
  /-- `ST_W` (R183): 4-byte store. -/
  | stW (f : LG)
  /-- `ST_D` (R183): 8-byte store. -/
  | stD (f : LG)
  /-- `LD_A` (R183): 16-byte load of an 80-bit address. -/
  | ldA (f : LG)
  /-- `ST_A` (R183): 16-byte store of an 80-bit address. -/
  | stA (f : LG)
  /-- `B` (R186): Branch, unconditional or on a condition register. -/
  | b (f : LB)
  /-- `CALL` (R187): Call to a label, moving the register window and spilling if needed. -/
  | call (f : LB)
  /-- `LOOP_I` (R188): Starts a hardware loop with an immediate trip count. -/
  | loopI (f : LB)
  /-- `LOOP_S` (R188): Starts a hardware loop with a register trip count. -/
  | loopS (f : LB)
  /-- `WAIT` (R190): Wait-on-address: reads a word with acquire and sleeps until the condition holds. -/
  | wait (f : LG)
  /-- `FENCE_C` (R191): Class-mask fence holding issue until masked accesses perform. -/
  | fenceC (f : LW)
  /-- `FENCE_X` (R192): Cross-path fence from path p to path q. -/
  | fenceX (f : LG)
  /-- `NOTIFY` (R193): Last instruction of a stream: a release ending its issue. -/
  | notify (f : LG)
  /-- `DEADL` (R194): Declares a deadline for the current section to the governor. -/
  | deadl (f : LG)
  /-- `IDBEG` (R195): Opens an idempotent region, writing the region-entry record. -/
  | idbeg (f : LG)
  /-- `IDEND` (R195): Closes the idempotent region. -/
  | idend (f : LG)
  /-- `MFS` (R196): Reads a system register. -/
  | mfs (f : LG)
  /-- `MTS` (R196): Writes the RW fields of a system register. -/
  | mts (f : LG)
  /-- `TRAP` (R197): Raises the software-trap exception with a code. -/
  | trap (f : LG)
  /-- `HINT_64` (R166): 64- or 96-bit hint: issues and does nothing else. -/
  | hint64 (f : LH64)
  /-- `PUSH` (R261): Reads source bytes and sends them on a route into window slots. -/
  | push (f : LG)
  /-- `TAKE` (R263): Waits for the next window slot and copies it out. -/
  | take (f : LG)
  /-- `BAR_INIT` (R265): Writes a whole barrier with its counts and scope. -/
  | barInit (f : LG)
  /-- `BAR_ARR` (R267): One arrival at a barrier, returning the prior phase, as a release. -/
  | barArr (f : LG)
  /-- `BAR_WAIT` (R267): Reads a barrier and sleeps until its phase changes. -/
  | barWait (f : LG)
  /-- `XWAIT` (R268): Waits until a channel's XDONE reaches a value. -/
  | xwait (f : LG)
  /-- `RCLOSE` (R273): Closes an ordered-reduction epoch at its home and returns the value. -/
  | rclose (f : LG)
  /-- `AMO_ADD` (R270): Atomic integer add returning the old value. -/
  | amoAdd (f : LG)
  /-- `AMO_FADD` (R271): Atomic floating add, ordered or unordered. -/
  | amoFadd (f : LG)
  /-- `AMO_MIN` (R270): Atomic integer minimum. -/
  | amoMin (f : LG)
  /-- `AMO_MAX` (R270): Atomic integer maximum. -/
  | amoMax (f : LG)
  /-- `AMO_AND` (R270): Atomic and. -/
  | amoAnd (f : LG)
  /-- `AMO_OR` (R270): Atomic or. -/
  | amoOr (f : LG)
  /-- `AMO_XOR` (R270): Atomic xor. -/
  | amoXor (f : LG)
  /-- `AMO_SWP` (R270): Atomic swap. -/
  | amoSwp (f : LG)
  /-- `AMO_CAS` (R270): Atomic compare-and-swap. -/
  | amoCas (f : LG)
  /-- `AMO_FMIN` (R270): Atomic floating minimum. -/
  | amoFmin (f : LG)
  /-- `AMO_FMAX` (R270): Atomic floating maximum. -/
  | amoFmax (f : LG)
  /-- `RED_ADD` (R270): Reduction integer add without return. -/
  | redAdd (f : LG)
  /-- `RED_FADD` (R271): Reduction floating add, ordered joining the epoch. -/
  | redFadd (f : LG)
  /-- `RED_MIN` (R270): Reduction minimum. -/
  | redMin (f : LG)
  /-- `RED_MAX` (R270): Reduction maximum. -/
  | redMax (f : LG)
  /-- `RED_AND` (R270): Reduction and. -/
  | redAnd (f : LG)
  /-- `RED_OR` (R270): Reduction or. -/
  | redOr (f : LG)
  /-- `RED_XOR` (R270): Reduction xor. -/
  | redXor (f : LG)
  /-- `RED_FMIN` (R270): Reduction floating minimum. -/
  | redFmin (f : LG)
  /-- `RED_FMAX` (R270): Reduction floating maximum. -/
  | redFmax (f : LG)
  /-- `VMOV_WV` (R203): Moves main-file registers into operand registers. -/
  | vmovWv (f : LVM)
  /-- `VMOV_VW` (R203): Moves operand registers into the main file. -/
  | vmovVw (f : LVM)
  /-- `VADD` (R206): Lane-wise add. -/
  | vadd (f : LV)
  /-- `VSUB` (R206): Lane-wise subtract. -/
  | vsub (f : LV)
  /-- `VMUL` (R206): Lane-wise multiply. -/
  | vmul (f : LV)
  /-- `VFMA` (R206): Lane-wise fused multiply-add. -/
  | vfma (f : LV)
  /-- `VFMS` (R206): Lane-wise fused multiply-subtract. -/
  | vfms (f : LV)
  /-- `VMIN` (R206): Lane-wise minimum. -/
  | vmin (f : LV)
  /-- `VMAX` (R206): Lane-wise maximum. -/
  | vmax (f : LV)
  /-- `VABS` (R206): Lane-wise absolute value. -/
  | vabs (f : LV)
  /-- `VNEG` (R206): Lane-wise negation. -/
  | vneg (f : LV)
  /-- `VAND` (R206): Bitwise and. -/
  | vand (f : LV)
  /-- `VOR` (R206): Bitwise or. -/
  | vor (f : LV)
  /-- `VXOR` (R206): Bitwise xor. -/
  | vxor (f : LV)
  /-- `VSHL` (R206): Lane shift left. -/
  | vshl (f : LV)
  /-- `VSHR` (R206): Lane shift right. -/
  | vshr (f : LV)
  /-- `VSEL` (R206): Lane select on a mask. -/
  | vsel (f : LV)
  /-- `VCMP` (R208): Lane comparison writing all-ones masks. -/
  | vcmp (f : LV)
  /-- `VCVT` (R210): Converts lanes between formats, including MX-delta decode. -/
  | vcvt (f : LV)
  /-- `VWID` (R211): Widens elements into a register group. -/
  | vwid (f : LV)
  /-- `VNAR` (R211): Narrows a register group into one register. -/
  | vnar (f : LV)
  /-- `VQMX` (R212): Quantises FP32 lanes into MX-delta elements or deltas. -/
  | vqmx (f : LV)
  /-- `VSPLAT` (R209): Fills lanes from a scalar, or an iota sequence. -/
  | vsplat (f : LV)
  /-- `VRSUM` (R213): Sums all lanes into lane 0, ordered tree or unordered. -/
  | vrsum (f : LV)
  /-- `VRMAX` (R213): Maximum of all lanes. -/
  | vrmax (f : LV)
  /-- `VRMIN` (R213): Minimum of all lanes. -/
  | vrmin (f : LV)
  /-- `VSCAN` (R214): Inclusive prefix sum. -/
  | vscan (f : LV)
  /-- `VEXP2` (R215): Lane-wise 2^x, correctly rounded. -/
  | vexp2 (f : LV)
  /-- `VLOG2` (R215): Lane-wise log2. -/
  | vlog2 (f : LV)
  /-- `VRCP` (R215): Lane-wise reciprocal. -/
  | vrcp (f : LV)
  /-- `VRSQRT` (R215): Lane-wise reciprocal square root. -/
  | vrsqrt (f : LV)
  /-- `VSQRT` (R215): Lane-wise square root. -/
  | vsqrt (f : LV)
  /-- `VTANH` (R215): Lane-wise tanh. -/
  | vtanh (f : LV)
  /-- `VSIGM` (R215): Lane-wise sigmoid. -/
  | vsigm (f : LV)
  /-- `VSIN` (R215): Lane-wise sin of half-turns. -/
  | vsin (f : LV)
  /-- `VSKEIN` (R218): Raw skein generator outputs for lane counters. -/
  | vskein (f : LV)
  /-- `VGAUSS` (R218): Gaussian deviates for lane counters. -/
  | vgauss (f : LV)
  /-- `VUNIF` (R218): Uniform draws for lane element indices. -/
  | vunif (f : LV)
  /-- `VDROP` (R219): Applies or produces a dropout mask over consecutive elements. -/
  | vdrop (f : LV)
  /-- `VLD` (R220): Loads one vector register, converting from the bank format. -/
  | vld (f : LG)
  /-- `VST` (R220): Stores one vector register, converting to the bank format. -/
  | vst (f : LG)
  /-- `VGATH` (R221): Gathers 128 elements by index lanes. -/
  | vgath (f : LG)
  /-- `VSCAT` (R221): Scatters 128 elements by index lanes. -/
  | vscat (f : LG)
  /-- `VPERM` (R222): Permutes lanes from a two-register table. -/
  | vperm (f : LV)
  /-- `TLD` (R228): Fills a tile register from the cluster scratchpad. -/
  | tld (f : LG)
  /-- `TST` (R229): Writes a full tile back to scratchpad. -/
  | tst (f : LG)
  /-- `MMA` (R231): Multiplies two tiles into an accumulator by chunked compensated sums. -/
  | mma (f : LM)
  /-- `MMP` (R232): Multiplies by weight pairs perturbed at fetch. -/
  | mmp (f : LM)
  /-- `MMG` (R235): Multiplies with A rows gathered by an index tile. -/
  | mmg (f : LM)
  /-- `MMW` (R236): Multiplies with A as a shifted halo window. -/
  | mmw (f : LM)
  /-- `MMDM` (R233): Accumulates the mean gradient product. -/
  | mmdm (f : LM)
  /-- `MMDQ` (R234): Accumulates the deviate-weighted gradient product. -/
  | mmdq (f : LM)
  /-- `ZCLR` (R239): Clears an accumulator. -/
  | zclr (f : LG)
  /-- `ZOUT` (R239): Reads an accumulator out to scratchpad, optionally clearing. -/
  | zout (f : LG)
  /-- `ZSAVE` (R239): Saves an accumulator to a save slot. -/
  | zsave (f : LG)
  /-- `ZLOAD` (R239): Loads an accumulator from a save slot. -/
  | zload (f : LG)
  /-- `BROADCAST_GROUP_START` (R238): A .bc group operation starts once all members issued and the source tile is full. -/
  | broadcastGroupStart (cl : Nat) (mask : BitVec 4)
  /-- `CPY` (R248): Copies a box element by element with format conversion. -/
  | cpy (f : LG)
  /-- `CPYT` (R252): Copies a box transposing dimensions 0 and 1. -/
  | cpyt (f : LG)
  /-- `CPYH` (R253): Copies a halo box, zero-filling out-of-range elements. -/
  | cpyh (f : LG)
  /-- `CPYM` (R254): Multicasts a box to several clusters, delivering counts to barriers. -/
  | cpym (f : LG)
  /-- `CPYI` (R255): Imports OCP MX data into MX-delta form. -/
  | cpyi (f : LG)
  /-- `CPYF` (R257): Copies into a tile and hands a follow-on matrix instruction to a target. -/
  | cpyf (f : LG)
  /-- `CHST` (R258): Starts a chained-transfer walk on a channel. -/
  | chst (f : LG)
  /-- `CWR` (R259): Payload-free transfer that writes a completion word after earlier IDs complete. -/
  | cwr (f : LG)
  /-- `CKOPEN` (R274): Opens a new building checkpoint generation. -/
  | ckopen (f : LG)
  /-- `CKPUT` (R274): Appends a box with its physical addresses to the building generation. -/
  | ckput (f : LG)
  /-- `CKSEAL` (R274): Waits for ckputs then seals the generation as current. -/
  | ckseal (f : LG)
  /-- `CKGET` (R274): Writes the current generation back to its addresses. -/
  | ckget (f : LG)
  /-- `HFLUSH` (R274): Writes back dirty memory-side cache lines in a range. -/
  | hflush (f : LG)
  /-- `MSEND` (R277): Sends a tagged message to another package. -/
  | msend (f : LG)
  /-- `KARM` (R278): Installs an armed-launch descriptor under a tag. -/
  | karm (f : LG)
  /-- `KDISARM` (R278): Removes a tag's armed-launch entry. -/
  | kdisarm (f : LG)
  /-- `KRED` (R276): Collective reduction over a group. -/
  | kred (f : LG)
  /-- `KGATH` (R276): Collective gather over a group. -/
  | kgath (f : LG)
  /-- `KBCAST` (R276): Collective broadcast from a root. -/
  | kbcast (f : LG)
  /-- `KSYNC` (R276): Collective synchronisation without data. -/
  | ksync (f : LG)
  /-- `GLOAD` (R304): Loads a graph image into the lattice. -/
  | gload (f : LG)
  /-- `GFEED` (R304): Feeds tokens into an edge of the lattice. -/
  | gfeed (f : LG)
  /-- `GTAKE` (R304): Writes records from an edge queue to memory. -/
  | gtake (f : LG)
  /-- `GUNLOAD` (R304): Waits for quiet, writes back token registers, removes a graph. -/
  | gunload (f : LG)
  /-- `GQUIET` (R305): Waits for the lattice to be quiet and returns the squash count. -/
  | gquiet (f : LG)
  /-- `PACKAGE_POWER_ON` (R20): Power-on zeroes PTICK, fills MIX and puts domains at OP0. -/
  | packagePowerOn
  /-- `PUSH_SEND_START` (R141): A push starts sending once its route's previous push has stopped. -/
  | pushSendStart (slot route : Nat)
  /-- `PUSH_PIECE_LAND` (R261): A push piece lands in the next ring slot and sets its full bit. -/
  | pushPieceLand (id : Nat)
  /-- `MERGE_ENTRY_SEND` (R26): A merge-buffer entry is sent on timeout, fullness, release or course end. -/
  | mergeEntrySend (slot id : Nat)
  /-- `FETCH_REPLY_SPLIT` (R27): A combined fetch-and-op reply is split among requesters. -/
  | fetchReplySplit (id : Nat)
  /-- `SECTION_HEADER_PASS` (R38): A stream passes a section header once its partner dependencies are met. -/
  | sectionHeaderPass (e : EngId)
  /-- `SECTION_RETIRE` (R37): A section retires once its results land and stores perform, setting SRET. -/
  | sectionRetire (e : EngId)
  /-- `TILE_WAIT_RESUME` (R39): An engine blocked on a tile full/empty bit proceeds. -/
  | tileWaitResume (e : EngId)
  /-- `TAKE_RETIRE` (R263): A take retires and clears the slot's full bit. -/
  | takeRetire (e : EngId)
  /-- `WAIT_REREAD` (R111): A sleeping wait-on-address rereads after a write to its line. -/
  | waitReread (e : EngId)
  /-- `BAR_WAIT_REREAD` (R267): A sleeping barrier wait rereads after an action on the barrier. -/
  | barWaitReread (e : EngId)
  /-- `BARRIER_DELIVERY` (R266): A performed byte count is delivered to a receiver's barrier. -/
  | barrierDelivery (id : Nat)
  /-- `XWAIT_RETIRE` (R268): A waiting xwait retires when XDONE reaches its value. -/
  | xwaitRetire (e : EngId)
  /-- `CHANNEL_SLOT_RESUME` (R245): An engine blocked on a full or busy channel issues its transfer. -/
  | channelSlotResume (e : EngId)
  /-- `TRANSFER_COMPLETE` (R250): A transfer's payload performs, its completion word is written and XDONE advances. -/
  | transferComplete (e : EngId) (ch id : Nat)
  /-- `CHAIN_RECORD_START` (R113): A walking channel finds own set and issues the record's transfer. -/
  | chainRecordStart (e : EngId) (ch : Nat)
  /-- `TILE_FILL` (R256): A tile-destination copy fills its tile once the tile is empty. -/
  | tileFill (cl tile : Nat)
  /-- `FOLLOW_ON_ISSUE` (R257): A handed follow-on matrix instruction issues on its target engine. -/
  | followOnIssue (e : EngId)
  /-- `STEAL_RELOCATABLE_GROUP` (R55): A matrix engine at its notify steals a sibling's relocatable group. -/
  | stealRelocatableGroup (stealer owner : EngId)
  /-- `COMBINER_FIRE` (R52): A combining group's combiner writes the completion record, adds to the word and raises the event. -/
  | combinerFire (seq team cl : Nat)
  /-- `EPOCH_CLOSE_AT_COURSE_END` (R143): Open ordered-reduction epochs on a BD close at the end of the course. -/
  | epochCloseAtCourseEnd (slot : Nat)
  /-- `PAGE_WALK_COMPLETE` (R101): A page walk at home_bd completes and its waiting accesses proceed. -/
  | pageWalkComplete (slot page : Nat)
  /-- `TRANSLATION_INVALIDATE` (R103): HD drops named translations on every die of the space. -/
  | translationInvalidate (asid : Nat) (base limit : Addr) (root : Option (Nat × Nat))
  /-- `SHAPE_TABLE_WRITE` (R454): HD applies a host write to a shape entry between courses, setting tenant. -/
  | shapeTableWrite (index fn : Nat) (bytes : List Byte) (base : Option Nat)
  /-- `BDCFG_WRITE` (R98): HD flushes the cache and resizes a BD's cache between courses. -/
  | bdcfgWrite (slot : Nat) (v : Word)
  /-- `SHUTTER_OFF` (R114): A closing cluster's inbound queue empties and the cluster powers off. -/
  | shutterOff (cl : Nat)
  /-- `SHUTTER_WAKE_START` (R114): A request arriving at a gated cluster starts waking and is held. -/
  | shutterWakeStart (cl : Nat)
  /-- `SHUTTER_WAKE_COMPLETE` (R114): After 2,400 ticks held requests perform and the cluster opens. -/
  | shutterWakeComplete (cl : Nat)
  /-- `MOVE_FIRE` (R285): A lattice move word fires, moving a token from source to destination. -/
  | moveFire (slot cell word : Nat)
  /-- `MEM_LOAD_PERFORM` (R299): A lattice load performs, or is held and re-reads after commit. -/
  | memLoadPerform (slot cell : Nat)
  /-- `STAMP_COMMIT` (R298): The oldest settled stamp commits its sill entries in order. -/
  | stampCommit (slot : Nat)
  /-- `SQUASH_REENTRY` (R300): A squashed stamp's token re-enters its link-in when empty. -/
  | squashReentry (slot stamp : Nat)
  /-- `FEED_TOKEN_ENTRY` (R296): A fed token enters its lane and takes the next stamp. -/
  | feedTokenEntry (e : EngId)
  /-- `LATTICE_QUIET_RETIRE` (R305): gquiet or gunload retires when every stamp has committed. -/
  | latticeQuietRetire (e : EngId)
  /-- `IMAGE_OPEN` (R310): LCTL cmd 1 zeroes the aperture and sets the slot loading. -/
  | imageOpen (i : Nat)
  /-- `IMAGE_COMMIT` (R310): LCTL cmd 2 checks, hashes and marks the image ready or refused. -/
  | imageCommit (i : Nat)
  /-- `IMAGE_UNLOAD` (R310): LCTL cmd 3 empties the slot unless tasks or frames are held. -/
  | imageUnload (i : Nat)
  /-- `IMAGE_APERTURE_WRITE` (R310): Host write of image bytes while loading. -/
  | imageApertureWrite (i off : Nat) (bytes : List Byte) (tables : PatternTables)
  /-- `LAUNCH_TRIGGER` (R317): An LTRIG write claims a frame, applies patches and enqueues a task. -/
  | launchTrigger (i : Nat) (v : Word)
  /-- `TASK_SELECT` (R323): The distributor selects the next head task by priority and age. -/
  | taskSelect
  /-- `TASK_BIND` (R324): Binding checks the launch record and places logical dies on slots. -/
  | taskBind (seq : Nat)
  /-- `COURSE_START` (R326): A course entry clears compute memory, loads descriptors and sets T0. -/
  | courseStart (seq : Nat)
  /-- `COURSE_LIST_SKIP` (R326): Reads a predicate word and skips n entries or not. -/
  | courseListSkip (seq : Nat)
  /-- `COURSE_LIST_JUMP` (R326): Sets the next entry. -/
  | courseListJump (seq : Nat)
  /-- `COURSE_LIST_CALL` (R326): Pushes the return entry and jumps. -/
  | courseListCall (seq : Nat)
  /-- `COURSE_LIST_RETURN` (R326): Pops the return stack. -/
  | courseListReturn (seq : Nat)
  /-- `COURSE_LIST_DEADLINE` (R326): Sets or clears the span deadline. -/
  | courseListDeadline (seq : Nat)
  /-- `COURSE_LIST_NOTIFY` (R326): Writes a value with release and optionally raises an MSI-X vector. -/
  | courseListNotify (seq : Nat)
  /-- `PREEMPT_ESTIMATOR` (R327): Pre-emption request with action 0: the estimator chooses. -/
  | preemptEstimator (r : PreReq)
  /-- `PREEMPT_DRAIN` (R327): Forced drain pre-emption request. -/
  | preemptDrain (r : PreReq)
  /-- `PREEMPT_SAVE` (R327): Forced save pre-emption request. -/
  | preemptSave (r : PreReq)
  /-- `PREEMPT_DISCARD` (R327): Forced discard pre-emption request. -/
  | preemptDiscard (r : PreReq)
  /-- `DISTRIBUTOR_PREEMPT_REQUEST` (R328): A waiting pre-empting task makes the distributor request pre-emption. -/
  | distributorPreemptRequest (seq : Nat)
  /-- `PREEMPT_STOP_COMPLETE` (R329): The team's state reaches its home BD, the record is written and dies released. -/
  | preemptStopComplete (seq team : Nat)
  /-- `TEAM_RESUME` (R62): A rebound team is restored and restarted at one tick. -/
  | teamResume (seq team : Nat)
  /-- `MESSAGE_RECEIPT` (R320): A tagged message fills a buffer and fires the armed launch. -/
  | messageReceipt (slot : Nat) (m : Message)
  /-- `UNARMED_TAG_REFUSAL_RETURN` (R415): The refusal reaches the sender and is recorded against the msend team. -/
  | unarmedTagRefusalReturn (m : Message)
  /-- `GOVERNOR_EVALUATION` (R337): Every 2,400 ticks and at T0 the governor assigns operating points. -/
  | governorEvaluation
  /-- `CLOCK_SWITCH` (R332): At T_sw every changing domain switches clock at once. -/
  | clockSwitch
  /-- `TRANSIT_END` (R332): Lowered ratios settle and transit clears. -/
  | transitEnd
  /-- `BYTE_BUDGET_INTERVAL` (R344): At each 1,200-tick interval arbiters reduce counters and admit waiting requests. -/
  | byteBudgetInterval
  /-- `PCAP_WRITE` (R342): Writes the package cap, clamped to 1,000-8,400 W. -/
  | pcapWrite (v : Word)
  /-- `SOFT_THERMAL_THRESHOLD` (R346): A die at 105 C sets soft and force-saves its teams. -/
  | softThermalThreshold (slot : Nat) (temp : BitVec 16)
  /-- `LOCK_INTERFACE` (R348): Binds a TDI to a tenant, image slots and queues. -/
  | lockInterface (tdi tag : Nat) (images queues : List Nat)
  /-- `GET_VERSION` (R349): SPDM version request. -/
  | getVersion (q : SpdmReq)
  /-- `GET_CAPABILITIES` (R349): SPDM capabilities request. -/
  | getCapabilities (q : SpdmReq)
  /-- `NEGOTIATE_ALGORITHMS` (R349): SPDM algorithm negotiation. -/
  | negotiateAlgorithms (q : SpdmReq)
  /-- `GET_DIGESTS` (R349): SPDM certificate digests request. -/
  | getDigests (q : SpdmReq)
  /-- `GET_CERTIFICATE` (R349): SPDM certificate chain request. -/
  | getCertificate (q : SpdmReq)
  /-- `CHALLENGE` (R349): SPDM challenge. -/
  | challenge (q : SpdmReq)
  /-- `GET_MEASUREMENTS` (R350): Returns every measurement index at one instant. -/
  | getMeasurements (q : SpdmReq)
  /-- `KEY_EXCHANGE` (R349): SPDM ECDHE key exchange. -/
  | keyExchange (q : SpdmReq)
  /-- `FINISH` (R349): SPDM session finish. -/
  | finish (q : SpdmReq)
  /-- `HEARTBEAT` (R349): SPDM heartbeat. -/
  | heartbeat (q : SpdmReq)
  /-- `KEY_UPDATE` (R349): SPDM key update. -/
  | keyUpdate (q : SpdmReq)
  /-- `END_SESSION` (R349): SPDM session end. -/
  | endSession (q : SpdmReq)
  /-- `SUBSCRIBE_EVENT_TYPES` (R349): SPDM event subscription. -/
  | subscribeEventTypes (q : SpdmReq)
  /-- `PROVISION` (R351): Loads a tenant key, writes access entries and binds a TDI. -/
  | provision (q : SpdmReq) (g : Grant)
  /-- `REPROVISION` (R351): Replaces a tenant's access entries. -/
  | reprovision (q : SpdmReq) (g : Grant)
  /-- `RELEASE` (R351): Stops a tenant's launches, zeroes its regions and removes its keys and entries. -/
  | release (q : SpdmReq) (tag : Nat) (save : Bool)
  /-- `ATTEST` (R351): Returns signed measurements over a nonce. -/
  | attest (q : SpdmReq)
  /-- `DIE_RESTART_REQUEST` (R360): Caerba request to restart a compute die. -/
  | dieRestartRequest (q : SpdmReq) (slot deadline : Nat)
  /-- `FIRMWARE_STAGE` (R360): Stages firmware for one slot. -/
  | firmwareStage (q : SpdmReq) (f : Firmware)
  /-- `FIRMWARE_ACTIVATE` (R360): Activates staged firmware when no launch holds the die. -/
  | firmwareActivate (q : SpdmReq) (slot : Nat)
  /-- `HOST_READ` (R455): A host read request checked against access tables and served. -/
  | hostRead (h : HostReq)
  /-- `HOST_WRITE` (R455): A host write request checked against access tables and served. -/
  | hostWrite (h : HostReq) (bytes : List Byte)
  /-- `POD_PACKET_RECEIVE` (R356): An authenticated pod packet is admitted by the SD's table. -/
  | podPacketReceive (slot : Nat) (p : PodPacket)
  /-- `SAFE_TIER_COPY` (R358): SAFECTL go copies checkpoint sets to the pod store. -/
  | safeTierCopy
  /-- `SAFE_TIER_COPY_DONE` (R358): The safe-tier copy finishes and status reads done or failed. -/
  | safeTierCopyDone (ok : Bool)
  /-- `SAFE_RESTORE` (R435): SAFERST go restores a set from the pod checkpoint store. -/
  | safeRestore
  /-- `EVACUATION_START` (R429): EVACCTL go starts evacuating a BD. -/
  | evacuationStart
  /-- `EXTENT_MOVE` (R430): One extent is copied, remapped and invalidated on another BD. -/
  | extentMove
  /-- `EVACUATION_RESUME` (R432): Moving resumes when capacity frees. -/
  | evacuationResume
  /-- `SPILLED_EXTENT_RETURN` (R431): A spilled extent is brought back into free HBM4E. -/
  | spilledExtentReturn
  /-- `STREAMING_CRC_FAILURE` (R373): A streaming flit fails CRC and sets no full bit. Module `k` of the pair of slots `a` < `b`
  is `(64 a + b) 8 + k`. -/
  | streamingCrcFailure (piece : Nat) (mod : Nat)
  /-- `COURSE_ABORT_CRC` (R373): HD aborts the course and reruns it from T0. -/
  | courseAbortCrc (seq : Nat)
  /-- `ORDINARY_CRC_RETRY` (R373): An ordinary-mode CRC failure on module `mod` = `8 b + k` of the pair `slot` < `b` is retried at
  link level; `again` when the module's previous try failed too. -/
  | ordinaryCrcRetry (slot mod : Nat) (again : Bool)
  /-- `SCRUB_PASS` (R371): A BD scrubs its HBM4E daily and SRAM hourly. -/
  | scrubPass (slot : Nat) (units : List Nat)
  /-- `UNCORRECTABLE_ERROR` (R372): An uncorrectable unit is marked poisoned. -/
  | uncorrectableError (pa : Nat)
  /-- `PARITY_ERROR` (R372): A parity error in engine logic raises 0x0306. -/
  | parityError (e : EngId)
  /-- `STALE_RESPONSE_DISCARD` (R374): A response with an old incarnation is discarded and counted. -/
  | staleResponseDiscard (slot : Nat) (incarn : BitVec 16)
  /-- `DIE_LOST_DECLARE` (R375): HD declares a die lost, marks MIX failed and sets HEALTH.replace. -/
  | dieLostDeclare (slot reason : Nat)
  /-- `FAULT_STOP` (R400): A team-level cause stops the team, settling accesses in flight. -/
  | faultStop
  /-- `PEER_STOP` (R416): A peer team of a fatal fault stops at its next header or notify. -/
  | peerStop (seq team : Nat)
  /-- `ENGSTOP_RESUME` (R385): Writing 1 to an ENGSTOP bit resumes a stopped engine. -/
  | engstopResume (cl : Nat) (v : Word)
  /-- `FAULT_RETRY` (R405): FRESP1 action 1: retry a held team. -/
  | faultRetry (seq team : Nat)
  /-- `FAULT_RERUN` (R405): FRESP1 action 2: rerun the current course. -/
  | faultRerun (seq team : Nat)
  /-- `FAULT_ABANDON` (R405): FRESP1 action 3: abandon the launch. -/
  | faultAbandon (seq team : Nat)
  /-- `RETRY_RESTART` (R405): At least 100 ticks after a retry the team restarts at its begin marks with clean channels. -/
  | retryRestart (seq team : Nat)
  /-- `COURSE_RERUN` (R420): Restores the restart set and starts the course at a new T0. -/
  | courseRerun (seq : Nat)
  /-- `REBIND_AFTER_LOSS` (R426): Logical dies on a lost slot are bound again. -/
  | rebindAfterLoss (seq : Nat)
  /-- `DIE_QUIET` (R422): A restarting die is quiet and its reset begins. -/
  | dieQuiet (slot : Nat)
  /-- `SELF_TEST_START` (R422): 12,000 ticks after T_q self-test begins and memories are zeroed. -/
  | selfTestStart (slot : Nat)
  /-- `REJOIN_START` (R422): After self-test the die aligns PTICK to rejoin. -/
  | rejoinStart (slot : Nat)
  /-- `REJOIN_COMPLETE` (R422): At T_q + 120,000 the incarnation rises and the die takes work. -/
  | rejoinComplete (slot : Nat)
  /-- `REJOIN_TIMEOUT` (R422): A die not rejoined by T_q + 240,000 restarts from Reset or is lost. -/
  | rejoinTimeout (slot : Nat)
  /-- `BD_TABLE_ERROR` (R428): An uncorrectable error in a BD's tables makes the HD rewrite them. -/
  | bdTableError (slot : Nat) (set : Option Nat)
  /-- `PACKAGE_RESET` (R434): A link reset ends every launch and zeroes device state. -/
  | packageReset
  /-- `HARD_THERMAL_TRIP` (R437): A comparator cuts a die's supply at 115 C, over-current or sensor fault. -/
  | hardThermalTrip (slot : Nat) (cause : BitVec 8) (temp : BitVec 16)
  /-- `TRIPCAUSE_WRITE` (R438): Writing 0 clears TRIPCAUSE.cause; other values are ignored. -/
  | tripcauseWrite (slot : Nat) (v : Word)
  /-- `TRIPPED_DIE_COOLDOWN` (R439): A tripped compute die below 95 C restarts from Reset. -/
  | trippedDieCooldown (slot : Nat) (temp : BitVec 16)
  /-- `DEADLINE_MISS` (R441): A deadline passes unmet and DLACT decides the effect. -/
  | deadlineMiss (seq : Nat) (src : MissSource)
  /-- `KEY_SLOT_ECC_FAILURE` (R447): A BD key slot fails ECC and is reloaded or erased. -/
  | keySlotEccFailure (slot key : Nat) (wrappedOk : Bool)
  /-- `KEY_RELOAD_COMPLETE` (R447): The wrapped key is reloaded and waiting accesses proceed. -/
  | keyReloadComplete (slot key : Nat)
  /-- `MEASUREMENT_FAILURE` (R448): A measurement or identity failure stops launches and sessions. -/
  | measurementFailure (reason : Nat)
  /-- `REGISTER_WRITE` (R4): A write to a register with no row of its own, by R4 access types. -/
  | registerWrite (off : Nat) (v : Word)
  /-- `VARIABLE_LATENCY_RESULT` (R45): A variable-latency result, such as a non-scratchpad load or a fetch-and-op reply, arrives and lands in its register, waking the interlocked reader. -/
  | variableLatencyResult (id : Nat)
  /-- `ACCESS_PERFORMS_AT_HOME` (R117): An access that has left its engine reaches its home and performs there, taking its place in the location's coherence order. -/
  | accessPerformsAtHome (id : Nat)
  /-- `START_INTERFACE_REQUEST` (R348): A TDI moves from CONFIG_LOCKED to RUN and begins to carry its tenant's tag as master. -/
  | startInterfaceRequest (tdi : Nat)
  /-- `STOP_INTERFACE_REQUEST` (R348): A TDI is returned to CONFIG_UNLOCKED, leaving RUN or ERROR. -/
  | stopInterfaceRequest (tdi : Nat)
  /-- `POD_JOIN` (R357): At pod join, Caerba sets PODCFG and the SDs open their SPDM sessions for pod keys. -/
  | podJoin (pkg : BitVec 12) (ports : BitVec 12)
  /-- `POD_PACKET_RETRANSMIT` (R356): A lost or rejected pod packet is retransmitted. -/
  | podPacketRetransmit (slot : Nat) (p : PodPacket)
  /-- `SAFE_RESTORE_DONE` (R435): A safe-tier restore finishes, and SAFERST status reads done or failed. -/
  | safeRestoreDone (ok : Bool)
  /-- `SOFT_THERMAL_CLEAR` (R346): A die that reached its soft threshold reads below 95 °C, so stopped teams may be bound to it again. -/
  | softThermalClear (slot : Nat) (temp : BitVec 16)
  deriving DecidableEq, Repr

end Sys2Proof
end

