-- ==== Sys2Proof/WellFormed.lean ====
section
/-! DEFINITION. Well-formed instructions: the reserved encodings of 06 R151, R158-R160, R166 and 21 R387 that the word
alone decides. `Instr.rejects` lists every field at fault with its reason; `Instr.reject` is the one R377 reports. -/

namespace Sys2Proof

/-- Why an encoding is reserved: the reason of R387, and the lowest bit of the offending field (R386). -/
structure Reject where
  reason : Nat
  bit : Nat
  deriving DecidableEq, Repr

/-- The order of R377: the lower reason first, then the lower bit. -/
def Reject.before (a b : Reject) : Bool :=
  a.reason < b.reason || (a.reason == b.reason && a.bit < b.bit)

/-- The rejection reported among several (R377). -/
def firstReject : List Reject → Option Reject
  | [] => none
  | r :: rs =>
    match firstReject rs with
    | none => some r
    | some q => if q.before r then some q else some r

/-- What a 6-bit field admits (R158, R159, R175). `part` is a part number (R179), `val` any value, `zero` an unused field. -/
inductive Use
  | zero | val | part | s | src | sc | c | mv | a | aZr | sa | grp | zrOnly
  | idx (n : Nat)
  deriving DecidableEq, Repr

def isS (v : Nat) : Bool := v < 32 || v == 63
def isA (v : Nat) : Bool := 32 ≤ v && v < 48
def isC (v : Nat) : Bool := 48 ≤ v && v < 56
def isLc (v : Nat) : Bool := 56 ≤ v && v < 60

/-- Whether a use admits a code (R175). -/
def Use.admits (u : Use) (v : Nat) : Bool :=
  match u with
  | .zero => v == 0
  | .val => true
  | .part => v < 2
  | .s => isS v
  | .src => isS v || isC v || isLc v
  | .sc => v < 32 || isC v
  | .c => isC v
  | .mv => isS v || isA v || isC v || isLc v
  | .a => isA v
  | .aZr => isA v || v == 63
  | .sa => isS v || isA v
  | .grp => v < 30
  | .zrOnly => v == 63
  | .idx n => v < n

/-- The reason with which a field is refused (R387): an unused field 5, a part number 4, a register code 3. -/
def Use.reason : Use → Nat
  | .zero => 5
  | .part => 4
  | _ => 3

def rejUse (u : Use) (v bit : Nat) : List Reject :=
  if u.admits v then [] else [⟨u.reason, bit⟩]

def rejIf (bad : Bool) (reason bit : Nat) : List Reject :=
  if bad then [⟨reason, bit⟩] else []

/-- The fields of a 32-bit form (R163, R175): d, a, b, and whether the opcode has a flag suffix (R167). -/
structure Form32 where
  d : Use
  a : Use
  b : Use
  flg : Bool

def rejL32 (u : Form32) (f : L32) : List Reject :=
  rejUse u.d f.d.toNat 13 ++ rejUse u.a f.a.toNat 19 ++ rejUse u.b f.b.toNat 25
    ++ rejIf (!u.flg && f.flg != 0) 5 31

def ImmG.isWide : ImmG → Bool
  | .short _ => false
  | .wide _ => true

/-- The immediate's value, sign-extended (R152). -/
def ImmG.val : ImmG → Int
  | .short v => v.toInt
  | .wide v => v.toInt

/-- The immediate's bits, the literal above the short field (R152). -/
def ImmG.bits : ImmG → Nat
  | .short v => v.toNat
  | .wide v => v.toNat

def ImmW.isWide : ImmW → Bool
  | .short _ => false
  | .wide _ => true

/-- The immediate's value, sign-extended (R153). -/
def ImmW.val : ImmW → Int
  | .short v => v.toInt
  | .wide v => v.toInt

def ImmW.bits : ImmW → Nat
  | .short v => v.toNat
  | .wide v => v.toNat

/-- How a layout G form uses its immediate: not at all; freely; its low bits only; as type and offset (R167); as two
path codes (R192); as a type code (R276). -/
inductive ImmUse
  | zero | any | paths | typeCode
  | low (n : Nat)
  | atomic (types : List Nat)

/-- Fields that are zero when a is zr: a copy's offset and completion value (R246), a cpyf's offset (R257), a
checkpoint transfer's completion value (R274), or the offset alone (R258, R304); a take's offset, and its index but for zr (R158, R263; log 53). -/
inductive WhenZr
  | plain | copy | cpyf | value | base | take

/-- The fields of a layout G form. -/
structure FormG where
  d : Use
  a : Use
  b : Use
  x : Use
  mod : Nat → Bool
  scope : Bool
  imm : ImmUse
  zr : WhenZr

def modIn (mask v : Nat) : Bool := v ||| mask == mask
def modBelow (n v : Nat) : Bool := v < n
/-- The tile formats of R227. -/
def tileFmt (v : Nat) : Bool := v != 1 && v != 5 && v != 6 && v ≤ 12

def rejImmG (u : ImmUse) (i : ImmG) : List Reject :=
  match u with
  | .zero => rejIf (i.bits != 0) 5 52 ++ rejIf i.isWide 6 64
  | .any => []
  | .low n => rejIf (i.bits ≥ 2 ^ n) 5 52
  | .paths => rejIf (i.bits % 8 ≥ 6 || i.bits / 8 % 8 ≥ 6) 4 52 ++ rejIf (i.bits ≥ 64) 5 52
  | .typeCode => rejIf (i.bits % 8 ≥ 6) 4 52 ++ rejIf (i.bits ≥ 8) 5 52
  | .atomic ts => rejIf (!ts.contains (i.bits / 512 % 8)) 4 61

/-- A scope field (R160): 0b0001 to 0b0111 are reserved; an instruction without a scope carries zero. -/
def rejScope (used : Bool) (v bit : Nat) : List Reject :=
  if used then rejIf (0 < v && v < 8) 4 bit else rejIf (v != 0) 5 bit

def rejWhenZr (z : WhenZr) (f : LG) : List Reject :=
  if f.a.toNat == 63 then
    match z with
    | .plain => []
    | .copy => rejIf (f.imm.bits != 0) 5 52 ++ rejIf (f.x.toNat != 0) 5 38
    | .value => rejIf (f.x.toNat != 0) 5 38
    | .cpyf => rejIf (f.imm.bits != 0) 5 52
    | .base => rejIf (f.imm.bits != 0) 5 52
    | .take => rejIf (f.imm.bits != 0) 5 52 ++ rejIf (f.b.toNat != 0 && f.b.toNat != 63) 5 32
  else []

def rejG (u : FormG) (f : LG) : List Reject :=
  rejUse u.d f.d.toNat 20 ++ rejUse u.a f.a.toNat 26 ++ rejUse u.b f.b.toNat 32 ++ rejUse u.x f.x.toNat 38
    ++ rejScope u.scope f.scope.toNat 44 ++ rejIf (!u.mod f.mod.toNat) 4 48 ++ rejImmG u.imm f.imm ++ rejWhenZr u.zr f

/-- How a layout W form uses its immediate: freely, as `.loc` may (R180), or as a class mask (R191). -/
inductive ImmUseW
  | any | loc | classes

structure FormW where
  d : Use
  a : Use
  mod : Nat → Bool
  imm : ImmUseW

def rejImmW (u : ImmUseW) (mod : Nat) (i : ImmW) : List Reject :=
  match u with
  | .any => []
  | .loc => rejIf (mod % 2 == 1 && (i.val < 0 || i.val ≥ 2 ^ 28)) 4 36
  | .classes => rejIf (i.bits ≥ 65536) 5 36 ++ rejIf i.isWide 6 64 ++ rejScope true mod 32

def rejW (u : FormW) (f : LW) : List Reject :=
  rejUse u.d f.d.toNat 20 ++ rejUse u.a f.a.toNat 26 ++ rejIf (!u.mod f.mod.toNat) 4 32 ++ rejImmW u.imm f.mod.toNat f.imm

/-- b and call (R186, R187): lc and imm are zero, and cnd is zero when unconditional. -/
def rejBranch (f : LB) : List Reject :=
  rejIf (f.kind == 3) 4 20 ++ rejIf (f.kind == 0 && f.cnd != 0) 5 23 ++ rejIf (f.lc != 0) 5 26 ++ rejIf (f.imm != 0) 5 28

/-- The kind and cnd of a loop instruction are zero (R188). -/
def rejLoop (f : LB) : List Reject :=
  rejIf (f.kind == 3) 4 20 ++ rejIf (f.kind != 0) 5 20 ++ rejIf (f.cnd != 0) 5 23

def rejLoopI (f : LB) : List Reject := rejLoop f

/-- loop.s holds the code of its count register in bits 33:28; bits 43:34 are zero (R154). -/
def rejLoopS (f : LB) : List Reject :=
  rejLoop f ++ rejUse .s (f.imm.toNat % 64) 28 ++ rejIf (f.imm.toNat ≥ 64) 5 34

/-- vmov (R156, R203): cnt 0b11 is reserved; a vmov.wv has no last use. -/
def rejVM (lu : Bool) (f : LVM) : List Reject :=
  rejIf (f.cnt == 3) 4 31 ++ rejIf (!lu && f.lu != 0) 5 30

/-- What a layout V form reads, and whether its formats and mod bits are listed. `immOp` says whether the opcode has an
immediate at all, and so a 96-bit form (R151). -/
structure FormV where
  fmt : Bool
  mod : Bool
  wa : Bool
  wb : Bool
  wx : Bool
  sx : Bool
  imm : Bool
  immOp : Bool
  kind : Bool

def rejV (u : FormV) (f : LV) : List Reject :=
  rejIf (!u.wa && f.wa != 0) 5 23 ++ rejIf (!u.wb && f.wb != 0) 5 26
    ++ (if u.kind then rejIf (f.wx.toNat ≥ 6) 4 29 else rejIf (!u.wx && f.wx != 0) 5 29)
    ++ rejIf (!u.wa && f.lu.getLsbD 0) 5 32 ++ rejIf (!u.wb && f.lu.getLsbD 1) 5 33 ++ rejIf (!u.wx && f.lu.getLsbD 2) 5 34
    ++ rejIf (!u.sx && f.sx != 0) 5 35 ++ rejIf (!u.fmt) 4 40 ++ rejIf (!u.mod) 4 48
    ++ rejIf (!u.imm && f.imm.bits != 0) 5 52 ++ rejIf (!u.immOp && f.imm.isWide) 6 64

def fmtSame (fs : List Nat) (f : LV) : Bool := f.fd == f.fs && fs.contains f.fd.toNat
def intFmt (v : BitVec 4) : Bool := v == 0 || v == 5

/-- Bits 2:1 of mod: the form of operand B (R205). -/
def LV.bKind (f : LV) : Nat := f.mod.toNat / 2 % 4

/-- A binary or ternary elementwise form (R205, R206): `sfx` says that mod bit 0 is a suffix on integer formats. -/
def formElem (fs : List Nat) (sfx three : Bool) (f : LV) : FormV where
  fmt := fmtSame fs f
  mod := f.bKind != 3 && f.mod.toNat < 8 && (f.mod.toNat % 2 == 0 || (sfx && intFmt f.fd))
  wa := true
  wb := f.bKind == 0
  wx := three
  sx := f.bKind == 1
  imm := f.bKind == 1 || f.bKind == 2
  immOp := true
  kind := false

/-- A form that reads wa alone, or the operands named. -/
def formPlain (fmt mod wb wx sx : Bool) : FormV := ⟨fmt, mod, true, wb, wx, sx, false, false, false⟩

def formVadd := formElem [0, 1, 2, 5] true false
def formVsub := formElem [0, 1, 2, 5] true false
def formVmul := formElem [0, 1, 2, 5] true false
def formVfma := formElem [0, 1, 2] false true
def formVfms := formElem [0, 1, 2] false true
def formVmin := formElem [0, 1, 2, 5] true false
def formVmax := formElem [0, 1, 2, 5] true false
def formVabs (f : LV) : FormV :=
  formPlain (fmtSame [0, 1, 2, 5] f) (f.mod == 0 || (f.mod == 1 && intFmt f.fd)) false false false
def formVneg := formVabs
def formVand := formElem [0, 1, 2, 3, 4, 5, 6] false false
def formVor := formVand
def formVxor := formVand
def formVshl := formElem [0, 5] false false
def formVshr := formElem [0, 5] true false
def formVsel := formElem [0, 1, 2, 3, 4, 5, 6] false true
/-- vcmp holds its kind in wx (R208). It takes operand B by the forms of R205, which names it nowhere; DEDUCED (log 74). -/
def formVcmp (f : LV) : FormV := (fun u : FormV => ⟨u.fmt, u.mod, u.wa, u.wb, false, u.sx, u.imm, u.immOp, true⟩) (formElem [0, 1, 2, 5] true false f)

/-- MX-delta codes (R75). -/
def mxFmt (v : BitVec 4) : Bool := 7 ≤ v.toNat && v.toNat ≤ 10

/-- vcvt (R210): between formats of equal lane size, or decoding MX-delta data. -/
def formVcvt (f : LV) : FormV :=
  let mx := mxFmt f.fs && f.fd == 1
  let eight := fun v : BitVec 4 => v == 3 || v == 4 || v == 5
  formPlain (mx || (f.fd == 1 && f.fs == 0) || (f.fd == 0 && f.fs == 1) || (f.fd != f.fs && eight f.fd && eight f.fs))
    (f.mod == 0) mx false mx

/-- Bits of a lane of a format of R200. -/
def laneBits (v : Nat) : Nat :=
  if v ≤ 1 then 32 else if v = 2 then 16 else if v ≤ 5 then 8 else 4

/-- The group size of vwid and vnar (R211): the ratio of the lane sizes. -/
def groupOf (wide narrow : BitVec 4) : Nat := laneBits wide.toNat / laneBits narrow.toNat

def formVwid (f : LV) : FormV :=
  let narrow := [2, 3, 4, 5, 6].contains f.fs.toNat
  let wide := [0, 1, 2, 5].contains f.fd.toNat
  let k := groupOf f.fd f.fs
  let excl := [2, 3, 4].contains f.fs.toNat && intFmt f.fd
  formPlain (narrow && wide && (k == 2 || k == 4) && !excl) (f.mod == 0) false false false

def formVnar (f : LV) : FormV :=
  let wide := [0, 1, 2, 5].contains f.fs.toNat
  let narrow := [2, 3, 4, 5, 6].contains f.fd.toNat
  let k := groupOf f.fs f.fd
  formPlain (narrow && wide && (k == 2 || k == 4)) (f.mod == 0) false false false

def formVqmx (f : LV) : FormV := formPlain (mxFmt f.fd && f.fs == 1) (f.mod.toNat < 2) false false true

/-- vsplat (R209): the .iota form is .i32 only. -/
def formVsplat (f : LV) : FormV where
  fmt := fmtSame [0, 1, 2, 3, 4, 5, 6] f && (f.mod.toNat % 2 == 0 || f.fd == 0)
  mod := f.mod.toNat < 2
  wa := false
  wb := false
  wx := false
  sx := true
  imm := true
  immOp := true
  kind := false

def formVrsum (f : LV) : FormV :=
  formPlain ((f.fd == 1 && (f.fs == 1 || f.fs == 2)) || (f.fd == 0 && intFmt f.fs)) (modIn 4 f.mod.toNat) false false false

def formVrmax (f : LV) : FormV :=
  formPlain (fmtSame [0, 1, 2, 5] f) (modIn (if intFmt f.fd then 5 else 4) f.mod.toNat) false false false
def formVrmin := formVrmax
def formVscan (f : LV) : FormV := formPlain (fmtSame [0, 1] f) (modIn 4 f.mod.toNat) false false false

/-- The special functions (R215). -/
def formSpecial (f : LV) : FormV := formPlain (fmtSame [1, 2] f) (f.mod == 0) false false false
def formVexp2 := formSpecial
def formVlog2 := formSpecial
def formVrcp := formSpecial
def formVrsqrt := formSpecial
def formVsqrt := formSpecial
def formVtanh := formSpecial
def formVsigm := formSpecial
def formVsin := formSpecial

def formVskein (f : LV) : FormV := formPlain (f.fd == 0 && f.fs == 0) (f.mod == 0) false false true
def formVgauss (f : LV) : FormV := formPlain (f.fd == 1 && f.fs == 0) (f.mod == 0) false false true
def formVunif := formVgauss

/-- vdrop (R219): the mask form does not read wb. -/
def formVdrop (f : LV) : FormV where
  fmt := fmtSame [0, 1, 2, 3, 4, 5] f
  mod := f.mod.toNat < 2
  wa := false
  wb := f.mod == 0
  wx := false
  sx := true
  imm := false
  immOp := false
  kind := false

def formVperm (f : LV) : FormV := formPlain (fmtSame [0, 1, 2] f) (f.mod == 0) true true false

/-- K(f) of R227 for the operand formats; 0 for any other. -/
def tileK (v : Nat) : Nat :=
  match v with
  | 2 => 64 | 3 => 128 | 4 => 128 | 7 => 128 | 8 => 128 | 10 => 128 | 9 => 256 | _ => 0

/-- What a layout M form reads, whether its formats are listed, and its mod bits (R230). -/
structure FormM where
  fmt : Bool
  mod : Nat
  ta : Bool
  sx : Bool
  sba : Bool
  sbb : Bool

def rejM (u : FormM) (f : LM) : List Reject :=
  rejIf (!u.ta && f.ta != 0) 5 23 ++ rejIf (!u.sba && f.sba != 0) 5 31 ++ rejIf (!u.sbb && f.sbb != 0) 5 36
    ++ rejIf (!u.sx && f.sx != 0) 5 41 ++ rejIf (!u.fmt) 4 46
    ++ rejIf (!modIn u.mod f.mod.toNat || (f.mod.toNat / 16 % 16 != 0 && f.mod.toNat / 8 % 2 == 0)) 4 54

def sameK (f : LM) : Bool := tileK f.fa.toNat != 0 && tileK f.fa.toNat == tileK f.fb.toNat
def plainA (f : LM) : Bool := [2, 3, 4].contains f.fa.toNat

def formMma (f : LM) : FormM := ⟨sameK f, 0xFB, true, false, mxFmt f.fa, mxFmt f.fb⟩
def formMmp (f : LM) : FormM :=
  ⟨(f.fa == 2 && f.fb == 11) || (tileK f.fa.toNat == 128 && f.fb == 12), 0xFB, true, true, mxFmt f.fa, false⟩
def formMmg (f : LM) : FormM := ⟨plainA f && sameK f, 0xFB, true, true, false, mxFmt f.fb⟩
def formMmw (f : LM) : FormM := ⟨plainA f && sameK f, 0xFA, false, true, false, mxFmt f.fb⟩
def formMmdm (f : LM) : FormM := ⟨(f.fa == 2 || f.fa == 3) && f.fb == 2, 0x7, true, false, false, false⟩
def formMmdq (f : LM) : FormM := ⟨(f.fa == 2 || f.fa == 3) && f.fb == 2, 0x7, true, true, false, false⟩

/-- Every field at fault of an instruction's encoding. A package event has no encoding and none at fault. `ckget` and `hflush` may
carry a scope: their forms show none, and no rule bars it (R160, R274); DESIGN CHOICE (log 70). -/
def Instr.rejects (i : Instr) : List Reject :=
  match i with
  | .nop f => rejL32 ⟨.zero, .zero, .zero, false⟩ f
  | .add32 f => rejL32 ⟨.s, .src, .src, false⟩ f
  | .sub32 f => rejL32 ⟨.s, .src, .src, false⟩ f
  | .mul32 f => rejL32 ⟨.s, .src, .src, false⟩ f
  | .mulh32 f => rejL32 ⟨.s, .src, .src, true⟩ f
  | .div32 f => rejL32 ⟨.s, .src, .src, true⟩ f
  | .rem32 f => rejL32 ⟨.s, .src, .src, true⟩ f
  | .and32 f => rejL32 ⟨.s, .src, .src, false⟩ f
  | .or32 f => rejL32 ⟨.s, .src, .src, false⟩ f
  | .xor32 f => rejL32 ⟨.s, .src, .src, false⟩ f
  | .andn32 f => rejL32 ⟨.s, .src, .src, false⟩ f
  | .shl32 f => rejL32 ⟨.s, .src, .src, false⟩ f
  | .shr32 f => rejL32 ⟨.s, .src, .src, true⟩ f
  | .rotl32 f => rejL32 ⟨.s, .src, .src, false⟩ f
  | .min32 f => rejL32 ⟨.s, .src, .src, true⟩ f
  | .max32 f => rejL32 ⟨.s, .src, .src, true⟩ f
  | .addq f => rejL32 ⟨.s, .src, .val, false⟩ f
  | .shlq f => rejL32 ⟨.s, .src, .val, false⟩ f
  | .shrq f => rejL32 ⟨.s, .src, .val, true⟩ f
  | .mov32 f => rejL32 ⟨.mv, .mv, .part, false⟩ f
  | .popc32 f => rejL32 ⟨.s, .src, .zero, false⟩ f
  | .clz32 f => rejL32 ⟨.s, .src, .zero, false⟩ f
  | .ctz32 f => rejL32 ⟨.s, .src, .zero, false⟩ f
  | .sext32 f => rejL32 ⟨.s, .src, .val, false⟩ f
  | .ceq32 f => rejL32 ⟨.c, .src, .src, false⟩ f
  | .cne32 f => rejL32 ⟨.c, .src, .src, false⟩ f
  | .clt32 f => rejL32 ⟨.c, .src, .src, true⟩ f
  | .cle32 f => rejL32 ⟨.c, .src, .src, true⟩ f
  | .cand32 f => rejL32 ⟨.c, .src, .src, true⟩ f
  | .cor32 f => rejL32 ⟨.c, .src, .src, true⟩ f
  | .cxor32 f => rejL32 ⟨.c, .src, .src, true⟩ f
  | .adda32 f => rejL32 ⟨.a, .a, .s, false⟩ f
  | .suba32 f => rejL32 ⟨.s, .a, .a, false⟩ f
  | .ldxB f => rejL32 ⟨.s, .a, .s, true⟩ f
  | .ldxH f => rejL32 ⟨.s, .a, .s, true⟩ f
  | .ldxW f => rejL32 ⟨.s, .a, .s, true⟩ f
  | .ldxD f => rejL32 ⟨.s, .a, .s, false⟩ f
  | .stxB f => rejL32 ⟨.s, .a, .s, false⟩ f
  | .stxH f => rejL32 ⟨.s, .a, .s, false⟩ f
  | .stxW f => rejL32 ⟨.s, .a, .s, false⟩ f
  | .stxD f => rejL32 ⟨.s, .a, .s, false⟩ f
  | .jr f => rejL32 ⟨.zero, .s, .zero, false⟩ f
  | .callr f => rejL32 ⟨.zero, .s, .zero, false⟩ f
  | .ret f => rejL32 ⟨.zero, .zero, .zero, false⟩ f
  | .eret f => rejL32 ⟨.zero, .zero, .zero, false⟩ f
  | .brk f => rejL32 ⟨.zero, .zero, .zero, false⟩ f
  | .hint32 _ => []
  | .add64 f => rejG ⟨.s, .src, .src, .zero, (modIn 0x0), false, .any, .plain⟩ f
  | .sub64 f => rejG ⟨.s, .src, .src, .zero, (modIn 0x0), false, .any, .plain⟩ f
  | .mul64 f => rejG ⟨.s, .src, .src, .zero, (modIn 0x0), false, .any, .plain⟩ f
  | .mulh64 f => rejG ⟨.s, .src, .src, .zero, (modIn 0x1), false, .any, .plain⟩ f
  | .div64 f => rejG ⟨.s, .src, .src, .zero, (modIn 0x1), false, .any, .plain⟩ f
  | .rem64 f => rejG ⟨.s, .src, .src, .zero, (modIn 0x1), false, .any, .plain⟩ f
  | .and64 f => rejG ⟨.s, .src, .src, .zero, (modIn 0x0), false, .any, .plain⟩ f
  | .or64 f => rejG ⟨.s, .src, .src, .zero, (modIn 0x0), false, .any, .plain⟩ f
  | .xor64 f => rejG ⟨.s, .src, .src, .zero, (modIn 0x0), false, .any, .plain⟩ f
  | .andn64 f => rejG ⟨.s, .src, .src, .zero, (modIn 0x0), false, .any, .plain⟩ f
  | .shl64 f => rejG ⟨.s, .src, .src, .zero, (modIn 0x0), false, .any, .plain⟩ f
  | .shr64 f => rejG ⟨.s, .src, .src, .zero, (modIn 0x1), false, .any, .plain⟩ f
  | .rotl64 f => rejG ⟨.s, .src, .src, .zero, (modIn 0x0), false, .any, .plain⟩ f
  | .min64 f => rejG ⟨.s, .src, .src, .zero, (modIn 0x1), false, .any, .plain⟩ f
  | .max64 f => rejG ⟨.s, .src, .src, .zero, (modIn 0x1), false, .any, .plain⟩ f
  | .sel f => rejG ⟨.s, .src, .src, .sc, (modIn 0x0), false, .zero, .plain⟩ f
  | .addi f => rejW ⟨.s, .src, (modIn 0x0), .any⟩ f
  | .muli f => rejW ⟨.s, .src, (modIn 0x0), .any⟩ f
  | .andi f => rejW ⟨.s, .src, (modIn 0x0), .any⟩ f
  | .ori f => rejW ⟨.s, .src, (modIn 0x0), .any⟩ f
  | .xori f => rejW ⟨.s, .src, (modIn 0x0), .any⟩ f
  | .shli f => rejW ⟨.s, .src, (modIn 0x0), .any⟩ f
  | .shri f => rejW ⟨.s, .src, (modIn 0x1), .any⟩ f
  | .li f => rejW ⟨.s, .zero, (modIn 0x0), .any⟩ f
  | .lia f => rejW ⟨.a, .zero, (modIn 0x1), .loc⟩ f
  | .addai f => rejW ⟨.a, .a, (modIn 0x0), .any⟩ f
  | .ceqi f => rejW ⟨.c, .src, (modIn 0x0), .any⟩ f
  | .cnei f => rejW ⟨.c, .src, (modIn 0x0), .any⟩ f
  | .clti f => rejW ⟨.c, .src, (modIn 0x1), .any⟩ f
  | .clei f => rejW ⟨.c, .src, (modIn 0x1), .any⟩ f
  | .cgti f => rejW ⟨.c, .src, (modIn 0x1), .any⟩ f
  | .cgei f => rejW ⟨.c, .src, (modIn 0x1), .any⟩ f
  | .ceq64 f => rejG ⟨.c, .src, .src, .zero, (modIn 0x0), false, .any, .plain⟩ f
  | .cne64 f => rejG ⟨.c, .src, .src, .zero, (modIn 0x0), false, .any, .plain⟩ f
  | .clt64 f => rejG ⟨.c, .src, .src, .zero, (modIn 0x1), false, .any, .plain⟩ f
  | .cle64 f => rejG ⟨.c, .src, .src, .zero, (modIn 0x1), false, .any, .plain⟩ f
  | .cand64 f => rejG ⟨.c, .src, .src, .zero, (modIn 0x1), false, .any, .plain⟩ f
  | .cor64 f => rejG ⟨.c, .src, .src, .zero, (modIn 0x1), false, .any, .plain⟩ f
  | .cxor64 f => rejG ⟨.c, .src, .src, .zero, (modIn 0x1), false, .any, .plain⟩ f
  | .mov64 f => rejG ⟨.mv, .mv, .part, .zero, (modIn 0x0), false, .zero, .plain⟩ f
  | .popc64 f => rejG ⟨.s, .src, .zrOnly, .zero, (modIn 0x0), false, .zero, .plain⟩ f
  | .clz64 f => rejG ⟨.s, .src, .zrOnly, .zero, (modIn 0x0), false, .zero, .plain⟩ f
  | .ctz64 f => rejG ⟨.s, .src, .zrOnly, .zero, (modIn 0x0), false, .zero, .plain⟩ f
  | .sext64 f => rejG ⟨.s, .src, .zrOnly, .zero, (modIn 0x0), false, (.low 6), .plain⟩ f
  | .adda64 f => rejG ⟨.a, .a, .s, .zero, (modIn 0x0), false, .any, .plain⟩ f
  | .suba64 f => rejG ⟨.s, .a, .a, .zero, (modIn 0x0), false, .zero, .plain⟩ f
  | .ldB f => rejG ⟨.s, .a, .s, .zero, (modIn 0x1), false, .any, .plain⟩ f
  | .ldH f => rejG ⟨.s, .a, .s, .zero, (modIn 0x1), false, .any, .plain⟩ f
  | .ldW f => rejG ⟨.s, .a, .s, .zero, (modIn 0x1), false, .any, .plain⟩ f
  | .ldD f => rejG ⟨.s, .a, .s, .zero, (modIn 0x0), false, .any, .plain⟩ f
  | .stB f => rejG ⟨.s, .a, .s, .zero, (modIn 0x0), false, .any, .plain⟩ f
  | .stH f => rejG ⟨.s, .a, .s, .zero, (modIn 0x0), false, .any, .plain⟩ f
  | .stW f => rejG ⟨.s, .a, .s, .zero, (modIn 0x0), false, .any, .plain⟩ f
  | .stD f => rejG ⟨.s, .a, .s, .zero, (modIn 0x0), false, .any, .plain⟩ f
  | .ldA f => rejG ⟨.a, .a, .s, .zero, (modIn 0x0), false, .any, .plain⟩ f
  | .stA f => rejG ⟨.a, .a, .s, .zero, (modIn 0x0), false, .any, .plain⟩ f
  | .b f => rejBranch f
  | .call f => rejBranch f
  | .loopI f => rejLoopI f
  | .loopS f => rejLoopS f
  | .wait f => rejG ⟨.zero, .a, .s, .s, (modBelow 3), true, .any, .plain⟩ f
  | .fenceC f => rejW ⟨.zero, .zero, (modIn 0xF), .classes⟩ f
  | .fenceX f => rejG ⟨.zero, .zero, .zero, .zero, (modIn 0x0), true, .paths, .plain⟩ f
  | .notify f => rejG ⟨.zero, .zero, .zero, .zero, (modIn 0x0), true, .zero, .plain⟩ f
  | .deadl f => rejG ⟨.zero, .s, .zero, .zero, (modIn 0x0), false, .any, .plain⟩ f
  | .idbeg f => rejG ⟨.zero, .zero, .zero, .zero, (modIn 0x0), false, .zero, .plain⟩ f
  | .idend f => rejG ⟨.zero, .zero, .zero, .zero, (modIn 0x0), false, .zero, .plain⟩ f
  | .mfs f => rejG ⟨.sa, .zero, .zero, .zero, (modIn 0x0), false, (.low 12), .plain⟩ f
  | .mts f => rejG ⟨.zero, .sa, .zero, .zero, (modIn 0x0), false, (.low 12), .plain⟩ f
  | .trap f => rejG ⟨.zero, .zero, .zero, .zero, (modIn 0x0), false, (.low 12), .plain⟩ f
  | .hint64 _ => []
  | .push f => rejG ⟨.val, .a, .s, .s, (modIn 0x7), false, .any, .plain⟩ f
  | .take f => rejG ⟨.s, .aZr, .s, .val, (modIn 0x0), false, .any, .take⟩ f
  | .barInit f => rejG ⟨.zero, .a, .s, .s, (modIn 0x0), true, .any, .plain⟩ f
  | .barArr f => rejG ⟨.s, .a, .zrOnly, .zero, (modIn 0x0), false, .any, .plain⟩ f
  | .barWait f => rejG ⟨.zero, .a, .zrOnly, .s, (modIn 0x0), false, .any, .plain⟩ f
  | .xwait f => rejG ⟨.zero, .zero, .zero, .s, (modIn 0xF), false, .zero, .plain⟩ f
  | .rclose f => rejG ⟨.s, .a, .s, .zero, (modIn 0x3), true, (.atomic [4, 5]), .plain⟩ f
  | .amoAdd f => rejG ⟨.s, .a, .s, .s, (modIn 0x7), true, (.atomic [0, 1, 2, 3]), .plain⟩ f
  | .amoFadd f => rejG ⟨.s, .a, .s, .s, (modIn 0x7), true, (.atomic [4, 5]), .plain⟩ f
  | .amoMin f => rejG ⟨.s, .a, .s, .s, (modIn 0xF), true, (.atomic [0, 1, 2, 3]), .plain⟩ f
  | .amoMax f => rejG ⟨.s, .a, .s, .s, (modIn 0xF), true, (.atomic [0, 1, 2, 3]), .plain⟩ f
  | .amoAnd f => rejG ⟨.s, .a, .s, .s, (modIn 0x7), true, (.atomic [0, 1, 2, 3]), .plain⟩ f
  | .amoOr f => rejG ⟨.s, .a, .s, .s, (modIn 0x7), true, (.atomic [0, 1, 2, 3]), .plain⟩ f
  | .amoXor f => rejG ⟨.s, .a, .s, .s, (modIn 0x7), true, (.atomic [0, 1, 2, 3]), .plain⟩ f
  | .amoSwp f => rejG ⟨.s, .a, .s, .s, (modIn 0x7), true, (.atomic [0, 1, 2, 3, 4, 5]), .plain⟩ f
  | .amoCas f => rejG ⟨.s, .a, .s, .s, (modIn 0x7), true, (.atomic [0, 1, 2, 3, 4, 5]), .plain⟩ f
  | .amoFmin f => rejG ⟨.s, .a, .s, .s, (modIn 0x7), true, (.atomic [4, 5]), .plain⟩ f
  | .amoFmax f => rejG ⟨.s, .a, .s, .s, (modIn 0x7), true, (.atomic [4, 5]), .plain⟩ f
  | .redAdd f => rejG ⟨.zero, .a, .s, .s, (modIn 0x6), true, (.atomic [0, 1, 2, 3]), .plain⟩ f
  | .redFadd f => rejG ⟨.zero, .a, .s, .s, (modIn 0x6), true, (.atomic [4, 5]), .plain⟩ f
  | .redMin f => rejG ⟨.zero, .a, .s, .s, (modIn 0xE), true, (.atomic [0, 1, 2, 3]), .plain⟩ f
  | .redMax f => rejG ⟨.zero, .a, .s, .s, (modIn 0xE), true, (.atomic [0, 1, 2, 3]), .plain⟩ f
  | .redAnd f => rejG ⟨.zero, .a, .s, .s, (modIn 0x6), true, (.atomic [0, 1, 2, 3]), .plain⟩ f
  | .redOr f => rejG ⟨.zero, .a, .s, .s, (modIn 0x6), true, (.atomic [0, 1, 2, 3]), .plain⟩ f
  | .redXor f => rejG ⟨.zero, .a, .s, .s, (modIn 0x6), true, (.atomic [0, 1, 2, 3]), .plain⟩ f
  | .redFmin f => rejG ⟨.zero, .a, .s, .s, (modIn 0x6), true, (.atomic [4, 5]), .plain⟩ f
  | .redFmax f => rejG ⟨.zero, .a, .s, .s, (modIn 0x6), true, (.atomic [4, 5]), .plain⟩ f
  | .vmovWv f => rejVM false f
  | .vmovVw f => rejVM true f
  | .vadd f => rejV (formVadd f) f
  | .vsub f => rejV (formVsub f) f
  | .vmul f => rejV (formVmul f) f
  | .vfma f => rejV (formVfma f) f
  | .vfms f => rejV (formVfms f) f
  | .vmin f => rejV (formVmin f) f
  | .vmax f => rejV (formVmax f) f
  | .vabs f => rejV (formVabs f) f
  | .vneg f => rejV (formVneg f) f
  | .vand f => rejV (formVand f) f
  | .vor f => rejV (formVor f) f
  | .vxor f => rejV (formVxor f) f
  | .vshl f => rejV (formVshl f) f
  | .vshr f => rejV (formVshr f) f
  | .vsel f => rejV (formVsel f) f
  | .vcmp f => rejV (formVcmp f) f
  | .vcvt f => rejV (formVcvt f) f
  | .vwid f => rejV (formVwid f) f
  | .vnar f => rejV (formVnar f) f
  | .vqmx f => rejV (formVqmx f) f
  | .vsplat f => rejV (formVsplat f) f
  | .vrsum f => rejV (formVrsum f) f
  | .vrmax f => rejV (formVrmax f) f
  | .vrmin f => rejV (formVrmin f) f
  | .vscan f => rejV (formVscan f) f
  | .vexp2 f => rejV (formVexp2 f) f
  | .vlog2 f => rejV (formVlog2 f) f
  | .vrcp f => rejV (formVrcp f) f
  | .vrsqrt f => rejV (formVrsqrt f) f
  | .vsqrt f => rejV (formVsqrt f) f
  | .vtanh f => rejV (formVtanh f) f
  | .vsigm f => rejV (formVsigm f) f
  | .vsin f => rejV (formVsin f) f
  | .vskein f => rejV (formVskein f) f
  | .vgauss f => rejV (formVgauss f) f
  | .vunif f => rejV (formVunif f) f
  | .vdrop f => rejV (formVdrop f) f
  | .vld f => rejG ⟨(.idx 8), .a, .s, .zero, (modBelow 7), false, .any, .plain⟩ f
  | .vst f => rejG ⟨(.idx 8), .a, .s, .zero, (modBelow 7), false, .any, .plain⟩ f
  | .vgath f => rejG ⟨(.idx 8), .a, .s, (.idx 8), (modBelow 6), false, .any, .plain⟩ f
  | .vscat f => rejG ⟨(.idx 8), .a, .s, (.idx 8), (modBelow 6), false, .any, .plain⟩ f
  | .vperm f => rejV (formVperm f) f
  | .tld f => rejG ⟨(.idx 16), .a, .s, .s, tileFmt, false, .any, .plain⟩ f
  | .tst f => rejG ⟨(.idx 16), .a, .s, .s, (modIn 0x1), false, .any, .plain⟩ f
  | .mma f => rejM (formMma f) f
  | .mmp f => rejM (formMmp f) f
  | .mmg f => rejM (formMmg f) f
  | .mmw f => rejM (formMmw f) f
  | .mmdm f => rejM (formMmdm f) f
  | .mmdq f => rejM (formMmdq f) f
  | .zclr f => rejG ⟨(.idx 8), .zero, .zero, .zero, (modIn 0x0), false, .zero, .plain⟩ f
  | .zout f => rejG ⟨(.idx 8), .a, .s, .s, (modIn 0x7), false, .any, .plain⟩ f
  | .zsave f => rejG ⟨(.idx 8), .zero, .zero, .zero, (modIn 0x0), false, (.low 12), .plain⟩ f
  | .zload f => rejG ⟨(.idx 8), .zero, .zero, .zero, (modIn 0x0), false, (.low 12), .plain⟩ f
  | .broadcastGroupStart _ _ => []
  | .cpy f => rejG ⟨.s, .aZr, .grp, .s, (modIn 0x7), true, .any, .copy⟩ f
  | .cpyt f => rejG ⟨.s, .aZr, .grp, .s, (modIn 0x7), true, .any, .copy⟩ f
  | .cpyh f => rejG ⟨.s, .aZr, .grp, .s, (modIn 0x3), true, .any, .copy⟩ f
  | .cpym f => rejG ⟨.s, .aZr, .grp, .s, (modIn 0x3), true, .any, .copy⟩ f
  | .cpyi f => rejG ⟨.s, .aZr, .grp, .s, (modIn 0x3), true, .any, .copy⟩ f
  | .cpyf f => rejG ⟨.s, .aZr, .grp, .s, (modIn 0xF), true, .any, .cpyf⟩ f
  | .chst f => rejG ⟨.zero, .aZr, .zero, .zero, (modIn 0x3), true, .any, .base⟩ f
  | .cwr f => rejG ⟨.s, .a, .zero, .s, (modIn 0x3), true, .any, .plain⟩ f
  | .ckopen f => rejG ⟨.s, .zero, .zero, .zero, (modIn 0x0), false, (.low 8), .plain⟩ f
  | .ckput f => rejG ⟨.s, .aZr, .grp, .s, (modIn 0x3), true, (.low 8), .value⟩ f
  | .ckseal f => rejG ⟨.s, .zero, .zero, .zero, (modIn 0x0), true, (.low 8), .plain⟩ f
  | .ckget f => rejG ⟨.s, .aZr, .zero, .s, (modIn 0x3), true, (.low 8), .value⟩ f
  | .hflush f => rejG ⟨.s, .a, .s, .s, (modIn 0x3), true, .any, .plain⟩ f
  | .msend f => rejG ⟨.s, .a, .zero, .s, (modIn 0x0), true, .any, .plain⟩ f
  | .karm f => rejG ⟨.s, .a, .zero, .zero, (modIn 0x0), false, .any, .plain⟩ f
  | .kdisarm f => rejG ⟨.s, .zero, .zero, .zero, (modIn 0x0), false, .zero, .plain⟩ f
  | .kred f => rejG ⟨.zero, .a, .s, .a, (modIn 0x4), false, .typeCode, .plain⟩ f
  | .kgath f => rejG ⟨.zero, .a, .s, .a, (modIn 0x0), false, .any, .plain⟩ f
  | .kbcast f => rejG ⟨.s, .a, .s, .a, (modIn 0x0), false, .any, .plain⟩ f
  | .ksync f => rejG ⟨.zero, .zero, .zero, .a, (modIn 0x0), false, .zero, .plain⟩ f
  | .gload f => rejG ⟨.val, .a, .s, .zero, (modIn 0x0), false, .any, .plain⟩ f
  | .gfeed f => rejG ⟨.s, .a, .s, .s, (modIn 0x0), false, .any, .plain⟩ f
  | .gtake f => rejG ⟨.zero, .a, .s, .s, (modIn 0x0), false, .any, .plain⟩ f
  | .gunload f => rejG ⟨.val, .aZr, .s, .zero, (modIn 0x0), false, .any, .base⟩ f
  | .gquiet f => rejG ⟨.s, .zero, .zero, .zero, (modIn 0x0), false, .zero, .plain⟩ f
  | .packagePowerOn => []
  | .pushSendStart _ _ => []
  | .pushPieceLand _ => []
  | .mergeEntrySend _ _ => []
  | .fetchReplySplit _ => []
  | .sectionHeaderPass _ => []
  | .sectionRetire _ => []
  | .tileWaitResume _ => []
  | .takeRetire _ => []
  | .waitReread _ => []
  | .barWaitReread _ => []
  | .barrierDelivery _ => []
  | .xwaitRetire _ => []
  | .channelSlotResume _ => []
  | .transferComplete _ _ _ => []
  | .chainRecordStart _ _ => []
  | .tileFill _ _ => []
  | .followOnIssue _ => []
  | .stealRelocatableGroup _ _ => []
  | .combinerFire _ _ _ => []
  | .epochCloseAtCourseEnd _ => []
  | .pageWalkComplete _ _ => []
  | .translationInvalidate _ _ _ _ => []
  | .shapeTableWrite _ _ _ _ => []
  | .bdcfgWrite _ _ => []
  | .shutterOff _ => []
  | .shutterWakeStart _ => []
  | .shutterWakeComplete _ => []
  | .moveFire _ _ _ => []
  | .memLoadPerform _ _ => []
  | .stampCommit _ => []
  | .squashReentry _ _ => []
  | .feedTokenEntry _ => []
  | .latticeQuietRetire _ => []
  | .imageOpen _ => []
  | .imageCommit _ => []
  | .imageUnload _ => []
  | .imageApertureWrite _ _ _ _ => []
  | .launchTrigger _ _ => []
  | .taskSelect => []
  | .taskBind _ => []
  | .courseStart _ => []
  | .courseListSkip _ => []
  | .courseListJump _ => []
  | .courseListCall _ => []
  | .courseListReturn _ => []
  | .courseListDeadline _ => []
  | .courseListNotify _ => []
  | .preemptEstimator _ => []
  | .preemptDrain _ => []
  | .preemptSave _ => []
  | .preemptDiscard _ => []
  | .distributorPreemptRequest _ => []
  | .preemptStopComplete _ _ => []
  | .teamResume _ _ => []
  | .messageReceipt _ _ => []
  | .unarmedTagRefusalReturn _ => []
  | .governorEvaluation => []
  | .clockSwitch => []
  | .transitEnd => []
  | .byteBudgetInterval => []
  | .pcapWrite _ => []
  | .softThermalThreshold _ _ => []
  | .lockInterface _ _ _ _ => []
  | .getVersion _ => []
  | .getCapabilities _ => []
  | .negotiateAlgorithms _ => []
  | .getDigests _ => []
  | .getCertificate _ => []
  | .challenge _ => []
  | .getMeasurements _ => []
  | .keyExchange _ => []
  | .finish _ => []
  | .heartbeat _ => []
  | .keyUpdate _ => []
  | .endSession _ => []
  | .subscribeEventTypes _ => []
  | .provision _ _ => []
  | .reprovision _ _ => []
  | .release _ _ _ => []
  | .attest _ => []
  | .dieRestartRequest _ _ _ => []
  | .firmwareStage _ _ => []
  | .firmwareActivate _ _ => []
  | .hostRead _ => []
  | .hostWrite _ _ => []
  | .podPacketReceive _ _ => []
  | .safeTierCopy => []
  | .safeTierCopyDone _ => []
  | .safeRestore => []
  | .evacuationStart => []
  | .extentMove => []
  | .evacuationResume => []
  | .spilledExtentReturn => []
  | .streamingCrcFailure _ _ => []
  | .courseAbortCrc _ => []
  | .ordinaryCrcRetry _ _ _ => []
  | .scrubPass _ _ => []
  | .uncorrectableError _ => []
  | .parityError _ => []
  | .staleResponseDiscard _ _ => []
  | .dieLostDeclare _ _ => []
  | .faultStop => []
  | .peerStop _ _ => []
  | .engstopResume _ _ => []
  | .faultRetry _ _ => []
  | .faultRerun _ _ => []
  | .faultAbandon _ _ => []
  | .retryRestart _ _ => []
  | .courseRerun _ => []
  | .rebindAfterLoss _ => []
  | .dieQuiet _ => []
  | .selfTestStart _ => []
  | .rejoinStart _ => []
  | .rejoinComplete _ => []
  | .rejoinTimeout _ => []
  | .bdTableError _ _ => []
  | .packageReset => []
  | .hardThermalTrip _ _ _ => []
  | .tripcauseWrite _ _ => []
  | .trippedDieCooldown _ _ => []
  | .deadlineMiss _ _ => []
  | .keySlotEccFailure _ _ _ => []
  | .keyReloadComplete _ _ => []
  | .measurementFailure _ => []
  | .registerWrite _ _ => []
  | .variableLatencyResult _ => []
  | .accessPerformsAtHome _ => []
  | .startInterfaceRequest _ => []
  | .stopInterfaceRequest _ => []
  | .podJoin _ _ => []
  | .podPacketRetransmit _ _ => []
  | .safeRestoreDone _ => []
  | .softThermalClear _ _ => []

/-- The reserved-encoding reason reported for an instruction, if its encoding is reserved (R377, R387). -/
def Instr.reject (i : Instr) : Option Reject := firstReject i.rejects

/-- An instruction whose encoding is not reserved. -/
def Instr.wf (i : Instr) : Bool := i.rejects.isEmpty

end Sys2Proof
end

