-- ==== Sys2Proof/Decode.lean ====
section
/-! DEFINITION. Decoding (06 R147-R166, 21 R397), total on any words, and after it the encoder from the same tables.
A reserved encoding is refused by the reason of R387; a hint is judged by its length and opcode alone. -/

namespace Sys2Proof

/-! ## Lengths and opcodes -/

/-- The words of an instruction whose first word is `w` (R147); 0 for a section header. -/
def lengthOf (w : Word32) : Nat :=
  match w.toNat % 4 with
  | 0 => 1 | 1 => 2 | 2 => 3 | _ => 0

/-- The opcode of a 32-bit form (R149). -/
def op32 (w : Word32) : Nat := w.toNat / 32 % 256

/-- The opcode of a 64-bit or 96-bit form (R150). -/
def op10 (w : Word32) : Nat := w.toNat / 64 % 1024

/-- The subsets of R164, with the hint and reserved ranges. -/
inductive Subset
  | common | vector | matrix | transfer | lattice | home | message | hint | reserved
  deriving DecidableEq, Repr

/-- The range a 10-bit opcode lies in (R164). -/
def subsetOf (op : Nat) : Subset :=
  if op < 0x100 then .common else if op < 0x200 then .vector else if op < 0x280 then .matrix
  else if op < 0x300 then .transfer else if op < 0x340 then .lattice else if op < 0x380 then .home
  else if op < 0x3C0 then .message else if op < 0x3E0 then .hint else .reserved

/-- Whether a kind of engine executes a subset (R165). Every kind executes the common range and the hints; the
reserved range belongs to no subset, so its opcodes are refused as unassigned. -/
def EngKind.executes (k : EngKind) (s : Subset) : Bool :=
  match s, k with
  | .common, _ => true
  | .hint, _ => true
  | .reserved, _ => true
  | .vector, .ve => true
  | .matrix, .me => true
  | .transfer, .ce => true
  | .transfer, .be => true
  | .lattice, .ge => true
  | .home, .be => true
  | .message, .ke => true
  | _, _ => false

/-! ## Fields -/

/-- The fields of a 32-bit form (R149). -/
def getL32 (w : Word32) : L32 where
  flg := w.extractLsb' 31 1
  b := w.extractLsb' 25 6
  a := w.extractLsb' 19 6
  d := w.extractLsb' 13 6
  stall := w.extractLsb' 2 3

def getH32 (w : Word32) : LH32 where
  rest := w.extractLsb' 13 19
  op := w.extractLsb' 5 4
  stall := w.extractLsb' 2 3

/-- Bits 63:0 of a 64-bit or 96-bit instruction (R3). -/
def join (w0 w1 : Word32) : Word := w1 ++ w0

/-- The immediate of layouts G and V (R152, R155). -/
def getImmG (b : Word) (lit : Option Word32) : ImmG :=
  match lit with
  | none => .short (b.extractLsb' 52 12)
  | some l => .wide (l ++ b.extractLsb' 52 12)

/-- The immediate of layout W (R153). -/
def getImmW (b : Word) (lit : Option Word32) : ImmW :=
  match lit with
  | none => .short (b.extractLsb' 36 28)
  | some l => .wide (l ++ b.extractLsb' 36 28)

def getH64 (b : Word) (lit : Option Word32) : LH64 where
  lit := lit
  rest := b.extractLsb' 20 44
  cls := b.extractLsb' 16 4
  op := b.extractLsb' 6 5
  stall := b.extractLsb' 2 4

/-- Layout G (R152). -/
def getG (b : Word) (lit : Option Word32) : LG where
  imm := getImmG b lit
  mod := b.extractLsb' 48 4
  scope := b.extractLsb' 44 4
  x := b.extractLsb' 38 6
  b := b.extractLsb' 32 6
  a := b.extractLsb' 26 6
  d := b.extractLsb' 20 6
  cls := b.extractLsb' 16 4
  stall := b.extractLsb' 2 4

/-- Layout W (R153). -/
def getW (b : Word) (lit : Option Word32) : LW where
  imm := getImmW b lit
  mod := b.extractLsb' 32 4
  a := b.extractLsb' 26 6
  d := b.extractLsb' 20 6
  cls := b.extractLsb' 16 4
  stall := b.extractLsb' 2 4

/-- Layout B (R154). -/
def getB (b : Word) : LB where
  off := b.extractLsb' 44 20
  imm := b.extractLsb' 28 16
  lc := b.extractLsb' 26 2
  cnd := b.extractLsb' 23 3
  kind := b.extractLsb' 20 2
  cls := b.extractLsb' 16 4
  stall := b.extractLsb' 2 4

/-- Layout V (R155). -/
def getV (b : Word) (lit : Option Word32) : LV where
  imm := getImmG b lit
  mod := b.extractLsb' 48 4
  fd := b.extractLsb' 44 4
  fs := b.extractLsb' 40 4
  sx := b.extractLsb' 35 5
  lu := b.extractLsb' 32 3
  wx := b.extractLsb' 29 3
  wb := b.extractLsb' 26 3
  wa := b.extractLsb' 23 3
  wd := b.extractLsb' 20 3
  cls := b.extractLsb' 16 4
  stall := b.extractLsb' 2 4

/-- Layout VM (R156). -/
def getVM (b : Word) : LVM where
  cnt := b.extractLsb' 31 2
  lu := b.extractLsb' 30 1
  vn := b.extractLsb' 23 7
  wn := b.extractLsb' 20 3
  cls := b.extractLsb' 16 4
  stall := b.extractLsb' 2 4

/-- Layout M (R157). -/
def getM (b : Word) : LM where
  mod := b.extractLsb' 54 10
  fb := b.extractLsb' 50 4
  fa := b.extractLsb' 46 4
  sx := b.extractLsb' 41 5
  sbb := b.extractLsb' 36 5
  sba := b.extractLsb' 31 5
  tb := b.extractLsb' 27 4
  ta := b.extractLsb' 23 4
  zd := b.extractLsb' 20 3
  cls := b.extractLsb' 16 4
  stall := b.extractLsb' 2 4

/-! ## The opcode maps -/

/-- The 32-bit opcodes (R163). -/
def make32 (op : Nat) (f : L32) : Option Instr :=
  match op with
  | 0x00 => some (.nop f)
  | 0x01 => some (.add32 f)
  | 0x02 => some (.sub32 f)
  | 0x03 => some (.mul32 f)
  | 0x04 => some (.mulh32 f)
  | 0x05 => some (.div32 f)
  | 0x06 => some (.rem32 f)
  | 0x07 => some (.and32 f)
  | 0x08 => some (.or32 f)
  | 0x09 => some (.xor32 f)
  | 0x0A => some (.andn32 f)
  | 0x0B => some (.shl32 f)
  | 0x0C => some (.shr32 f)
  | 0x0D => some (.rotl32 f)
  | 0x0E => some (.min32 f)
  | 0x0F => some (.max32 f)
  | 0x10 => some (.addq f)
  | 0x11 => some (.shlq f)
  | 0x12 => some (.shrq f)
  | 0x13 => some (.mov32 f)
  | 0x14 => some (.popc32 f)
  | 0x15 => some (.clz32 f)
  | 0x16 => some (.ctz32 f)
  | 0x17 => some (.sext32 f)
  | 0x18 => some (.ceq32 f)
  | 0x19 => some (.cne32 f)
  | 0x1A => some (.clt32 f)
  | 0x1B => some (.cle32 f)
  | 0x1C => some (.cand32 f)
  | 0x1D => some (.cor32 f)
  | 0x1E => some (.cxor32 f)
  | 0x20 => some (.adda32 f)
  | 0x21 => some (.suba32 f)
  | 0x22 => some (.ldxB f)
  | 0x23 => some (.ldxH f)
  | 0x24 => some (.ldxW f)
  | 0x25 => some (.ldxD f)
  | 0x26 => some (.stxB f)
  | 0x27 => some (.stxH f)
  | 0x28 => some (.stxW f)
  | 0x29 => some (.stxD f)
  | 0x30 => some (.jr f)
  | 0x31 => some (.callr f)
  | 0x32 => some (.ret f)
  | 0x33 => some (.eret f)
  | 0x34 => some (.brk f)
  | _ => none

/-- The 10-bit opcodes of layout G (R164). -/
def makeG (op : Nat) (f : LG) : Option Instr :=
  match op with
  | 0x000 => some (.add64 f)
  | 0x001 => some (.sub64 f)
  | 0x002 => some (.mul64 f)
  | 0x003 => some (.mulh64 f)
  | 0x004 => some (.div64 f)
  | 0x005 => some (.rem64 f)
  | 0x006 => some (.and64 f)
  | 0x007 => some (.or64 f)
  | 0x008 => some (.xor64 f)
  | 0x009 => some (.andn64 f)
  | 0x00A => some (.shl64 f)
  | 0x00B => some (.shr64 f)
  | 0x00C => some (.rotl64 f)
  | 0x00D => some (.min64 f)
  | 0x00E => some (.max64 f)
  | 0x00F => some (.sel f)
  | 0x020 => some (.ceq64 f)
  | 0x021 => some (.cne64 f)
  | 0x022 => some (.clt64 f)
  | 0x023 => some (.cle64 f)
  | 0x024 => some (.cand64 f)
  | 0x025 => some (.cor64 f)
  | 0x026 => some (.cxor64 f)
  | 0x027 => some (.mov64 f)
  | 0x028 => some (.popc64 f)
  | 0x029 => some (.clz64 f)
  | 0x02A => some (.ctz64 f)
  | 0x02B => some (.sext64 f)
  | 0x02C => some (.adda64 f)
  | 0x02D => some (.suba64 f)
  | 0x040 => some (.ldB f)
  | 0x041 => some (.ldH f)
  | 0x042 => some (.ldW f)
  | 0x043 => some (.ldD f)
  | 0x044 => some (.stB f)
  | 0x045 => some (.stH f)
  | 0x046 => some (.stW f)
  | 0x047 => some (.stD f)
  | 0x048 => some (.ldA f)
  | 0x049 => some (.stA f)
  | 0x060 => some (.wait f)
  | 0x062 => some (.fenceX f)
  | 0x063 => some (.notify f)
  | 0x064 => some (.deadl f)
  | 0x065 => some (.idbeg f)
  | 0x066 => some (.idend f)
  | 0x067 => some (.mfs f)
  | 0x068 => some (.mts f)
  | 0x069 => some (.trap f)
  | 0x080 => some (.push f)
  | 0x081 => some (.take f)
  | 0x082 => some (.barInit f)
  | 0x083 => some (.barArr f)
  | 0x084 => some (.barWait f)
  | 0x085 => some (.xwait f)
  | 0x086 => some (.rclose f)
  | 0x088 => some (.amoAdd f)
  | 0x089 => some (.amoFadd f)
  | 0x08A => some (.amoMin f)
  | 0x08B => some (.amoMax f)
  | 0x08C => some (.amoAnd f)
  | 0x08D => some (.amoOr f)
  | 0x08E => some (.amoXor f)
  | 0x08F => some (.amoSwp f)
  | 0x090 => some (.amoCas f)
  | 0x091 => some (.amoFmin f)
  | 0x092 => some (.amoFmax f)
  | 0x098 => some (.redAdd f)
  | 0x099 => some (.redFadd f)
  | 0x09A => some (.redMin f)
  | 0x09B => some (.redMax f)
  | 0x09C => some (.redAnd f)
  | 0x09D => some (.redOr f)
  | 0x09E => some (.redXor f)
  | 0x09F => some (.redFmin f)
  | 0x0A0 => some (.redFmax f)
  | 0x138 => some (.vld f)
  | 0x139 => some (.vst f)
  | 0x13A => some (.vgath f)
  | 0x13B => some (.vscat f)
  | 0x200 => some (.tld f)
  | 0x201 => some (.tst f)
  | 0x210 => some (.zclr f)
  | 0x211 => some (.zout f)
  | 0x212 => some (.zsave f)
  | 0x213 => some (.zload f)
  | 0x280 => some (.cpy f)
  | 0x281 => some (.cpyt f)
  | 0x282 => some (.cpyh f)
  | 0x283 => some (.cpym f)
  | 0x284 => some (.cpyi f)
  | 0x285 => some (.cpyf f)
  | 0x286 => some (.chst f)
  | 0x287 => some (.cwr f)
  | 0x340 => some (.ckopen f)
  | 0x341 => some (.ckput f)
  | 0x342 => some (.ckseal f)
  | 0x343 => some (.ckget f)
  | 0x344 => some (.hflush f)
  | 0x380 => some (.msend f)
  | 0x381 => some (.karm f)
  | 0x382 => some (.kdisarm f)
  | 0x383 => some (.kred f)
  | 0x384 => some (.kgath f)
  | 0x385 => some (.kbcast f)
  | 0x386 => some (.ksync f)
  | 0x300 => some (.gload f)
  | 0x301 => some (.gfeed f)
  | 0x302 => some (.gtake f)
  | 0x303 => some (.gunload f)
  | 0x304 => some (.gquiet f)
  | _ => none

/-- The 10-bit opcodes of layout W (R164). -/
def makeW (op : Nat) (f : LW) : Option Instr :=
  match op with
  | 0x010 => some (.addi f)
  | 0x011 => some (.muli f)
  | 0x012 => some (.andi f)
  | 0x013 => some (.ori f)
  | 0x014 => some (.xori f)
  | 0x015 => some (.shli f)
  | 0x016 => some (.shri f)
  | 0x017 => some (.li f)
  | 0x018 => some (.lia f)
  | 0x019 => some (.addai f)
  | 0x01A => some (.ceqi f)
  | 0x01B => some (.cnei f)
  | 0x01C => some (.clti f)
  | 0x01D => some (.clei f)
  | 0x01E => some (.cgti f)
  | 0x01F => some (.cgei f)
  | 0x061 => some (.fenceC f)
  | _ => none

/-- The 10-bit opcodes of layout B (R164). -/
def makeB (op : Nat) (f : LB) : Option Instr :=
  match op with
  | 0x050 => some (.b f)
  | 0x051 => some (.call f)
  | 0x052 => some (.loopI f)
  | 0x053 => some (.loopS f)
  | _ => none

/-- The 10-bit opcodes of layout V (R164). -/
def makeV (op : Nat) (f : LV) : Option Instr :=
  match op with
  | 0x108 => some (.vadd f)
  | 0x109 => some (.vsub f)
  | 0x10A => some (.vmul f)
  | 0x10B => some (.vfma f)
  | 0x10C => some (.vfms f)
  | 0x10D => some (.vmin f)
  | 0x10E => some (.vmax f)
  | 0x10F => some (.vabs f)
  | 0x110 => some (.vneg f)
  | 0x111 => some (.vand f)
  | 0x112 => some (.vor f)
  | 0x113 => some (.vxor f)
  | 0x114 => some (.vshl f)
  | 0x115 => some (.vshr f)
  | 0x116 => some (.vsel f)
  | 0x117 => some (.vcmp f)
  | 0x118 => some (.vcvt f)
  | 0x119 => some (.vwid f)
  | 0x11A => some (.vnar f)
  | 0x11B => some (.vqmx f)
  | 0x11C => some (.vsplat f)
  | 0x120 => some (.vrsum f)
  | 0x121 => some (.vrmax f)
  | 0x122 => some (.vrmin f)
  | 0x123 => some (.vscan f)
  | 0x128 => some (.vexp2 f)
  | 0x129 => some (.vlog2 f)
  | 0x12A => some (.vrcp f)
  | 0x12B => some (.vrsqrt f)
  | 0x12C => some (.vsqrt f)
  | 0x12D => some (.vtanh f)
  | 0x12E => some (.vsigm f)
  | 0x12F => some (.vsin f)
  | 0x130 => some (.vskein f)
  | 0x131 => some (.vgauss f)
  | 0x132 => some (.vunif f)
  | 0x133 => some (.vdrop f)
  | 0x13C => some (.vperm f)
  | _ => none

/-- The 10-bit opcodes of layout VM (R164). -/
def makeVM (op : Nat) (f : LVM) : Option Instr :=
  match op with
  | 0x100 => some (.vmovWv f)
  | 0x101 => some (.vmovVw f)
  | _ => none

/-- The 10-bit opcodes of layout M (R164). -/
def makeM (op : Nat) (f : LM) : Option Instr :=
  match op with
  | 0x208 => some (.mma f)
  | 0x209 => some (.mmp f)
  | 0x20A => some (.mmg f)
  | 0x20B => some (.mmw f)
  | 0x20C => some (.mmdm f)
  | 0x20D => some (.mmdq f)
  | _ => none

/-- An instruction read from 64 bits and a literal, with the faults its layout cannot hold: bit 22 of layout B and bits
63:33 of layout VM are zero (R154, R156), and layouts B, VM and M have no 96-bit form (R151). -/
def make10 (op : Nat) (b : Word) (lit : Option Word32) : Option (Instr × List Reject) :=
  match makeG op (getG b lit), makeW op (getW b lit), makeV op (getV b lit), makeM op (getM b), makeB op (getB b),
      makeVM op (getVM b) with
  | some i, _, _, _, _, _ => some (i, [])
  | _, some i, _, _, _, _ => some (i, [])
  | _, _, some i, _, _, _ => some (i, [])
  | _, _, _, some i, _, _ => some (i, rejIf lit.isSome 6 64)
  | _, _, _, _, some i, _ => some (i, rejIf (b.getLsbD 22) 5 22 ++ rejIf lit.isSome 6 64)
  | _, _, _, _, _, some i => some (i, rejIf (b.extractLsb' 33 31 != 0) 5 33 ++ rejIf lit.isSome 6 64)
  | _, _, _, _, _, _ => none

/-! ## Decoding -/

/-- Accept an instruction, or refuse it by the reason of R377. -/
def allow (i : Instr) (extra : List Reject) : Except Reject Instr :=
  match firstReject (extra ++ i.rejects) with
  | none => .ok i
  | some r => .error r

/-- Decode a 32-bit word (R163, R166). -/
def decode32 (w : Word32) : Except Reject Instr :=
  if 0xE0 ≤ op32 w ∧ op32 w < 0xF0 then .ok (.hint32 (getH32 w))
  else match make32 (op32 w) (getL32 w) with
    | some i => allow i []
    | none => .error ⟨1, 5⟩

/-- Decode a 64-bit or 96-bit instruction (R164, R166). -/
def decode10 (w0 w1 : Word32) (lit : Option Word32) : Except Reject Instr :=
  if subsetOf (op10 w0) = .hint then .ok (.hint64 (getH64 (join w0 w1) lit))
  else match make10 (op10 w0) (join w0 w1) lit with
    | some (i, extra) => allow i extra
    | none => .error ⟨1, 6⟩

/-- Decode exactly the words of one instruction. Reason 0 says that the list is not the words its first word asks for. -/
def decodeWords (ws : List Word32) : Except Reject Instr :=
  match ws with
  | [w0] => if lengthOf w0 = 1 then decode32 w0 else .error ⟨0, 255⟩
  | [w0, w1] => if lengthOf w0 = 2 then decode10 w0 w1 none else .error ⟨0, 255⟩
  | [w0, w1, w2] => if lengthOf w0 = 3 then decode10 w0 w1 (some w2) else .error ⟨0, 255⟩
  | _ => .error ⟨0, 255⟩

/-- Decode for a kind of engine: an opcode in a range the engine does not execute is refused first (R165, R397). -/
def decodeFor (k : EngKind) (ws : List Word32) : Except Reject Instr :=
  match ws with
  | w0 :: _ :: _ => if k.executes (subsetOf (op10 w0)) then decodeWords ws else .error ⟨2, 6⟩
  | _ => decodeWords ws

/-- A word from its four bytes, lowest address first (R3). -/
def wordOfBytes (b0 b1 b2 b3 : Byte) : Word32 := b3 ++ b2 ++ b1 ++ b0

/-- The bytes of a word, lowest address first (R3). -/
def bytesOfWord (w : Word32) : List Byte :=
  [w.extractLsb' 0 8, w.extractLsb' 8 8, w.extractLsb' 16 8, w.extractLsb' 24 8]

/-- Words from bytes; fewer than four bytes at the end are left out. -/
def wordsOfBytes : List Byte → List Word32
  | b0 :: b1 :: b2 :: b3 :: bs => wordOfBytes b0 b1 b2 b3 :: wordsOfBytes bs
  | _ => []

/-- Decode any bytes: the instruction at their start. -/
def decodeBytes (bs : List Byte) : Except Reject Instr :=
  match wordsOfBytes bs with
  | [] => .error ⟨0, 255⟩
  | w :: ws => decodeWords ((w :: ws).take (lengthOf w))

/-! ## The encoder -/

def putL32 (op : Nat) (f : L32) : Word32 :=
  f.flg ++ f.b ++ f.a ++ f.d ++ BitVec.ofNat 8 op ++ f.stall ++ (0#2)

def putH32 (f : LH32) : Word32 := f.rest ++ (0xE#4) ++ f.op ++ f.stall ++ (0#2)

/-- The words of 64 bits and a literal (R3). -/
def split (b : Word) (lit : Option Word32) : List Word32 :=
  b.extractLsb' 0 32 :: b.extractLsb' 32 32 :: lit.toList

/-- Bits 19:0 of every 64-bit and 96-bit instruction (R150). -/
def low20 (op : Nat) (cls stall : BitVec 4) (long : Bool) : BitVec 20 :=
  cls ++ BitVec.ofNat 10 op ++ stall ++ (if long then 2#2 else 1#2)

def ImmG.low : ImmG → BitVec 12
  | .short v => v
  | .wide v => v.extractLsb' 0 12
def ImmG.lit : ImmG → Option Word32
  | .short _ => none
  | .wide v => some (v.extractLsb' 12 32)
def ImmW.low : ImmW → BitVec 28
  | .short v => v
  | .wide v => v.extractLsb' 0 28
def ImmW.lit : ImmW → Option Word32
  | .short _ => none
  | .wide v => some (v.extractLsb' 28 32)

def putH64 (f : LH64) : List Word32 :=
  split (f.rest ++ (f.cls ++ (0x1E#5) ++ f.op ++ f.stall ++ (if f.lit.isSome then 2#2 else 1#2))) f.lit

def putG (op : Nat) (f : LG) : List Word32 :=
  split (f.imm.low ++ f.mod ++ f.scope ++ f.x ++ f.b ++ f.a ++ f.d ++ low20 op f.cls f.stall f.imm.isWide) f.imm.lit

def putW (op : Nat) (f : LW) : List Word32 :=
  split (f.imm.low ++ f.mod ++ f.a ++ f.d ++ low20 op f.cls f.stall f.imm.isWide) f.imm.lit

def putB (op : Nat) (f : LB) : List Word32 :=
  split (f.off ++ f.imm ++ f.lc ++ f.cnd ++ (0#1) ++ f.kind ++ low20 op f.cls f.stall false) none

def putV (op : Nat) (f : LV) : List Word32 :=
  split (f.imm.low ++ f.mod ++ f.fd ++ f.fs ++ f.sx ++ f.lu ++ f.wx ++ f.wb ++ f.wa ++ f.wd
    ++ low20 op f.cls f.stall f.imm.isWide) f.imm.lit

def putVM (op : Nat) (f : LVM) : List Word32 :=
  split ((0#31) ++ f.cnt ++ f.lu ++ f.vn ++ f.wn ++ low20 op f.cls f.stall false) none

def putM (op : Nat) (f : LM) : List Word32 :=
  split (f.mod ++ f.fb ++ f.fa ++ f.sx ++ f.sbb ++ f.sba ++ f.tb ++ f.ta ++ f.zd ++ low20 op f.cls f.stall false) none

/-- The words of a well-formed instruction (R147-R164). A package event has no encoding (log 6) and no words. -/
def encode (i : Instr) : List Word32 :=
  match i with
  | .nop f => [putL32 0x00 f]
  | .add32 f => [putL32 0x01 f]
  | .sub32 f => [putL32 0x02 f]
  | .mul32 f => [putL32 0x03 f]
  | .mulh32 f => [putL32 0x04 f]
  | .div32 f => [putL32 0x05 f]
  | .rem32 f => [putL32 0x06 f]
  | .and32 f => [putL32 0x07 f]
  | .or32 f => [putL32 0x08 f]
  | .xor32 f => [putL32 0x09 f]
  | .andn32 f => [putL32 0x0A f]
  | .shl32 f => [putL32 0x0B f]
  | .shr32 f => [putL32 0x0C f]
  | .rotl32 f => [putL32 0x0D f]
  | .min32 f => [putL32 0x0E f]
  | .max32 f => [putL32 0x0F f]
  | .addq f => [putL32 0x10 f]
  | .shlq f => [putL32 0x11 f]
  | .shrq f => [putL32 0x12 f]
  | .mov32 f => [putL32 0x13 f]
  | .popc32 f => [putL32 0x14 f]
  | .clz32 f => [putL32 0x15 f]
  | .ctz32 f => [putL32 0x16 f]
  | .sext32 f => [putL32 0x17 f]
  | .ceq32 f => [putL32 0x18 f]
  | .cne32 f => [putL32 0x19 f]
  | .clt32 f => [putL32 0x1A f]
  | .cle32 f => [putL32 0x1B f]
  | .cand32 f => [putL32 0x1C f]
  | .cor32 f => [putL32 0x1D f]
  | .cxor32 f => [putL32 0x1E f]
  | .adda32 f => [putL32 0x20 f]
  | .suba32 f => [putL32 0x21 f]
  | .ldxB f => [putL32 0x22 f]
  | .ldxH f => [putL32 0x23 f]
  | .ldxW f => [putL32 0x24 f]
  | .ldxD f => [putL32 0x25 f]
  | .stxB f => [putL32 0x26 f]
  | .stxH f => [putL32 0x27 f]
  | .stxW f => [putL32 0x28 f]
  | .stxD f => [putL32 0x29 f]
  | .jr f => [putL32 0x30 f]
  | .callr f => [putL32 0x31 f]
  | .ret f => [putL32 0x32 f]
  | .eret f => [putL32 0x33 f]
  | .brk f => [putL32 0x34 f]
  | .hint32 f => [putH32 f]
  | .add64 f => putG 0x000 f
  | .sub64 f => putG 0x001 f
  | .mul64 f => putG 0x002 f
  | .mulh64 f => putG 0x003 f
  | .div64 f => putG 0x004 f
  | .rem64 f => putG 0x005 f
  | .and64 f => putG 0x006 f
  | .or64 f => putG 0x007 f
  | .xor64 f => putG 0x008 f
  | .andn64 f => putG 0x009 f
  | .shl64 f => putG 0x00A f
  | .shr64 f => putG 0x00B f
  | .rotl64 f => putG 0x00C f
  | .min64 f => putG 0x00D f
  | .max64 f => putG 0x00E f
  | .sel f => putG 0x00F f
  | .addi f => putW 0x010 f
  | .muli f => putW 0x011 f
  | .andi f => putW 0x012 f
  | .ori f => putW 0x013 f
  | .xori f => putW 0x014 f
  | .shli f => putW 0x015 f
  | .shri f => putW 0x016 f
  | .li f => putW 0x017 f
  | .lia f => putW 0x018 f
  | .addai f => putW 0x019 f
  | .ceqi f => putW 0x01A f
  | .cnei f => putW 0x01B f
  | .clti f => putW 0x01C f
  | .clei f => putW 0x01D f
  | .cgti f => putW 0x01E f
  | .cgei f => putW 0x01F f
  | .ceq64 f => putG 0x020 f
  | .cne64 f => putG 0x021 f
  | .clt64 f => putG 0x022 f
  | .cle64 f => putG 0x023 f
  | .cand64 f => putG 0x024 f
  | .cor64 f => putG 0x025 f
  | .cxor64 f => putG 0x026 f
  | .mov64 f => putG 0x027 f
  | .popc64 f => putG 0x028 f
  | .clz64 f => putG 0x029 f
  | .ctz64 f => putG 0x02A f
  | .sext64 f => putG 0x02B f
  | .adda64 f => putG 0x02C f
  | .suba64 f => putG 0x02D f
  | .ldB f => putG 0x040 f
  | .ldH f => putG 0x041 f
  | .ldW f => putG 0x042 f
  | .ldD f => putG 0x043 f
  | .stB f => putG 0x044 f
  | .stH f => putG 0x045 f
  | .stW f => putG 0x046 f
  | .stD f => putG 0x047 f
  | .ldA f => putG 0x048 f
  | .stA f => putG 0x049 f
  | .b f => putB 0x050 f
  | .call f => putB 0x051 f
  | .loopI f => putB 0x052 f
  | .loopS f => putB 0x053 f
  | .wait f => putG 0x060 f
  | .fenceC f => putW 0x061 f
  | .fenceX f => putG 0x062 f
  | .notify f => putG 0x063 f
  | .deadl f => putG 0x064 f
  | .idbeg f => putG 0x065 f
  | .idend f => putG 0x066 f
  | .mfs f => putG 0x067 f
  | .mts f => putG 0x068 f
  | .trap f => putG 0x069 f
  | .hint64 f => putH64 f
  | .push f => putG 0x080 f
  | .take f => putG 0x081 f
  | .barInit f => putG 0x082 f
  | .barArr f => putG 0x083 f
  | .barWait f => putG 0x084 f
  | .xwait f => putG 0x085 f
  | .rclose f => putG 0x086 f
  | .amoAdd f => putG 0x088 f
  | .amoFadd f => putG 0x089 f
  | .amoMin f => putG 0x08A f
  | .amoMax f => putG 0x08B f
  | .amoAnd f => putG 0x08C f
  | .amoOr f => putG 0x08D f
  | .amoXor f => putG 0x08E f
  | .amoSwp f => putG 0x08F f
  | .amoCas f => putG 0x090 f
  | .amoFmin f => putG 0x091 f
  | .amoFmax f => putG 0x092 f
  | .redAdd f => putG 0x098 f
  | .redFadd f => putG 0x099 f
  | .redMin f => putG 0x09A f
  | .redMax f => putG 0x09B f
  | .redAnd f => putG 0x09C f
  | .redOr f => putG 0x09D f
  | .redXor f => putG 0x09E f
  | .redFmin f => putG 0x09F f
  | .redFmax f => putG 0x0A0 f
  | .vmovWv f => putVM 0x100 f
  | .vmovVw f => putVM 0x101 f
  | .vadd f => putV 0x108 f
  | .vsub f => putV 0x109 f
  | .vmul f => putV 0x10A f
  | .vfma f => putV 0x10B f
  | .vfms f => putV 0x10C f
  | .vmin f => putV 0x10D f
  | .vmax f => putV 0x10E f
  | .vabs f => putV 0x10F f
  | .vneg f => putV 0x110 f
  | .vand f => putV 0x111 f
  | .vor f => putV 0x112 f
  | .vxor f => putV 0x113 f
  | .vshl f => putV 0x114 f
  | .vshr f => putV 0x115 f
  | .vsel f => putV 0x116 f
  | .vcmp f => putV 0x117 f
  | .vcvt f => putV 0x118 f
  | .vwid f => putV 0x119 f
  | .vnar f => putV 0x11A f
  | .vqmx f => putV 0x11B f
  | .vsplat f => putV 0x11C f
  | .vrsum f => putV 0x120 f
  | .vrmax f => putV 0x121 f
  | .vrmin f => putV 0x122 f
  | .vscan f => putV 0x123 f
  | .vexp2 f => putV 0x128 f
  | .vlog2 f => putV 0x129 f
  | .vrcp f => putV 0x12A f
  | .vrsqrt f => putV 0x12B f
  | .vsqrt f => putV 0x12C f
  | .vtanh f => putV 0x12D f
  | .vsigm f => putV 0x12E f
  | .vsin f => putV 0x12F f
  | .vskein f => putV 0x130 f
  | .vgauss f => putV 0x131 f
  | .vunif f => putV 0x132 f
  | .vdrop f => putV 0x133 f
  | .vld f => putG 0x138 f
  | .vst f => putG 0x139 f
  | .vgath f => putG 0x13A f
  | .vscat f => putG 0x13B f
  | .vperm f => putV 0x13C f
  | .tld f => putG 0x200 f
  | .tst f => putG 0x201 f
  | .mma f => putM 0x208 f
  | .mmp f => putM 0x209 f
  | .mmg f => putM 0x20A f
  | .mmw f => putM 0x20B f
  | .mmdm f => putM 0x20C f
  | .mmdq f => putM 0x20D f
  | .zclr f => putG 0x210 f
  | .zout f => putG 0x211 f
  | .zsave f => putG 0x212 f
  | .zload f => putG 0x213 f
  | .broadcastGroupStart _ _ => []
  | .cpy f => putG 0x280 f
  | .cpyt f => putG 0x281 f
  | .cpyh f => putG 0x282 f
  | .cpym f => putG 0x283 f
  | .cpyi f => putG 0x284 f
  | .cpyf f => putG 0x285 f
  | .chst f => putG 0x286 f
  | .cwr f => putG 0x287 f
  | .ckopen f => putG 0x340 f
  | .ckput f => putG 0x341 f
  | .ckseal f => putG 0x342 f
  | .ckget f => putG 0x343 f
  | .hflush f => putG 0x344 f
  | .msend f => putG 0x380 f
  | .karm f => putG 0x381 f
  | .kdisarm f => putG 0x382 f
  | .kred f => putG 0x383 f
  | .kgath f => putG 0x384 f
  | .kbcast f => putG 0x385 f
  | .ksync f => putG 0x386 f
  | .gload f => putG 0x300 f
  | .gfeed f => putG 0x301 f
  | .gtake f => putG 0x302 f
  | .gunload f => putG 0x303 f
  | .gquiet f => putG 0x304 f
  | .packagePowerOn => []
  | .pushSendStart _ _ => []
  | .pushPieceLand _ => []
  | .mergeEntrySend _ _ => []
  | .fetchReplySplit _ => []
  | .sectionHeaderPass _ => []
  | .sectionRetire _ => []
  | .tileWaitResume _ => []
  | .takeRetire _ => []
  | .waitReread _ => []
  | .barWaitReread _ => []
  | .barrierDelivery _ => []
  | .xwaitRetire _ => []
  | .channelSlotResume _ => []
  | .transferComplete _ _ _ => []
  | .chainRecordStart _ _ => []
  | .tileFill _ _ => []
  | .followOnIssue _ => []
  | .stealRelocatableGroup _ _ => []
  | .combinerFire _ _ _ => []
  | .epochCloseAtCourseEnd _ => []
  | .pageWalkComplete _ _ => []
  | .translationInvalidate _ _ _ _ => []
  | .shapeTableWrite _ _ _ _ => []
  | .bdcfgWrite _ _ => []
  | .shutterOff _ => []
  | .shutterWakeStart _ => []
  | .shutterWakeComplete _ => []
  | .moveFire _ _ _ => []
  | .memLoadPerform _ _ => []
  | .stampCommit _ => []
  | .squashReentry _ _ => []
  | .feedTokenEntry _ => []
  | .latticeQuietRetire _ => []
  | .imageOpen _ => []
  | .imageCommit _ => []
  | .imageUnload _ => []
  | .imageApertureWrite _ _ _ _ => []
  | .launchTrigger _ _ => []
  | .taskSelect => []
  | .taskBind _ => []
  | .courseStart _ => []
  | .courseListSkip _ => []
  | .courseListJump _ => []
  | .courseListCall _ => []
  | .courseListReturn _ => []
  | .courseListDeadline _ => []
  | .courseListNotify _ => []
  | .preemptEstimator _ => []
  | .preemptDrain _ => []
  | .preemptSave _ => []
  | .preemptDiscard _ => []
  | .distributorPreemptRequest _ => []
  | .preemptStopComplete _ _ => []
  | .teamResume _ _ => []
  | .messageReceipt _ _ => []
  | .unarmedTagRefusalReturn _ => []
  | .governorEvaluation => []
  | .clockSwitch => []
  | .transitEnd => []
  | .byteBudgetInterval => []
  | .pcapWrite _ => []
  | .softThermalThreshold _ _ => []
  | .lockInterface _ _ _ _ => []
  | .getVersion _ => []
  | .getCapabilities _ => []
  | .negotiateAlgorithms _ => []
  | .getDigests _ => []
  | .getCertificate _ => []
  | .challenge _ => []
  | .getMeasurements _ => []
  | .keyExchange _ => []
  | .finish _ => []
  | .heartbeat _ => []
  | .keyUpdate _ => []
  | .endSession _ => []
  | .subscribeEventTypes _ => []
  | .provision _ _ => []
  | .reprovision _ _ => []
  | .release _ _ _ => []
  | .attest _ => []
  | .dieRestartRequest _ _ _ => []
  | .firmwareStage _ _ => []
  | .firmwareActivate _ _ => []
  | .hostRead _ => []
  | .hostWrite _ _ => []
  | .podPacketReceive _ _ => []
  | .safeTierCopy => []
  | .safeTierCopyDone _ => []
  | .safeRestore => []
  | .evacuationStart => []
  | .extentMove => []
  | .evacuationResume => []
  | .spilledExtentReturn => []
  | .streamingCrcFailure _ _ => []
  | .courseAbortCrc _ => []
  | .ordinaryCrcRetry _ _ _ => []
  | .scrubPass _ _ => []
  | .uncorrectableError _ => []
  | .parityError _ => []
  | .staleResponseDiscard _ _ => []
  | .dieLostDeclare _ _ => []
  | .faultStop => []
  | .peerStop _ _ => []
  | .engstopResume _ _ => []
  | .faultRetry _ _ => []
  | .faultRerun _ _ => []
  | .faultAbandon _ _ => []
  | .retryRestart _ _ => []
  | .courseRerun _ => []
  | .rebindAfterLoss _ => []
  | .dieQuiet _ => []
  | .selfTestStart _ => []
  | .rejoinStart _ => []
  | .rejoinComplete _ => []
  | .rejoinTimeout _ => []
  | .bdTableError _ _ => []
  | .packageReset => []
  | .hardThermalTrip _ _ _ => []
  | .tripcauseWrite _ _ => []
  | .trippedDieCooldown _ _ => []
  | .deadlineMiss _ _ => []
  | .keySlotEccFailure _ _ _ => []
  | .keyReloadComplete _ _ => []
  | .measurementFailure _ => []
  | .registerWrite _ _ => []
  | .variableLatencyResult _ => []
  | .accessPerformsAtHome _ => []
  | .startInterfaceRequest _ => []
  | .stopInterfaceRequest _ => []
  | .podJoin _ _ => []
  | .podPacketRetransmit _ _ => []
  | .safeRestoreDone _ => []
  | .softThermalClear _ _ => []

/-! ## Small readings of the layouts -/

/-- Length bits of a layout G or V form, and of a layout W form (R147). -/
def ImmG.len (i : ImmG) : Nat := if i.isWide then 2 else 1
def ImmW.len (i : ImmW) : Nat := if i.isWide then 2 else 1

/-- Words of an instruction with this immediate (R147). -/
def ImmG.words (i : ImmG) : Nat := if i.isWide then 3 else 2
def ImmW.words (i : ImmW) : Nat := if i.isWide then 3 else 2

/-- The suffix flag of a 32-bit form, and mod bit 0 of a layout G or W form (R167). -/
def L32.suffix (f : L32) : Bool := f.flg == 1
def LG.suffix (f : LG) : Bool := f.mod.getLsbD 0
def LW.suffix (f : LW) : Bool := f.mod.getLsbD 0

/-! ## The host's probe -/

/-- The first three words of an instruction whose bits are w, word 0 in bits 31:0. -/
def tableWords (nbits w : Nat) : List Word32 :=
  [BitVec.ofNat 32 (w % 2 ^ nbits), BitVec.ofNat 32 (w % 2 ^ nbits / 2 ^ 32), BitVec.ofNat 32 (w % 2 ^ nbits / 2 ^ 64)]

/-- The instruction that the decoder reads from the bits w of an opcode-table row. -/
def decodeTableWord (nbits w : Nat) : Option Instr :=
  match tableWords nbits w with
  | [] => none
  | w0 :: ws =>
    match decodeWords ((w0 :: ws).take (lengthOf w0)) with
    | .ok i => some i
    | .error _ => none

end Sys2Proof
end

