-- ==== Sys2Proof/Machine/State.lean ====
section
/-! DEFINITION. The state of the package as plain data, the reasons a step can stop, and the state after reset. Every
register and unit the spec names has a field; INVENTORY.md lists each with its rule and its reset value. -/

namespace Sys2Proof.Machine

/-- A sparse table: keys strictly rising. A key that is not listed stands for the table's default value. -/
abbrev AMap (α : Type) := List (Nat × α)

/-! ## Engines -/

/-- One element of an accumulator: the FP32 bits of its sum and its error term (R86, R94). -/
structure AccElem where
  s : Word32
  e : Word32
  deriving DecidableEq, Repr

/-- A loop counter with what R188 keeps beside its count. -/
structure LoopCtr where
  count : BitVec 48
  first : BitVec 32
  last : BitVec 32
  active : Bool
  depth : Nat
  deriving DecidableEq, Repr

/-- A register write: the physical register named at issue (R44) and its value. `glob` and `win` are the two parts of
the scalar file (R50), `aHi` the upper bits of an address register (R179), `sys` a system register (R196). -/
inductive Write
  | glob (i : Fin 8) (v : Word)
  | win (k : Nat) (v : Word)
  | a (i : Fin 16) (v : Addr)
  | aHi (i : Fin 16) (v : BitVec 16)
  | c (i : Fin 8) (v : Bool)
  | lc (i : Fin 4) (v : BitVec 48)
  | w (i : Fin 8) (v : VReg)
  | v (i : Fin 128) (v : VReg)
  | sys (n : Nat) (v : Addr)
  deriving DecidableEq, Repr

/-- A physical register: a `Write` without its value. -/
inductive Dest
  | nil
  | glob (i : Fin 8)
  | win (k : Nat)
  | a (i : Fin 16)
  | c (i : Fin 8)
  | lc (i : Fin 4)
  | w (i : Fin 8)
  | v (i : Fin 128)
  deriving DecidableEq, Repr

/-- A fixed-latency result: it lands at the end of domain cycle `land` (R43). Younger entries stand later in a list. -/
structure Landing where
  wr : Write
  land : Nat
  deriving DecidableEq, Repr

/-- A captured result of the pipeline snapshot: its offset from the resuming cycle (R48). -/
structure SnapEntry where
  wr : Write
  off : Nat
  deriving DecidableEq, Repr

/-- Why an engine stands still. Each constructor names the event or condition that lets it go on. -/
inductive Block
  /-- The header's partners have not retired the sections named (R38). -/
  | header
  /-- A tile is not full, or not empty, as the instruction needs (R39). -/
  | tile (t : Nat) (wantFull : Bool)
  /-- The next slot of a window is empty (R40, R263). -/
  | take (win : Nat)
  /-- The writes of a take have not performed, or its least time has not passed: it retires at a cycle (R263). -/
  | takeEnds (win : Nat) (cycle : Nat)
  /-- A wait-on-address that has not read its word, or whose condition does not hold (R111): the word once read, its virtual
  address and the class of its read, the condition and the comparand. -/
  | wait (pa : Option Nat) (va : Addr) (cls : Nat) (kind : Nat) (x : Word)
  /-- A barrier wait that has not read its barrier, or whose phase has not ended (R267): the barrier once read, its virtual
  address and the class of its read, and the value. -/
  | barrier (pa : Option Nat) (va : Addr) (cls : Nat) (x : Word)
  /-- A transfer wait (R268): the engine, its channel and the ID. -/
  | xwait (e : EngId) (ch : Nat) (id : Word)
  /-- A channel with sixteen transfers, or walking a chain (R245, R258). -/
  | channel (ch : Nat)
  /-- The lattice is not quiet (R305): the register that receives the squash counter, or the graph to unload, with its
  image's address when it is written back. -/
  | quiet (dst : Dest) (unload : Option Nat) (image : Option Addr)
  /-- Tokens of a feed that have not entered (R304): how many have, the first one's address, val(x), and the register that
  receives the last stamp. -/
  | feed (entered : Nat) (va : Addr) (x : Word) (dst : Dest)
  /-- A `.bc` instruction whose group is not complete (R238). -/
  | group
  deriving DecidableEq, Repr

/-- What an engine is doing. -/
inductive Status
  /-- No stream of a course is bound to the engine. -/
  | off
  /-- The engine issues when its next cycle begins. -/
  | running
  /-- The instruction at pc waits; `since` is the domain cycle at which it first did. -/
  | blocked (why : Block) (since : Nat)
  /-- The notify has issued and its release, at a scope, has not performed (R193). -/
  | notifying (scope : Nat)
  /-- The notify has retired (R52). -/
  | finished
  /-- Stopped at brk (R385). -/
  | atBrk
  /-- Stopped with its team (R60, R400). -/
  | stopped
  /-- Stopped for a pre-emption (R60, R62): it ran, or was blocked since a cycle. -/
  | paused (was : Option (Block × Nat))
  deriving DecidableEq, Repr

/-- The region-entry record of R58. -/
structure Region where
  glob : Vector Word 8
  win : AMap Word
  a : Vector Addr 16
  c : Vector Bool 8
  lc : Vector LoopCtr 4
  depth : Nat
  resident : Nat
  pc : BitVec 32
  tick : Nat
  deriving DecidableEq, Repr

/-- A declared deadline (R194): the tick, and the section and pc of the deadl. -/
structure Deadl where
  tick : Nat
  secNum : BitVec 14
  pc : BitVec 32
  missed : Bool
  deriving DecidableEq, Repr

/-- The forms of a transfer (R251, R259, R274). -/
inductive TForm
  | cpy | cpyt | cpyh | cpym | cpyi | cpyf | cwr | ckput | ckget | hflush
  deriving DecidableEq, Repr

/-- A transfer that has been issued and has not completed (R245, R250). `begun` once it has started; of its payload `got` holds the
source units read, `wrote` the destination units written, `counts` the bytes of each receiver not yet counted into its barrier, `exts`
what a ckget has still to write back; `moved` once the payload has performed, `waits` the deliveries sent. -/
structure Transfer where
  id : Nat
  form : TForm
  d0 : Word
  d1 : Word
  d2 : Word
  tile : Bool
  cword : Option Addr
  cval : Word
  cls : Nat
  scope : Nat
  ckset : Nat
  base : Addr
  len : Nat
  follow : BitVec 64
  target : Nat
  record : Option Addr
  due : Nat
  uid : Nat
  pc : BitVec 32
  begun : Bool
  got : AMap (List Byte)
  wrote : List Nat
  counts : AMap Nat
  exts : List (Nat × List Byte)
  moved : Bool
  waits : List Nat
  deriving DecidableEq, Repr

/-- Where a chain walk stands (R113). -/
inductive Chain
  | idle
  | waitOwn (p : Addr)
  | running (p : Addr) (id : Nat)
  deriving DecidableEq, Repr

/-- The mover of an engine's channels (R245): the cycle it last moved in, the payload bytes moved in it, and the channel served last. -/
structure Mover where
  cycle : Nat
  bytes : Nat
  turn : Nat
  deriving DecidableEq, Repr

/-- A channel of a copy or buffer engine (R109, R112, R245). -/
structure Channel where
  xnext : BitVec 48
  xdone : BitVec 48
  head : Addr
  chain : Chain
  chainCls : Nat
  chainScope : Nat
  chainPc : BitVec 32
  out : List Transfer
  doneIds : List Nat
  deriving DecidableEq, Repr

/-- A follow-on matrix instruction handed and not yet issued (R257). -/
structure Follow where
  word : BitVec 64
  ce : EngId
  handed : Nat
  deriving DecidableEq, Repr

/-- A relocatable group of a stream (R54, R55): its first pc, the pc past it, and who runs it. -/
structure Group where
  first : BitVec 32
  past : BitVec 32
  taken : Bool
  done : Bool
  deriving DecidableEq, Repr

/-- The counters of one section (R56). -/
structure FbEntry where
  secNum : BitVec 14
  waitOther : Nat
  waitWindow : Nat
  waitTile : Nat
  waitHeader : Nat
  busy : Nat
  stolen : Nat
  deriving DecidableEq, Repr


/-- An access, transfer or push that a fence holds the next issue for, and the scope at which it must have performed (R185,
R123, R124). -/
structure Hold where
  id : Nat
  scope : Nat
  deriving DecidableEq, Repr

/-- A section passed and not yet retired (R37): its number and the accesses and transfers it waits for. -/
structure SecPend where
  secNum : BitVec 14
  landBy : Nat
  accs : List Nat
  deriving DecidableEq, Repr

/-- What a matrix engine that runs a sibling's relocatable group goes back to (R55): the owner, the pc past the group, its own
place, and its own registers. -/
structure Lend where
  owner : EngId
  past : BitVec 32
  pc : BitVec 32
  codeVa : Addr
  secStart : Nat
  secEnd : Nat
  own : Region
  deriving DecidableEq, Repr

/-- A tile register (R39, R226): its contents, the tick in which it last became full, the tick from which an emptied tile takes a
write (R241), and of the writers blocked on it the one that this emptying lets go on, with its pc (R39). -/
structure Tile where
  full : Bool
  tag : BitVec 4
  elems : List Byte
  deltas : List Byte
  since : Nat
  emptied : Nat
  given : Option (EngId × BitVec 32)
  deriving DecidableEq, Repr

/-- The start of a `.bc` group (R237, R238): the cycle, and the tile on the bus. -/
structure Bus where
  cycle : Nat
  tile : Tile
  deriving DecidableEq, Repr

/-- The `.bc` instruction at which an engine is held (R238, R394); `bus` once its group has started and it has not run. -/
structure BcHold where
  n : Nat
  mask : BitVec 4
  fb : BitVec 4
  cycle : Nat
  bus : Option Bus
  deriving DecidableEq, Repr

/-- One engine of the package. While `entering` the target of a call or a handler's first instruction has not issued, and what
lands in its window's new registers is lost (R50). -/
structure Engine where
  status : Status
  seq : Nat
  team : Nat
  ldie : Nat
  codeVa : Addr
  pc : BitVec 32
  started : Bool
  secNum : BitVec 14
  secStart : Nat
  secEnd : Nat
  hdrCycle : Nat
  progBase : Nat
  hdrStamp : Nat
  sret : BitVec 14
  secPend : List SecPend
  glob : Vector Word 8
  win : AMap Word
  depth : Nat
  resident : Nat
  entering : Bool
  a : Vector Addr 16
  c : Vector Bool 8
  lc : Vector LoopCtr 4
  w : Vector VReg 8
  v : AMap VReg
  z : Vector (AMap AccElem) 8
  zLand : Vector Nat 8
  strmcfg : Word
  secpart : Word
  aspace : Word
  cause : Word
  epc : Word
  chksb : Word
  pend : List Landing
  inter : List (Dest × Nat)
  snap : List SnapEntry
  replay : Bool
  region : Option Region
  consumed : Bool
  deadl : Option Deadl
  nextIssue : Nat
  holds : List Hold
  acqs : List Nat
  stores : List (Nat × Nat × Nat)
  bcCount : Nat
  bc : Option BcHold
  follow : List Follow
  mtxUntil : Nat
  groups : List Group
  lend : Option Lend
  collected : Bool
  gtake : Option (Nat × Addr × Nat)
  chans : Vector Channel 4
  mover : Mover
  fbNow : FbEntry
  fbDone : List FbEntry
  deriving DecidableEq, Repr

/-! ## Clusters and tiles -/

/-- A tile write ready from a tick on, waiting for its tile to be empty (R39, R228, R256). `engine` and `chan` name the
transfer of a tile-destination form. -/
structure Fill where
  id : Nat
  tile : Nat
  data : Tile
  ready : Nat
  by_ : EngId
  xfer : Option (Nat × Nat)
  deriving DecidableEq, Repr

/-- The states of a shutter (R114). -/
inductive Shutter
  | opened
  | closing (since : Nat)
  | off
  | waking (openAt : Nat)
  deriving DecidableEq, Repr

/-- The clock of a power domain (R331, R332, R451): its point, a tick at which a known cycle began, and a pending switch; its
byte grant, and the next one with the tick from which it applies (R344). -/
structure Domain where
  op : Nat
  refTick : Nat
  refCycle : Nat
  next : Option (Nat × Nat)
  transitEnd : Nat
  grant : Nat
  nextGrant : Option (Nat × Nat)
  deriving DecidableEq, Repr

/-- A write of a save slot (R239): the slot, its engine and section, when that section retired, and the elements. Later
writes stand later. -/
structure SaveLayer where
  slot : Nat
  eng : EngId
  secNum : BitVec 14
  retired : Option Nat
  elems : AMap AccElem
  deriving DecidableEq, Repr

/-- A cluster, or the whole of a GD, BD or SD (R41). -/
structure Cluster where
  partw : Word
  bfmtlo : Word
  bfmthi : Word
  bfmtPend : List (Nat × Word × Nat)
  tiles : Vector Tile 16
  fills : List Fill
  shutter : Shutter
  closeAsked : Bool
  acc : List AccEntry
  dom : Domain
  engstop : BitVec 17
  saves : List SaveLayer
  deriving DecidableEq, Repr

/-! ## Dies -/

/-- The full bits and ring positions of a window (R40). -/
structure Window where
  full : BitVec 64
  fillPos : Nat
  takePos : Nat
  deriving DecidableEq, Repr

/-- A range entry (R100) of an address space. -/
structure RangeEntry where
  asid : BitVec 16
  index : Nat
  rights : BitVec 8
  pa : BitVec 56
  limit : Addr
  base : Addr
  deriving DecidableEq, Repr

/-- A cached translation of one 4 KiB page (R100): rights bits 2:0 are read, write, atomic. -/
structure CachedPage where
  asid : BitVec 16
  page : Nat
  frame : Nat
  rights : BitVec 3
  level : Nat
  deriving DecidableEq, Repr

/-- A page walk in progress (R101, R102). -/
structure Walk where
  asid : BitVec 16
  page : Nat
  homeBd : Nat
  due : Nat
  deriving DecidableEq, Repr

/-- The operations of atomics and reductions (R270). -/
inductive AOp
  | add | fadd | min | max | and | or | xor | swp | cas | fmin | fmax
  deriving DecidableEq, Repr

/-- What one request of an atomic or reduction carries (R269). -/
structure AReq where
  op : AOp
  ty : BitVec 3
  ordered : Bool
  uns : Bool
  fetch : Bool
  opnd : Word
  cmp : Word
  detail : Nat
  deriving DecidableEq, Repr

/-- A constituent of a merge-buffer entry (R24): its access, its engine, its operand and the tick it entered. -/
structure MergePart where
  acc : Nat
  eng : EngId
  opnd : Word
  tick : Nat
  deriving DecidableEq, Repr

/-- An open entry of a merge buffer (R24): its constituents in the buffer's issue order (R26). `req.fetch` says whether any of
them fetches. -/
structure MergeEntry where
  id : Nat
  pa : Nat
  req : AReq
  parts : List MergePart
  last : Nat
  sealedBy : List EngId
  deriving DecidableEq, Repr

/-- A partial of an ordered floating reduction (R143): its location, element type, source's logical rank and FP32 value. -/
structure Partial where
  pa : Nat
  ty : BitVec 3
  rank : Nat
  src : EngId
  val : Word32
  deriving DecidableEq, Repr

/-- A generation of a checkpoint set (R274): extents of a physical address and bytes. -/
structure Generation where
  number : Nat
  extents : List (Nat × List Byte)
  sealTick : Nat
  deriving DecidableEq, Repr

/-- A checkpoint set of a BD (R274). -/
structure CkSet where
  last : Nat
  current : Option Generation
  building : Option Generation
  deriving DecidableEq, Repr

/-- A key slot of a BD (R355): the tenant it serves, its key, and the tick at which a reload ends (R447). -/
structure KeySlot where
  tenant : BitVec 16
  key : BitVec 512
  reload : Option Nat
  deriving DecidableEq, Repr

/-- An armed launch of an SD (R278, R319). Its buffers are held by the launches they were filled for (`Task.net`). -/
structure Armed where
  tag : BitVec 16
  desc : List Byte
  deriving DecidableEq, Repr

/-- A message received at an SD, the tick, and once that tick is over the entry armed for its tag, if any (R278, R320). -/
structure Receipt where
  msg : Message
  tick : Nat
  entry : Option (Option Armed)
  deriving DecidableEq, Repr

/-- A token of the lattice (R282). -/
structure Token where
  val : Word
  stamp : BitVec 32
  deriving DecidableEq, Repr

/-- An operation in flight in a function unit (R287-R291): the ports it writes, and the cycle from which they are usable.
A MEM load also has the number of its sill entry. -/
structure UnitOp where
  unit : Nat
  stamp : BitVec 32
  results : List (Nat × Word)
  ready : Nat
  sill : Option Nat
  deriving DecidableEq, Repr

/-- A cell of the lattice (R281): move words, tokens by port (sources 0x00-0x1F; operand latches at 0x20 + code), the
(word, port) pairs whose kept move has fired, and operations in flight. -/
structure LCell where
  graph : Nat
  moves : List Word32
  ports : AMap Token
  kept : List (Nat × Nat)
  ops : List UnitOp
  deriving DecidableEq, Repr

/-- A sink descriptor (R294). -/
structure Sink where
  scope : Nat
  kind : Nat
  target : Addr
  deriving DecidableEq, Repr

/-- A resident graph (R293): its rectangle, bases, sinks, and the image it was loaded from. -/
structure Graph where
  x0 : Nat
  y0 : Nat
  w : Nat
  h : Nat
  base0 : Addr
  base1 : Addr
  sinks : List Sink
  deriving DecidableEq, Repr

/-- An entry of the entry log (R296): the token as fed, its edge and lane, and how often it was squashed. An initial
stamp of a gload holds no token (`edge` 4). -/
structure LogEntry where
  stamp : BitVec 32
  val : Word
  edge : Nat
  lane : Nat
  squashes : Nat
  entered : Bool
  deriving DecidableEq, Repr

/-- The effects that take a sill entry (R299). -/
inductive SillKind
  | load (va : Addr) (pa : Nat) (size : Nat) (sx : Bool) (done : Bool)
  | store (va : Addr) (pa : Nat) (data : List Byte)
  | sink (graph idx : Nat) (val : Word)
  | edge (edge lane : Nat) (val : Word)
  deriving DecidableEq, Repr

/-- A sill entry (R299): number, stamp, cell, graph, effect, and the fault held against it (R413). -/
structure SillEntry where
  id : Nat
  stamp : BitVec 32
  cell : Nat
  graph : Nat
  what : SillKind
  fault : Option Nat
  due : Nat
  deriving DecidableEq, Repr

/-- A record of an edge queue (R302, R304). -/
structure EdgeRec where
  val : Word
  stamp : BitVec 32
  lane : Nat
  deriving DecidableEq, Repr

/-- The gather lattice of a GD (R281-R307). `cycle` is the cycle being worked on; `start` the cells and `settled` the
settled stamps at its start (R285, R298), `fired` the (cell, word) pairs fired in it; the next commit can begin at
`freeAt` (R298). -/
structure Lattice where
  cells : AMap LCell
  graphs : AMap Graph
  stampCtr : BitVec 32
  log : List LogEntry
  sill : List SillEntry
  nextSill : Nat
  edges : Vector (List EdgeRec) 4
  squash : BitVec 32
  commit : Option (BitVec 32 × Nat)
  freeAt : Nat
  cycle : Nat
  start : AMap LCell
  settled : List (BitVec 32)
  fired : List (Nat × Nat)
  deriving DecidableEq, Repr

/-- The phases of a die restart (R422). -/
inductive DiePhase
  | up
  | yielding (deadline : Nat)
  | quiet (tq : Nat)
  | selfTest (tq : Nat)
  | rejoin (tq : Nat) (ok : Bool)
  | off
  | lost
  deriving DecidableEq, Repr

/-- One die. `strays` are the responses on their way to engines whose team has stopped, with the incarnation each echoes and when it
arrives (R374, R400). -/
structure Die where
  incarn : BitVec 16
  stale : BitVec 32
  corr : BitVec 32
  uncorr : BitVec 16
  tripCause : BitVec 8
  tripTemp : BitVec 16
  tripCount : BitVec 16
  temp : BitVec 16
  soft : Bool
  hot : Bool
  wincfg : AMap Word
  windows : AMap Window
  route : AMap Word
  routeFree : AMap Nat
  ranges : List RangeEntry
  cache : List CachedPage
  walks : List Walk
  merge : List MergeEntry
  acc : List AccEntry
  keys : AMap KeySlot
  roots : AMap Nat
  bdcfg : Word
  partials : List Partial
  ckpt : AMap CkSet
  arb : AMap Nat
  lattice : Lattice
  armed : List Armed
  messages : List Receipt
  strays : List (BitVec 16 × Nat)
  phase : DiePhase
  barred : Bool
  restarts : Nat
  tripTicks : List Nat
  uncorrTicks : List Nat
  retired : AMap Nat
  crcTicks : AMap Nat
  retries : AMap Nat
  fwDigest : BitVec 256
  deriving DecidableEq, Repr

/-! ## Accesses in flight -/

/-- What an access does at its home. `dst` is the register its reply writes. -/
inductive AccOp
  | load (size : Nat) (sx : Bool) (dst : Dest)
  | store (data : List Byte)
  | vload (fmt : Nat) (bank : Nat) (dst : Fin 8)
  | vstore (data : List Byte)
  | gather (fmt : Nat) (dst : Fin 8)
  | scatter (data : List (List Byte))
  | atomic (req : AReq) (dst : Dest)
  | close (ty : BitVec 3) (detail : Nat) (dst : Dest)
  | barInit (data : List Byte)
  | barArr (dst : Dest)
  | barWait (x : Word)
  | wait (kind : Nat) (x : Word)
  | deliver (count : Nat)
  deriving DecidableEq, Repr

/-- An access that has left its engine at tick `born` (R116). `vas` are its pieces as issued, `pas` its units translated: pieces
cut at multiples of 8 bytes where the access acts on each independently (R135). `did` are the units that have performed, `got`
what those of a read returned; `early` the scope at which a plain write performs before it does at its home, and from when. -/
structure Access where
  id : Nat
  eng : EngId
  seq : Nat
  team : Nat
  incarn : BitVec 16
  pc : BitVec 32
  path : Nat
  cls : Nat
  scope : Nat
  acq : Bool
  rel : Bool
  vas : List (Addr × Nat)
  pas : List (Nat × Nat)
  need : BitVec 3
  op : AccOp
  born : Nat
  due : Nat
  early : Option (Nat × Nat)
  did : List Nat
  got : AMap (List Byte)
  merged : Bool
  deriving DecidableEq, Repr

/-- A store that set own = 1 in a transfer record while accesses of its engine numbered below `before` had not performed: a
release, which the channel's read of the record waits for (R113, R132). -/
structure OwnStore where
  pa : Nat
  eng : EngId
  before : Nat
  deriving DecidableEq, Repr

/-- A reply on its way to its engine (R45, R374): the writes it makes, and the tick at which it arrives. -/
structure Reply where
  id : Nat
  eng : EngId
  incarn : BitVec 16
  writes : List Write
  due : Nat
  deriving DecidableEq, Repr

/-- A merged request on its way to its home, or with the old value on its way back (R24, R26, R27). -/
structure Crossing where
  id : Nat
  entry : MergeEntry
  slot : Nat
  due : Nat
  ret : Option Word
  deriving DecidableEq, Repr

/-- A push waiting for its route (R141): its bytes were read at issue. `index` 31 is a lattice sink (R303). -/
structure PushReq where
  id : Nat
  eng : EngId
  seq : Nat
  team : Nat
  route : Nat
  cls : Nat
  issue : Nat
  pc : BitVec 32
  pieces : List (List Byte)
  deriving DecidableEq, Repr

/-- A piece of a push on its way (R23, R261). -/
structure Piece where
  id : Nat
  eng : EngId
  seq : Nat
  team : Nat
  cls : Nat
  dst : Nat
  win : Nat
  pc : BitVec 32
  data : List Byte
  land : Nat
  deriving DecidableEq, Repr

/-! ## The distributor -/

/-- The registers of an image slot (R310, R315, R318, R419, R441). The image's bytes lie in memory at R89's aperture; `inits`,
`banks` and `groups` are what the pattern's object holds beside them (`PatternTables`, log 19). -/
structure ImageSlot where
  queue : BitVec 5
  inits : List (Nat × Nat × Nat × List Byte)
  banks : List (Nat × Nat × Word × Word)
  groups : List (Nat × Nat × Nat × Nat)
  state : Nat
  ltrig : Word
  lstat : Word
  rstcfg : Word
  dlact : Word
  framesHeld : BitVec 2
  deriving DecidableEq, Repr

/-- A stream of a running course (R314), with its place in the hierarchy (R452). -/
structure Stream where
  index : Nat
  eng : EngId
  ldie : Nat
  team : Nat
  parent : Nat
  fbIndex : Nat
  deriving DecidableEq, Repr

/-- What the cost estimator found for a pre-emption (R61, R330): the tick of the request, stop times, lost ticks, bytes,
reason and whether the deadline is met. `due` is the earliest tick the team's state can be at its home BD (log 22). -/
structure Estimate where
  tick : Nat
  due : Nat
  tDrain : Nat
  tSave : Nat
  tDisc : Nat
  lost : Nat
  b : Nat
  bd : Nat
  reason : Nat
  met : Bool
  deriving DecidableEq, Repr

/-- Where a team stands: it runs; it stops for a pre-emption (R60); it has left with its state at its home BD and waits to resume
since a tick (R329); it is held
after a fault until an answer (R402); it will restart at a tick (R405); it is a peer of a failed team that stops, with that
team's record and number (R416); it is over for this course with a status. -/
inductive TeamState
  | running
  | stopping (req : PreReq) (action : Nat) (est : Estimate)
  | saved (action since : Nat)
  | held (cause : Nat) (retry : Bool)
  | restart (at_ : Nat)
  | peer (rec failed : Nat)
  | past (status : Nat)
  deriving DecidableEq, Repr

/-- The saved state of a team (R60): its engines, and what they leave in clusters, windows and the lattice. Places are named
by logical die: the slot of an engine or cluster is its logical die plus 128. -/
structure Saved where
  engines : List (EngId × Engine)
  clusters : List (Nat × Cluster)
  windows : List (Nat × Nat × Window × List Byte)
  lattices : List (Nat × Lattice)
  deriving DecidableEq, Repr

/-- A team of a running course (R30). -/
structure Team where
  index : Nat
  parent : Nat
  state : TeamState
  fired : List Nat
  saved : Option Saved
  frozen : Bool
  deriving DecidableEq, Repr

/-- The task of a launch (R317, R320): host-class with a frame, or network-class with an SD, tag, the physical address of its
buffer, length, sender and the buffer's virtual address. -/
inductive Task
  | host (frame : Nat)
  | net (slot : Nat) (tag : BitVec 16) (pa : Nat) (len : Nat) (src : BitVec 12) (va : Nat)
  deriving DecidableEq, Repr

/-- Where a launch stands. -/
inductive LaunchState
  | queued
  | selected
  | walking
  | inCourse
  | rerun
  | heldAnswer (rerun : Bool)
  | waitDies
  | ended
  deriving DecidableEq, Repr

/-- A gauge of a running course with its domains bound (R41): cluster keys and bounds. -/
structure Gauge where
  prod : Nat
  cons : Nat
  lo : Nat
  hi : Nat
  deriving DecidableEq, Repr

/-- A launch from its acceptance to its end (R317-R329). -/
structure Launch where
  seq : Nat
  image : Nat
  task : Task
  queue : Nat
  prio : Nat
  since : Nat
  state : LaunchState
  bind : List (Nat × Nat)
  quads : List (Nat × Nat)
  next : Nat
  stack : List Nat
  span : Option (Nat × Nat)
  course : Nat
  t0 : Nat
  deadline : Nat
  due : Nat
  streams : List Stream
  gauges : List Gauge
  teams : List Team
  engines : List EngId
  crcAborts : Nat
  crcDue : Option Nat
  risk : BitVec 2
  missed : List (Nat × Nat)
  checkDl : Bool
  rstcfg : Word
  dlact : Word
  waits : Bool
  areas : AMap (Nat × Nat)
  deriving DecidableEq, Repr

/-! ## Faults and trust -/

/-- What the records of a launch that has ended still need of it (R366, R369). -/
structure PastLaunch where
  seq : Nat
  image : Nat
  course : Nat
  tenant : Nat
  prec : Nat
  deriving DecidableEq, Repr

/-- What follows the record of a fault: nothing, the fault stop of its team (R400), or the reports of combining groups of teams
that have stopped, with a status (R368). -/
inductive FaultAct
  | nothing
  | stop
  | report (l : Launch) (groups : List (Nat × Nat)) (status : Nat)
  deriving DecidableEq, Repr

/-- A fault detected and not yet recorded (R400): what a fault record needs (R366), and what follows. `issue` orders the faulted
accesses of an engine (R402). -/
structure FaultEv where
  tick : Nat
  cause : Nat
  detail : Word
  addr : Addr
  addrValid : Bool
  addrPhys : Bool
  eng : Option EngId
  slot : Nat
  cluster : Nat
  pc : BitVec 32
  level : Nat
  seq : Nat
  team : Nat
  flags : BitVec 8
  incarn : BitVec 16
  issue : Nat
  after : FaultAct
  deriving DecidableEq, Repr

/-- The TDISP states (R348). -/
inductive TdiState
  | unlocked | locked | run | error
  deriving DecidableEq, Repr

/-- A TDI (R348): its state, whether it enters ERROR once its earlier accesses have performed, and what it is bound to. -/
structure Tdi where
  state : TdiState
  failing : Bool
  tenant : BitVec 16
  images : List Nat
  queues : List Nat
  deriving DecidableEq, Repr

/-- An SPDM session (R349) and whether it takes measurement events (R359). -/
structure Session where
  id : Nat
  open_ : Bool
  subscribed : Bool
  deriving DecidableEq, Repr

/-- A provisioned tenant (R351): its tag, the session that provisioned it, its TDI, its key (held wrapped, R447) and its entries. -/
structure Tenant where
  tag : BitVec 16
  session : Nat
  tdi : Nat
  key : BitVec 512
  entries : List GrantEntry
  deriving DecidableEq, Repr

/-- A copy in the pod checkpoint store (R358): source package and slot, set, generation, and the tenant tag and key that each extent
left with, none for an unsealed one. -/
structure SafeCopy where
  pkg : BitVec 12
  slot : Nat
  set_ : Nat
  gen : Generation
  owners : List (Option (BitVec 16 × BitVec 512))
  deriving DecidableEq, Repr

/-- An extent of an evacuation (R430): the current generation of a set; a page-table leaf of `n` entries from `pte` on, each of
`bytes` bytes, with its physical address; a range entry of an image, with its rights; the fault log; a team's save area. -/
inductive Extent
  | generation (set_ : Nat)
  | leaf (asid pte n bytes pa : Nat)
  | range (image index pa size rights : Nat)
  | log (pa size : Nat)
  | save (seq team pa size : Nat)
  deriving DecidableEq, Repr

/-- An extent in the spill region (R431): where it came from, the access-table entries that covered it, cut to it, those of them that
a tenant's requests gave it, with the tenant's tag, its bytes, and the generation when it is one. -/
structure Spill where
  slot : Nat
  what : Extent
  entries : List AccEntry
  grants : List (BitVec 16 × GrantEntry)
  data : List Byte
  gen : Option Generation
  deriving DecidableEq, Repr

/-- The codes of an SPDM ERROR response (R448), and one for an error the spec gives no code. -/
inductive SpdmError
  | unspecified | invalidRequest | unstated
  deriving DecidableEq, Repr

/-- The algorithms of a session (R349). -/
inductive SpdmAlg
  | ecdsaP256 | sha256 | ecdheP256 | aes256Gcm
  deriving DecidableEq, Repr

/-- What the HD answers to SPDM and Caerba requests (R349-R351, R360). A body stands for what the spec leaves to SPDM. -/
inductive SpdmReply
  | response (body : List Byte)
  | version (major minor : Nat)
  | algorithms (signature hash exchange cipher : SpdmAlg)
  | digests (slots : List (Nat × List Byte))
  | certificate (slot : Nat) (chain : List Byte)
  | measurements (blocks : List (Nat × List Byte)) (signature : List Byte)
  | session (id : Nat)
  | done
  | failed
  | error (code : SpdmError)
  deriving DecidableEq, Repr

/-- How a host request ends (R446, R455). -/
inductive Completion
  | success | poisoned | unsupported | abort
  deriving DecidableEq, Repr

/-- What the package shows the outside. -/
inductive Output
  | interrupt (vector : Nat)
  | completion (h : HostReq) (how : Completion) (bytes : List Byte)
  | spdm (session : Nat) (r : SpdmReply)
  | spdmEvent (session : Nat)
  | pod (port : Nat) (p : PodPacket)
  | refusal (m : Message)
  | event (seq : Nat) (slot cluster : Nat)
  | hostWrite (addr : Nat) (bytes : List Byte)
  | safeCopy (slot set_ : Nat) (extents : List (BitVec 16 × Nat × List Byte))
  deriving DecidableEq, Repr

/-- The governor's registers and its evaluation (R331-R346, R444). -/
structure Gov where
  eparam : AMap Word
  ebyte : Word
  govcfg : Word
  pcap : Word
  drisk : Word
  pstat : Word
  lastEval : Option Nat
  lastInterval : Option Nat
  deriving DecidableEq, Repr

/-- An admitted host request that waits, with the bytes of a write and the tick of its arrival. -/
structure HeldReq where
  req : HostReq
  data : Option (List Byte)
  arrived : Nat
  deriving DecidableEq, Repr

/-- The HD's other management registers. `evacFrom` is the BD of the evacuation that runs (R429); `moved` are the image slots and BDs whose launches bind
to the other BD of the quadrant (R430); `safeDue` and `restDue` the ticks at which a safe-tier copy or restore ends; `hostHeld`
the admitted host requests that wait for a die or a shutter (R114, R423); `shapePend` the writes of
shape entries that wait for the courses to end (R104). -/
structure Mgmt where
  flog : Word
  fltcfg : Word
  fresp0 : Word
  fresp1 : Word
  health : Word
  podcfg : Word
  safectl : Word
  saferst : Word
  evacctl : Word
  evacFrom : Nat
  spillbase : Word
  spillsize : Word
  denylog : Word
  shapebase : Word
  preq : Vector Word 4
  qcfg : AMap Word
  moved : List (Nat × Nat)
  safeDue : Option Nat
  restDue : Option Nat
  hostHeld : List HeldReq
  shapePend : List (Nat × List Byte)
  deriving DecidableEq, Repr

/-- Trust state of the HD (R347-R360, R447, R448). `releases` are the RELEASE requests whose teams have not all stopped, `changes` the
REPROVISION requests with the accesses and host requests, admitted under the old entries, that have not performed (R351, R354).
`podSent` and `podNext` count the packets sent to, and taken from, each package for each tag, `podKept` are the packets sent and
`podParts` the parts taken of messages not yet whole (R356). -/
structure Trust where
  tdis : AMap Tdi
  sessions : List Session
  tenants : List Tenant
  measFail : Bool
  ideOn : List Nat
  staged : List Firmware
  rootDigest : BitVec 256
  copying : List SafeCopy
  safeCopies : List SafeCopy
  spilled : List Spill
  activations : List (SpdmReq × Nat)
  releases : List (SpdmReq × Nat × Bool)
  changes : List (SpdmReq × Grant × List Nat × List HeldReq)
  podSent : AMap Nat
  podNext : AMap Nat
  podKept : List PodPacket
  podParts : AMap (List Byte)
  deriving DecidableEq, Repr

/-- The state of the package. `poison` lists poisoned ECC units (R372), `written` the 256-byte lines of compute-die memories and
window landing memories whose written bit is set (R32). -/
structure State where
  cur : EngId
  ptick : Nat
  fresh : Nat
  nextId : Nat
  inbox : List Instr
  outbox : List Output
  fuse : Vector Byte 37
  mix : Vector Byte 37
  arithrev : Word
  mem : List Host.Cell
  poison : List Nat
  written : List Nat
  engines : AMap Engine
  clusters : AMap Cluster
  dies : AMap Die
  accesses : List Access
  owns : List OwnStore
  replies : List Reply
  crossings : List Crossing
  pushes : List PushReq
  pieces : List Piece
  images : AMap ImageSlot
  launches : List Launch
  nextSeq : Nat
  past : List PastLaunch
  gov : Gov
  faults : List FaultEv
  mgmt : Mgmt
  trust : Trust
  deriving DecidableEq, Repr

/-! ## Stops -/

/-- The reasons a step stops the machine with a fault. Every fault of the spec is a next state of this model (the
handler, the fault stop or the record it describes), so no meaning raises one on a path the spec gives an effect to. -/
inductive Fault
  /-- Raised by no meaning: kept so that the type names what a fault outcome would be. Safe. -/
  | noBehaviour
  deriving DecidableEq, Repr

/-- The reasons a step refuses. -/
inductive Refusal
  /-- Raised by an arm of `exec` for an instruction that has no meaning yet. Safe: the machine stops. -/
  | notModelled (mnemonic : String)
  /-- Raised by every instruction of a stream when `cur` names no engine of the package (R34): there is no such engine to
  issue it. Safe: no state the spec gives meets it. -/
  | noSuchEngine
  deriving DecidableEq, Repr

/-! ## Reset -/

/-- The reset value of a sparse table. -/
abbrev AMap.empty {α : Type} : AMap α := []

def LoopCtr.reset : LoopCtr := ⟨0, 0, 0, false, 0⟩

/-- A channel at T0: XNEXT 1, XDONE 0, head 0, idle (R109, R112). -/
def Channel.reset : Channel := ⟨1, 0, 0, .idle, 0, 0, 0, [], []⟩

def FbEntry.reset : FbEntry := ⟨0, 0, 0, 0, 0, 0, 0⟩

/-- An engine that no stream uses, and an engine at T0 before the distributor loads it (R31, R50, R199, R321, R378). -/
def Engine.reset : Engine where
  status := .off
  seq := 0
  team := 0
  ldie := 0
  codeVa := 0
  pc := 0
  started := false
  secNum := 0
  secStart := 0
  secEnd := 0
  hdrCycle := 0
  progBase := 0
  hdrStamp := 0
  sret := 0
  secPend := []
  glob := Vector.replicate 8 0
  win := []
  depth := 0
  resident := 1
  entering := false
  a := Vector.replicate 16 0
  c := Vector.replicate 8 false
  lc := Vector.replicate 4 LoopCtr.reset
  w := Vector.replicate 8 0
  v := []
  z := Vector.replicate 8 []
  zLand := Vector.replicate 8 0
  strmcfg := 0
  secpart := 0
  aspace := 0
  cause := 0
  epc := 0
  chksb := 0
  pend := []
  inter := []
  snap := []
  replay := false
  region := none
  consumed := false
  deadl := none
  nextIssue := 0
  holds := []
  acqs := []
  stores := []
  bcCount := 0
  bc := none
  follow := []
  mtxUntil := 0
  groups := []
  lend := none
  collected := false
  gtake := none
  chans := Vector.replicate 4 Channel.reset
  mover := ⟨0, 0, 0⟩
  fbNow := FbEntry.reset
  fbDone := []

/-- An empty tile (R31). -/
def Tile.reset : Tile := ⟨false, 0, [], [], 0, 0, none⟩

/-- A domain from power-on: OP0, phase-aligned at tick 0 (R331, R451). -/
def Domain.reset : Domain := ⟨0, 0, 0, none, 0, 0, none⟩

/-- A cluster after power-on; PARTW's size field is the die's own (R92). -/
def Cluster.reset (size : Nat) : Cluster where
  partw := BitVec.ofNat 64 size
  bfmtlo := 0
  bfmthi := 0
  bfmtPend := []
  tiles := Vector.replicate 16 Tile.reset
  fills := []
  shutter := .opened
  closeAsked := false
  acc := []
  dom := Domain.reset
  engstop := 0
  saves := []

def Window.reset : Window := ⟨0, 0, 0⟩

/-- An empty lattice (R281, R296). -/
def Lattice.reset : Lattice where
  cells := []
  graphs := []
  stampCtr := 0
  log := []
  sill := []
  nextSill := 0
  edges := Vector.replicate 4 []
  squash := 0
  commit := none
  freeAt := 0
  cycle := 0
  start := []
  settled := []
  fired := []

def CkSet.reset : CkSet := ⟨0, none, none⟩

/-- A die after power-on (R98, R107, R260, R346, R371, R374, R438). -/
def Die.reset : Die where
  incarn := 0
  stale := 0
  corr := 0
  uncorr := 0
  tripCause := 0
  tripTemp := 0
  tripCount := 0
  temp := 0
  soft := false
  hot := false
  wincfg := []
  windows := []
  route := []
  routeFree := []
  ranges := []
  cache := []
  walks := []
  merge := []
  acc := []
  keys := []
  roots := []
  bdcfg := 8
  partials := []
  ckpt := []
  arb := []
  lattice := Lattice.reset
  armed := []
  messages := []
  strays := []
  phase := .up
  barred := false
  restarts := 0
  tripTicks := []
  uncorrTicks := []
  retired := []
  crcTicks := []
  retries := []
  fwDigest := 0

/-- An image slot after power-on: empty (R310). -/
def ImageSlot.reset : ImageSlot := ⟨0, [], [], [], 0, 0, 0, 0, 0, 0⟩

def Tdi.reset : Tdi := ⟨.unlocked, false, 0, [], []⟩

/-- QCFG after reset: enabled (R322). -/
def qcfgReset : Word := 0x40

/-- EPARAM by die type code: the typical values of R341 (log 3). -/
def eparamReset : AMap Word :=
  [(1, 0x0000411B00000000), (2, 0x000032DD00000000), (3, 0x0001E84800000000), (4, 0x00004E200000EA60),
   (5, 0x000061A80000AFC8), (6, 0x000000000000EA60)]

def Gov.reset : Gov where
  eparam := eparamReset
  ebyte := 16
  govcfg := 0x000000F000000003
  pcap := 8400
  drisk := 0
  pstat := 0x0000000700000000
  lastEval := none
  lastInterval := none

def Mgmt.reset : Mgmt where
  flog := 6
  fltcfg := 1
  fresp0 := 0
  fresp1 := 0
  health := 0
  podcfg := 0
  safectl := 0
  saferst := 0
  evacctl := 0
  evacFrom := 0
  spillbase := 0
  spillsize := 0
  denylog := 0
  shapebase := 0
  preq := Vector.replicate 4 0
  qcfg := []
  moved := []
  safeDue := none
  restDue := none
  hostHeld := []
  shapePend := []

def Trust.reset : Trust where
  tdis := []
  sessions := []
  tenants := []
  measFail := false
  ideOn := []
  staged := []
  rootDigest := 0
  copying := []
  safeCopies := []
  spilled := []
  activations := []
  releases := []
  changes := []
  podSent := []
  podNext := []
  podKept := []
  podParts := []

/-- The MIX code of a die kind (R12). -/
def DieKind.code : DieKind → Nat
  | .md => 1 | .vd => 2 | .gd => 3 | .bd => 4 | .sd => 5 | .hd => 6

/-- MIX with every slot present at revision 0 (R11, R12; log 3). -/
def mixReset : Vector Byte 37 :=
  Vector.ofFn fun i => BitVec.ofNat 8 (match dieKind i.val with | some k => DieKind.code k | none => 0)

/-- The package after power-on: no launch, no stream, memory listing nothing (R20, R32, R434). -/
def State.reset : State where
  cur := ⟨0, 0, 0⟩
  ptick := 0
  fresh := 0
  nextId := 0
  inbox := []
  outbox := []
  fuse := mixReset
  mix := mixReset
  arithrev := 0
  mem := []
  poison := []
  written := []
  engines := []
  clusters := []
  dies := []
  accesses := []
  owns := []
  replies := []
  crossings := []
  pushes := []
  pieces := []
  images := []
  launches := []
  nextSeq := 1
  past := []
  gov := Gov.reset
  faults := []
  mgmt := Mgmt.reset
  trust := Trust.reset

end Sys2Proof.Machine
end

