-- ==== Sys2Proof/Machine/Ops.lean ====
section
/-! DEFINITION. The named operations over the state: sparse tables, memory, engines, clusters and dies, clocks, landing of
results, taking an exception and returning from one. -/

namespace Sys2Proof.Machine

/-! ## Bits -/

/-- Bits `lo` and up, `n` of them, of a register as a number. -/
def fld {w : Nat} (v : BitVec w) (lo n : Nat) : Nat := (v.extractLsb' lo n).toNat

/-- Replace bits `lo` and up, `n` of them. -/
def setFld {w : Nat} (v : BitVec w) (lo n x : Nat) : BitVec w :=
  BitVec.ofNat w (v.toNat % 2 ^ lo + (x % 2 ^ n) * 2 ^ lo + v.toNat / 2 ^ (lo + n) * 2 ^ (lo + n))

/-- The fixed-width truncation of an integer. -/
def word (i : Int) : Word := BitVec.ofInt 64 i

/-- Little-endian bytes of a number (R3). -/
def bytesOf : Nat → Nat → List Byte
  | 0, _ => []
  | n + 1, v => BitVec.ofNat 8 v :: bytesOf n (v / 256)

/-- The number that little-endian bytes hold (R3). -/
def natOf : List Byte → Nat
  | [] => 0
  | b :: bs => b.toNat + 256 * natOf bs

/-- Bytes `lo` and up, `n` of them, of a block as a number. -/
def bytesFld (bs : List Byte) (lo n : Nat) : Nat := natOf ((bs.drop lo).take n)

/-- `n / d` rounded up. -/
def ceilDiv (n d : Nat) : Nat := (n + d - 1) / d

/-! ## Sparse tables -/

def AMap.find {α : Type} : AMap α → Nat → Option α
  | [], _ => none
  | (k, v) :: m, i => if k = i then some v else AMap.find m i

def AMap.getD {α : Type} (m : AMap α) (i : Nat) (d : α) : α := (m.find i).getD d

def AMap.put {α : Type} : AMap α → Nat → α → AMap α
  | [], i, x => [(i, x)]
  | (k, v) :: m, i, x =>
    if k < i then (k, v) :: AMap.put m i x
    else if k = i then (i, x) :: m
    else (i, x) :: (k, v) :: m

def AMap.erase {α : Type} : AMap α → Nat → AMap α
  | [], _ => []
  | (k, v) :: m, i => if k = i then m else (k, v) :: AMap.erase m i

/-! ## Memory -/

/-- What an address reads when nothing lists it: the spec gives zero (R32, R351, R422, R434). -/
def memDefault : Byte := 0

/-- The canonical form: addresses strictly rising, and no entry holding what an unlisted address reads as. -/
def Memory.wf : List Host.Cell → Bool
  | [] => true
  | [(_, b)] => b != memDefault
  | (a, b) :: (a', b') :: m => decide (a < a') && b != memDefault && Memory.wf ((a', b') :: m)

/-- The byte at a physical address. -/
def byteAt (m : List Host.Cell) (a : Nat) : Byte :=
  match m with
  | [] => memDefault
  | (k, b) :: m => if k = a then b else byteAt m a

/-- The `n` bytes from a physical address on. -/
def readBytes (m : List Host.Cell) (a n : Nat) : List Byte :=
  let near := m.filter fun c => decide (a ≤ c.1) && decide (c.1 < a + n)
  (List.range n).map fun i => byteAt near (a + i)

/-- The cells of a run of bytes, without those that hold the default. -/
def runCells : Nat → List Byte → List Host.Cell
  | _, [] => []
  | a, b :: bs => if b = memDefault then runCells (a + 1) bs else (a, b) :: runCells (a + 1) bs

/-- Write a run of bytes. -/
def writeBytes (m : List Host.Cell) (a : Nat) (bs : List Byte) : List Host.Cell :=
  m.filter (fun c => decide (c.1 < a)) ++ runCells a bs ++ m.filter (fun c => decide (a + bs.length ≤ c.1))

/-- Make `n` bytes read zero. -/
def clearBytes (m : List Host.Cell) (a n : Nat) : List Host.Cell :=
  m.filter fun c => decide (c.1 < a) || decide (a + n ≤ c.1)

/-! ## Physical addresses (R89) -/

/-- What a physical address names (R89, R93). -/
inductive Place
  | pool (slot cluster off : Nat)
  | gdScr (slot off : Nat)
  | bdSram (slot off : Nat)
  | window (slot win off : Nat)
  | hbm (slot off : Nat)
  | mgmt (off : Nat)
  | sched (off : Nat)
  | nothing
  deriving DecidableEq, Repr

def paOf (slot off : Nat) : Nat := slot * 2 ^ 48 + off
def paSlot (pa : Nat) : Nat := pa / 2 ^ 48 % 256
def paOff (pa : Nat) : Nat := pa % 2 ^ 48

/-- The size of a cluster's pool by die kind (R89). -/
def poolSize (k : DieKind) : Nat := match k with | .md => 0x800000 | .vd => 0x400000 | _ => 0

/-- The place a physical address names by R89 alone. -/
def placeOf (pa : Nat) : Place :=
  let slot := paSlot pa
  let off := paOff pa
  match dieKind slot with
  | none => .nothing
  | some k =>
    if 0x40000000 ≤ off ∧ off < 0x42000000 then .window slot ((off - 0x40000000) / 0x80000) (off % 0x80000)
    else if 0x80000000 ≤ off ∧ off < 0x81000000 then .mgmt off
    else if k = .hd ∧ 0x90000000 ≤ off ∧ off < 0xA0000000 then .sched (off - 0x90000000)
    else if k = .bd ∧ 0x10000000000 ≤ off ∧ off < 0x12000000000 then .hbm slot (off - 0x10000000000)
    else match k with
      | .md => if off < 0x10000000 ∧ off % 0x1000000 < 0x800000 then .pool slot (off / 0x1000000) (off % 0x1000000) else .nothing
      | .vd => if off < 0x10000000 ∧ off % 0x1000000 < 0x400000 then .pool slot (off / 0x1000000) (off % 0x1000000) else .nothing
      | .gd => if off < 0x4000000 then .gdScr slot off else .nothing
      | .bd => if off < 0x10000000 then .bdSram slot off else .nothing
      | _ => .nothing

/-- The first address of the ECC unit that holds a byte: 32 bytes in HBM4E, 8 elsewhere (R371). -/
def unitOf (pa : Nat) : Nat :=
  match placeOf pa with
  | .hbm _ _ => pa / 32 * 32
  | _ => pa / 8 * 8

def unitSize (pa : Nat) : Nat :=
  match placeOf pa with
  | .hbm _ _ => 32
  | _ => 8

/-- Whether a byte lies in a memory whose lines carry written bits: a compute die's, or a window's landing memory (R32). -/
def carriesWritten (pa : Nat) : Bool :=
  match placeOf pa with
  | .pool _ _ _ => true
  | .gdScr _ _ => true
  | .window _ _ _ => true
  | _ => false

/-- The 256-byte lines that `n` bytes touch. -/
def linesOf (pa n : Nat) : List Nat :=
  if n = 0 then [] else (List.range ((pa + n - 1) / 256 + 1 - pa / 256)).map fun k => (pa / 256 + k) * 256

/-! ## Engines, clusters and dies -/

def State.eng (s : State) (e : EngId) : Engine := s.engines.getD e.key Engine.reset
def State.setEng (s : State) (e : EngId) (v : Engine) : State := { s with engines := s.engines.put e.key v }
def State.updEng (s : State) (e : EngId) (f : Engine → Engine) : State := s.setEng e (f (s.eng e))

/-- The size field of PARTW: the pool in 64 KiB granules (R92). -/
def clusterSize (cl : Nat) : Nat :=
  match dieKind (cl / 16) with
  | some .md => 128
  | some .vd => 64
  | _ => 0

def State.cluster (s : State) (cl : Nat) : Cluster := s.clusters.getD cl (Cluster.reset (clusterSize cl))
def State.setCluster (s : State) (cl : Nat) (v : Cluster) : State := { s with clusters := s.clusters.put cl v }
def State.updCluster (s : State) (cl : Nat) (f : Cluster → Cluster) : State := s.setCluster cl (f (s.cluster cl))
def State.die (s : State) (slot : Nat) : Die := s.dies.getD slot Die.reset
def State.setDie (s : State) (slot : Nat) (v : Die) : State := { s with dies := s.dies.put slot v }
def State.updDie (s : State) (slot : Nat) (f : Die → Die) : State := s.setDie slot (f (s.die slot))
def State.image (s : State) (i : Nat) : ImageSlot := s.images.getD i ImageSlot.reset
def State.updImage (s : State) (i : Nat) (f : ImageSlot → ImageSlot) : State :=
  { s with images := s.images.put i (f (s.image i)) }

/-- The key of the domain and cluster a slot's engine stands in; cluster 0 for a GD, BD or SD (R41). -/
def clKey (slot cluster : Nat) : Nat := slot * 16 + cluster

/-- Take the next free value: a choice the spec leaves open, made by an opaque constant of Config (log 2). -/
def State.draw (s : State) : Nat × State := (s.fresh, { s with fresh := s.fresh + 1 })

/-- The next number of an access, transfer entry, push or reply. -/
def State.newId (s : State) : Nat × State := (s.nextId, { s with nextId := s.nextId + 1 })

/-- The lines whose written bit is set once `n` bytes from an address on have been written (R32). -/
def State.writtenWith (s : State) (pa n : Nat) : List Nat :=
  if carriesWritten pa then s.written ++ (linesOf pa n).filter (fun x => !s.written.contains x) else s.written

/-- The write of a run of bytes at its home: memory, the poison of each unit covered whole (R372), and the written bits of the
lines it touches (R32). -/
def State.store (s : State) (pa : Nat) (bs : List Byte) : State :=
  { s with
    mem := writeBytes s.mem pa bs
    poison := s.poison.filter fun u => !(decide (pa ≤ u) && decide (u + unitSize u ≤ pa + bs.length))
    written := s.writtenWith pa bs.length }

def State.bytes (s : State) (pa n : Nat) : List Byte := readBytes s.mem pa n

/-- Whether a run of bytes touches a poisoned unit (R372). -/
def State.poisoned (s : State) (pa n : Nat) : Bool :=
  s.poison.any fun u => decide (u < pa + n) && decide (pa < u + unitSize u)

/-! ## Clocks (R331, R451) -/

/-- Cycles per twelve ticks at an operating point (R331, R451). -/
def perTwelve (op : Nat) : Nat := 5 + op

/-- The tick in which a domain's cycle begins (R451). -/
def Domain.tickOf (d : Domain) (c : Nat) : Nat := d.refTick + (c - d.refCycle) * 12 / perTwelve d.op

/-- The last cycle that has begun by the end of a tick. -/
def Domain.cycleOf (d : Domain) (t : Nat) : Nat := d.refCycle + ((t - d.refTick + 1) * perTwelve d.op - 1) / 12

/-- The first cycle that begins in a tick or after it. -/
def Domain.cycleFrom (d : Domain) (t : Nat) : Nat := d.refCycle + ceilDiv ((t - d.refTick) * perTwelve d.op) 12

def State.dom (s : State) (cl : Nat) : Domain := (s.cluster cl).dom

/-! ## Landing of results (R43, R44) -/

/-- A write reaches its register. -/
def Engine.apply (e : Engine) (w : Write) : Engine :=
  match w with
  | .glob i v => { e with glob := e.glob.set i v }
  | .win k v => { e with win := e.win.put k v }
  | .a i v => { e with a := e.a.set i v }
  | .aHi i v => { e with a := e.a.set i (v ++ (e.a[i]).extractLsb' 0 64) }
  | .c i v => { e with c := e.c.set i v }
  | .lc i v => { e with lc := e.lc.set i { e.lc[i] with count := v } }
  | .w i v => { e with w := e.w.set i v }
  | .v i v => { e with v := e.v.put i.val v }
  | .sys n v =>
    if n = 0x011 then { e with strmcfg := BitVec.ofNat 64 (fld v 0 1) }
    else if n = 0x041 then { e with epc := BitVec.ofNat 64 (fld v 0 32) }
    else if n = 0x042 then { e with chksb := BitVec.ofNat 64 (fld v 32 32 * 2 ^ 32 + fld e.chksb 2 1 * 4 + fld v 0 1) }
    else if 0x028 ≤ n ∧ n < 0x02C then
      match n - 0x028 with
      | 0 => { e with chans := e.chans.set 0 { e.chans[0] with head := BitVec.ofNat 80 (v.toNat / 64 * 64) } }
      | 1 => { e with chans := e.chans.set 1 { e.chans[1] with head := BitVec.ofNat 80 (v.toNat / 64 * 64) } }
      | 2 => { e with chans := e.chans.set 2 { e.chans[2] with head := BitVec.ofNat 80 (v.toNat / 64 * 64) } }
      | _ => { e with chans := e.chans.set 3 { e.chans[3] with head := BitVec.ofNat 80 (v.toNat / 64 * 64) } }
    else e

/-- Insert a landing after those that land no later (R44: among equal cycles the later issue prevails). -/
def insertLanding (x : Landing) : List Landing → List Landing
  | [] => [x]
  | y :: ys => if x.land < y.land then x :: y :: ys else y :: insertLanding x ys

/-- Landings in landing order, issue order among equals. -/
def sortLandings (l : List Landing) : List Landing := l.foldl (fun acc x => insertLanding x acc) []

/-- Whether a write names one of the window's new registers, s16-s31. -/
def Engine.isNew (e : Engine) (w : Write) : Bool :=
  match w with
  | .win k _ => decide (16 * e.depth + 8 ≤ k)
  | _ => false

/-- A write lands, but for one to a new register of a window whose first instruction has not issued: that register reads zero
then (R50). -/
def Engine.landOne (e : Engine) (w : Write) : Engine := if e.entering && e.isNew w then e else e.apply w

/-- The engine as an instruction that issues at cycle `c` reads it: every result that lands before `c` has landed. -/
def Engine.settle (e : Engine) (c : Nat) : Engine :=
  let ready := e.pend.filter fun p => decide (p.land < c)
  (sortLandings ready).foldl (fun e p => e.landOne p.wr) { e with pend := e.pend.filter fun p => !decide (p.land < c) }

/-- At the issue of the instruction that a return or a resumption restarts, the captured results become pending again,
counted as issued before everything pending now (R48, R382). -/
def Engine.replayAt (e : Engine) (c : Nat) : Engine :=
  if e.replay then
    { e with pend := e.snap.map (fun x => ⟨x.wr, c + x.off⟩) ++ e.pend, snap := [], replay := false }
  else e

/-- Whether a write is an mts's: its effect is no register result of a latency, and what issues after a capture sees it
(R48, R196; log 31). -/
def Write.isSys : Write → Bool
  | .sys _ _ => true
  | _ => false

/-- Move the pending results into the snapshot buffer, with offsets from cycle `c` (R48). -/
def Engine.capture (e : Engine) (c : Nat) : Engine :=
  (e.pend.filter fun p => p.wr.isSys).foldl (fun e p => e.apply p.wr)
    { e with
      snap := e.snap ++ (e.pend.filter fun p => !p.wr.isSys).map fun p => ⟨p.wr, p.land - c⟩
      pend := []
      replay := false }

/-- A stopped engine goes on at cycle `c`: its pending results keep their offsets from the next issue, and PROG goes on from where it
stood (R48, R62, R334, R385). -/
def Engine.rebase (e : Engine) (c : Nat) : Engine :=
  { e with
    pend := e.pend.map (fun p => { p with land := c + (p.land - e.nextIssue) })
    progBase := e.progBase + (e.nextIssue - e.hdrCycle)
    hdrCycle := c
    nextIssue := c }

/-! ## Registers by window (R50) -/

/-- The index of s8-s31 among the windowed registers of every depth: windows overlap by eight (R50). -/
def winIndex (depth i : Nat) : Nat := 16 * depth + (i - 8)

/-- Enter a window: the 16 new registers read zero, and one more window is resident, up to eight (R50, R51). -/
def Engine.pushWindow (e : Engine) : Engine :=
  { e with
    entering := true
    depth := e.depth + 1
    resident := if e.resident < 8 then e.resident + 1 else 8
    win := e.win.filter fun p => decide (p.1 < 16 * (e.depth + 1) + 8) }

/-- Leave a window (R50, R51). -/
def Engine.popWindow (e : Engine) : Engine :=
  { e with depth := e.depth - 1, resident := if 1 < e.resident then e.resident - 1 else 1 }

/-- Cycles a window movement adds: 4 when a call spills, 8 when a return fills (R51). -/
def Engine.spillCost (e : Engine) : Nat := if e.resident < 8 then 0 else 4
def Engine.fillCost (e : Engine) : Nat := if 1 < e.resident then 0 else 8

/-- The spill bytes S of each stream (R51, R93). -/
def spillBytes (e : EngId) (partw : Word) : Nat :=
  match dieKind e.slot with
  | some .md => fld partw 32 8 * 65536 / 5 / 128 * 128
  | some .vd => fld partw 32 8 * 65536 / 17 / 128 * 128
  | _ => 8192

/-- The greatest call depth (R51). -/
def State.maxDepth (s : State) (e : EngId) : Nat := 7 + spillBytes e (s.cluster e.cl).partw / 128

/-! ## Faults of a team (R365, R400) -/

/-- A fault event without an address. -/
def faultAt (s : State) (e : EngId) (cause : Nat) (detail : Nat) (pc : BitVec 32) : FaultEv where
  tick := s.ptick
  cause := cause
  detail := BitVec.ofNat 64 detail
  addr := 0
  addrValid := false
  addrPhys := false
  eng := some e
  slot := e.slot
  cluster := e.cluster
  pc := pc
  level := 1
  seq := (s.eng e).seq
  team := (s.eng e).team
  flags := 0
  incarn := (s.die e.slot).incarn
  issue := s.nextId
  after := .stop

/-- Note a fault; the fault stop acts on it at the end of the tick (R400). -/
def State.fault (s : State) (f : FaultEv) : State := { s with faults := s.faults ++ [f] }

/-! ## Taking an exception and returning from one (R376-R384) -/

/-- The bits of CHKSB (R380). -/
def chkEn (v : Word) : Bool := v.getLsbD 0
def chkInh (v : Word) : Bool := v.getLsbD 2
def chkPc (v : Word) : BitVec 32 := v.extractLsb' 32 32
def setInh (v : Word) (b : Bool) : Word := setFld v 2 1 (if b then 1 else 0)

/-- CAUSE after an exception (R378, R381). -/
def causeWord (cause detail : Nat) : Word := BitVec.ofNat 64 (detail % 2 ^ 32 * 2 ^ 32 + cause % 2 ^ 16)

/-- Whether the engine's team stops in this tick for a cause other than an exception: the stop acts first, and the instruction stays
unissued (R377; log 76). -/
def State.stopNoted (s : State) (e : Engine) : Bool :=
  s.faults.any fun f => f.after == .stop && decide (0x0100 ≤ f.cause) && f.seq == e.seq && f.team == e.team

/-- An engine-level exception at cycle `c` (R381, R383). `epc` is what EPC receives, `pc` the faulting instruction's. The
handler is entered when it is installed, is not running, has a window to enter, and the engine runs its own stream; otherwise
the team faults. A stop of the team in the same tick acts first (R377). -/
def takeException (s : State) (id : EngId) (e : Engine) (c cause detail : Nat) (epc : BitVec 32) : State :=
  let full := s.maxDepth id < e.depth + 1
  let e1 := e.capture c
  if s.stopNoted e then s.setEng id { e with status := .stopped }
  else if chkEn e.chksb ∧ ¬ chkInh e.chksb ∧ ¬ full ∧ e.lend = none then
    let e2 := { e1 with cause := causeWord cause detail, epc := BitVec.ofNat 64 epc.toNat, chksb := setInh e1.chksb true }
    s.setEng id { e2.pushWindow with pc := chkPc e.chksb, nextIssue := c + 6 + e.spillCost }
  else
    let past := chkEn e.chksb && !chkInh e.chksb && full && e.lend.isNone
    let cause' := if past then 0x000B else cause
    let detail' := if past then e.depth % 65536 * 65536 + 3 else detail
    let e2 := { e1 with cause := causeWord cause' detail', epc := BitVec.ofNat 64 epc.toNat, status := .stopped, nextIssue := c }
    (s.setEng id e2).fault (faultAt s id cause' detail' e.pc)

/-- The return from the handler at cycle `c` with stall `k`: the window retreats, inh clears, and what the handler has in flight
past the target's cycle joins the captured results, which wait for the target's issue (R197, R382). -/
def returnFromException (e : Engine) (c k : Nat) : Engine :=
  let n := c + 1 + k + e.fillCost
  let e1 := (e.settle n).capture n
  { e1.popWindow with
    chksb := setInh e1.chksb false
    pc := BitVec.ofNat 32 (fld e.epc 0 32)
    replay := true
    nextIssue := n }

end Sys2Proof.Machine
end

