-- ==== Sys2Proof/Machine/Operands.lean ====
section
/-! DEFINITION. Operand forms: register codes (06 R158, R159), reading and writing registers (07 R174), operand 2 (R176),
effective addresses (R183), and the physical registers an instruction names (R44). -/

namespace Sys2Proof.Machine

/-- The register a unified code names; a code of no register reads as zr (R158). -/
def Reg.ofCode (v : Nat) : Reg :=
  if h : v < 32 then .s ⟨v, h⟩
  else if h : v - 32 < 16 then .a ⟨v - 32, h⟩
  else if h : v - 48 < 8 then .c ⟨v - 48, h⟩
  else if h : v - 56 < 4 then .lc ⟨v - 56, h⟩
  else .zr

/-- An index of an indexed file, taken within the file (R159). -/
def idx8 (v : Nat) : Fin 8 := ⟨v % 8, Nat.mod_lt _ (by decide)⟩
def idx16 (v : Nat) : Fin 16 := ⟨v % 16, Nat.mod_lt _ (by decide)⟩
def idx128 (v : Nat) : Fin 128 := ⟨v % 128, Nat.mod_lt _ (by decide)⟩
def idx4 (v : Nat) : Fin 4 := ⟨v % 4, Nat.mod_lt _ (by decide)⟩

/-- A scalar register in the current window (R50). -/
def Engine.scalar (e : Engine) (i : Nat) : Word :=
  if i < 8 then e.glob[idx8 i] else e.win.getD (winIndex e.depth i) 0

/-- The physical register a register names at this depth (R44, R50). -/
def Engine.dest (e : Engine) (r : Reg) : Dest :=
  match r with
  | .s i => if i.val < 8 then .glob (idx8 i.val) else .win (winIndex e.depth i.val)
  | .a i => .a i
  | .c i => .c i
  | .lc i => .lc i
  | .zr => .nil

/-- The register a code reads and writes, at this depth. -/
def Engine.destOf (e : Engine) (code : Nat) : Dest := e.dest (Reg.ofCode code)

/-- val(f): the scalar value of a source (R174). -/
def Engine.val (e : Engine) (code : Nat) : Word :=
  match Reg.ofCode code with
  | .s i => e.scalar i.val
  | .a i => (e.a[i]).extractLsb' 0 64
  | .c i => if e.c[i] then 1 else 0
  | .lc i => BitVec.ofNat 64 (e.lc[i]).count.toNat
  | .zr => 0

/-- The 80-bit value of a source: all of an address register, any other zero-extended (R174, R179). -/
def Engine.val80 (e : Engine) (code : Nat) : Addr :=
  match Reg.ofCode code with
  | .a i => e.a[i]
  | r => BitVec.ofNat 80 (e.val (match r with | .s i => i.val | .c i => 48 + i.val | .lc i => 56 + i.val | _ => 63)).toNat

/-- write(f, v): the write of an 80-bit value to a destination; none for zr, which discards it (R174). -/
def Engine.writeTo (e : Engine) (code : Nat) (v : Addr) : Option Write :=
  match Reg.ofCode code with
  | .s i => if i.val < 8 then some (.glob (idx8 i.val) (v.extractLsb' 0 64)) else some (.win (winIndex e.depth i.val) (v.extractLsb' 0 64))
  | .a i => some (.a i v)
  | .c i => some (.c i (v.getLsbD 0))
  | .lc i => some (.lc i (v.extractLsb' 0 48))
  | .zr => none

/-- A 64-bit value zero-extended to the width of an address register (R174). -/
def zext80 (v : Word) : Addr := v.setWidth 80

/-- The sign-extension of a 64-bit value to 80 bits (R182, R183). -/
def sext80 (v : Word) : Addr := v.signExtend 80

/-- Operand 2 of the register forms: val(b) + sext(imm) (R176). -/
def Engine.op2 (e : Engine) (f : LG) : Word := e.val f.b.toNat + BitVec.ofInt 64 f.imm.val

/-- The effective address of a memory operand (R183). -/
def Engine.ea (e : Engine) (a b : Nat) (imm : Int) : Addr := e.val80 a + sext80 (e.val b) + BitVec.ofInt 80 imm

/-- The signed offset of atomics and reductions: the immediate below the type field (R167, R269). -/
def atomicOffset (i : ImmG) : Int :=
  match i with
  | .short v => (v.extractLsb' 0 9).toInt
  | .wide v => (v.extractLsb' 12 32 ++ v.extractLsb' 0 9 : BitVec 41).toInt

/-- The element type of atomics and reductions (R167). -/
def atomicType (i : ImmG) : BitVec 3 := BitVec.ofNat 3 (i.bits / 512 % 8)

/-- The physical register of a write. -/
def Write.dest (w : Write) : Dest :=
  match w with
  | .glob i _ => .glob i
  | .win k _ => .win k
  | .a i _ => .a i
  | .aHi i _ => .a i
  | .c i _ => .c i
  | .lc i _ => .lc i
  | .w i _ => .w i
  | .v i _ => .v i
  | .sys _ _ => .nil

/-- The write of a value to a physical register, as a reply makes it (R45). -/
def Dest.write (d : Dest) (v : Addr) : Option Write :=
  match d with
  | .glob i => some (.glob i (v.extractLsb' 0 64))
  | .win k => some (.win k (v.extractLsb' 0 64))
  | .a i => some (.a i v)
  | .c i => some (.c i (v.getLsbD 0))
  | .lc i => some (.lc i (v.extractLsb' 0 48))
  | _ => none

/-- The register number of R391's detail: the unified code, 0x40 + i for w, 0x80 + i for v. A windowed register is
named as the current window shows it. -/
def Dest.code (depth : Nat) (d : Dest) : Nat :=
  match d with
  | .glob i => i.val
  | .win k => 8 + (k - 16 * depth)
  | .a i => 32 + i.val
  | .c i => 48 + i.val
  | .lc i => 56 + i.val
  | .w i => 64 + i.val
  | .v i => 128 + i.val
  | .nil => 63

end Sys2Proof.Machine
end

