-- ==== Sys2Proof/Machine/Flags.lean ====
section
/-! DEFINITION. Conditions. The N4 has no flags register: compares write condition registers (07 R181), and the suffixes
`.uns`, `.ari` and `.neg` choose among a family's conditions (06 R167). -/

namespace Sys2Proof.Machine

/-- Less-than, signed or unsigned (R181). -/
def ltOf (uns : Bool) (a b : Word) : Bool := if uns then a.ult b else a.slt b

/-- Less-or-equal, signed or unsigned (R181). -/
def leOf (uns : Bool) (a b : Word) : Bool := if uns then a.ule b else a.sle b

/-- The value a compare writes (R181). -/
def bit1 (b : Bool) : Addr := if b then 1 else 0

/-- P of cand, cor and cxor: whether an operand is nonzero (R181). -/
def truth (v : Word) : Bool := v != 0

/-- Q of cand, cor and cxor: the second operand's truth, inverted under `.neg` (R181). -/
def truthNeg (neg : Bool) (v : Word) : Bool := truth v != neg

/-- Whether a branch or call of layout B is taken (R154, R186). -/
def taken (e : Engine) (f : LB) : Bool :=
  match f.kind.toNat with
  | 0 => true
  | 1 => e.c[idx8 f.cnd.toNat]
  | 2 => !e.c[idx8 f.cnd.toNat]
  | _ => false

/-- The condition of a wait: equal, not equal, unsigned greater-or-equal (R111, R190). -/
def waitHolds (kind : Nat) (w x : Word) : Bool :=
  match kind with
  | 0 => w == x
  | 1 => w != x
  | _ => x.ule w

end Sys2Proof.Machine
end

