-- ==== Sys2Proof/Machine/Translate.lean ====
section
/-! DEFINITION. From a virtual address to a home: the local aperture (04 R91), range tables and pages (R100, R101), rights
(R102), what a physical address reaches (R89, R93, R98, R108) and the access tables (14 R353). -/

namespace Sys2Proof.Machine

/-- Rights of an access or an entry: read 1, write 2, atomic 4 (R102). -/
abbrev Rights := BitVec 3

def rRead : Rights := 1
def rWrite : Rights := 2
def rAtomic : Rights := 4

/-- An address in the local aperture (R91). -/
def isLocal (va : Addr) : Bool := va.extractLsb' 72 8 == 0xFF

/-- The local-aperture address of an offset (R91, R180). -/
def localVa (off : Nat) : Addr := BitVec.ofNat 80 (0xFF * 2 ^ 72 + off % 2 ^ 28)

/-- The first byte of a cluster's scratchpad, and its length (R93). -/
def scrBase (partw : Word) : Nat := fld partw 8 8 * 65536
def scrSize (partw : Word) : Nat := fld partw 16 8 * 65536

/-- The bytes of a BD's SRAM in its explicit part (R98). -/
def explicitBytes (bdcfg : Word) : Nat := (16 - fld bdcfg 0 5) * 0x1000000

/-- A slot that takes no work and answers no traffic (R13). -/
def State.slotGone (s : State) (slot : Nat) : Bool :=
  match s.mix[slot]? with
  | none => true
  | some b => let st := fld b 3 2
    st == 1 || st == 2

/-- Why an access cannot be made. -/
inductive MemFault
  | translation (reason level asid : Nat)
  | rights (need found : Nat) (page : Bool) (index : Nat)
  | physical (reason : Nat)
  | misaligned (log2 : Nat)
  | window (win kind : Nat)
  | denied (need found : Nat) (hasEntry : Bool) (pa slot cluster master : Nat)
  | poisoned (kind slot : Nat)
  deriving DecidableEq, Repr

/-- The outcome of a translation: a physical address, a miss that needs a walk, or a fault. -/
inductive Tr
  | pa (a : Nat)
  | miss
  | bad (f : MemFault)
  deriving DecidableEq, Repr

/-- Whether `n` bytes from a scratchpad offset lie in the part loads and stores reach (R91, R93, R98). -/
def State.reachable (s : State) (e : EngId) (off n : Nat) : Bool :=
  match dieKind e.slot with
  | some .md => decide (scrBase (s.cluster e.cl).partw ≤ off) && decide (off + n ≤ scrBase (s.cluster e.cl).partw + scrSize (s.cluster e.cl).partw)
  | some .vd => decide (scrBase (s.cluster e.cl).partw ≤ off) && decide (off + n ≤ scrBase (s.cluster e.cl).partw + scrSize (s.cluster e.cl).partw)
  | some .gd => decide (off + n ≤ 0x4000000)
  | some .bd => decide (off + n ≤ explicitBytes (s.die e.slot).bdcfg)
  | _ => false

/-- The physical address of an offset in the SRAM of an engine's own cluster or die (R91). -/
def ownPa (e : EngId) (off : Nat) : Nat :=
  match dieKind e.slot with
  | some .md => paOf e.slot (e.cluster * 0x1000000 + off)
  | some .vd => paOf e.slot (e.cluster * 0x1000000 + off)
  | _ => paOf e.slot off

/-- A local-aperture access of `n` bytes (R91). -/
def State.localAccess (s : State) (e : EngId) (va : Addr) (n : Nat) : Tr :=
  if fld va 28 44 ≠ 0 then .bad (.physical 2)
  else if s.reachable e (fld va 0 28) n then .pa (ownPa e (fld va 0 28))
  else .bad (.physical 2)

/-- The lowest-index valid range entry of an address space that holds an address (R100). -/
def State.rangeFor (s : State) (slot : Nat) (asid : BitVec 16) (va : Addr) : Option RangeEntry :=
  (s.die slot).ranges.find? fun r => r.asid == asid && r.rights.getLsbD 0 && r.base.ule va && va.ule r.limit

/-- The cached page of an address (R100). -/
def State.cachedFor (s : State) (slot : Nat) (asid : BitVec 16) (page : Nat) : Option CachedPage :=
  (s.die slot).cache.find? fun c => c.asid == asid && c.page == page

/-- Rights checked on the translated access (R102). -/
def rightsOk (need have_ : Rights) : Bool := need &&& have_ == need

/-- The rights bits of a page-table leaf as the leaf holds them: valid in bit 0 (R101, R403; log 33). -/
def foundRights (r : Rights) : Nat := 2 * r.toNat + 1

/-- Translate one address outside the local aperture: cached page, range table, or a miss (R100). -/
def State.translate (s : State) (slot : Nat) (asid : BitVec 16) (va : Addr) (need : Rights) : Tr :=
  match s.cachedFor slot asid (va.toNat / 4096) with
  | some c =>
    if rightsOk need c.rights then .pa (c.frame * 4096 + va.toNat % 4096)
    else .bad (.rights need.toNat (foundRights c.rights) true c.level)
  | none =>
    match s.rangeFor slot asid va with
    | some r =>
      if rightsOk need (r.rights.extractLsb' 1 3) then .pa ((r.pa.toNat + (va.toNat - r.base.toNat)) % 2 ^ 56)
      else .bad (.rights need.toNat (fld r.rights 0 4) false r.index)
    | none => .miss

/-! ## Page walks (R101) -/

/-- The index bits of a level: 14 for L0, 9 for the others (R101). -/
def levelIndex (va : Nat) (level : Nat) : Nat :=
  if level = 0 then va / 2 ^ 66 % 2 ^ 14 else va / 2 ^ (66 - 9 * level) % 2 ^ 9

/-- Whether a physical address maps memory a table can lie in (R101). -/
def mapsMemory (pa : Nat) : Bool :=
  match placeOf pa with
  | .nothing => false
  | .mgmt _ => false
  | .sched _ => false
  | _ => true

/-- A page-table entry read at a physical address (R101). -/
def State.pte (s : State) (pa : Nat) : Word := BitVec.ofNat 64 (natOf (s.bytes pa 8))

def pteValid (v : Word) : Bool := v.getLsbD 0
def pteRights (v : Word) : Rights := v.extractLsb' 1 3
def pteLeaf (v : Word) : Bool := v.getLsbD 4
def ptePa (v : Word) : Nat := fld v 12 44 * 4096
def pteSize (v : Word) : Nat := fld v 56 4

/-- Whether the `n` aligned consecutive entries of a large leaf agree (R101). -/
def State.groupOk (s : State) (table idx n bytes : Nat) : Bool :=
  let first := s.pte (table + idx / n * n * 8)
  decide (ptePa first % (n * bytes) = 0) && (List.range n).all fun k =>
    let v := s.pte (table + (idx / n * n + k) * 8)
    pteValid v && pteLeaf v && pteSize v == pteSize first && pteRights v == pteRights first && ptePa v == ptePa first + k * bytes

/-- The frame and rights of the 4 KiB page `page`, or the fault of the walk (R101, R403). -/
inductive WalkResult
  | page (frame : Nat) (rights : Rights) (level : Nat)
  | bad (f : MemFault)
  deriving DecidableEq, Repr

/-- A leaf at a level: the arrangements of R101. -/
def State.leaf (s : State) (v : Word) (table idx level page asid : Nat) : WalkResult :=
  let ok (bytes : Nat) : WalkResult := .page ((ptePa v + page * 4096 % bytes) / 4096) (pteRights v) level
  match level, pteSize v with
  | 4, 3 => ok 0x40000000
  | 4, 4 => if s.groupOk table idx 4 0x40000000 then ok 0x40000000 else .bad (.translation 2 level asid)
  | 5, 2 => ok 0x200000
  | 6, 0 => ok 0x1000
  | 6, 1 => if s.groupOk table idx 16 0x1000 then ok 0x1000 else .bad (.translation 2 level asid)
  | _, _ => .bad (.translation 2 level asid)

/-- The walk from a table at a level on; `n` levels remain (R101). -/
def State.walkFrom (s : State) (asid page table level : Nat) : Nat → WalkResult
  | 0 => .bad (.translation 2 6 asid)
  | n + 1 =>
    let idx := levelIndex (page * 4096) level
    let at_ := table + idx * 8
    if !mapsMemory at_ || s.slotGone (paSlot at_) then .bad (.translation 5 level asid)
    else if s.poisoned at_ 8 then .bad (.translation 4 level asid)
    else
      let v := s.pte at_
      if !pteValid v then .bad (.translation 1 level asid)
      else if pteLeaf v then s.leaf v table idx level page asid
      else State.walkFrom s asid page (ptePa v) (level + 1) n

/-- The walk of a page at home_bd (R100, R101). -/
def State.walk (s : State) (homeBd : Nat) (asid : BitVec 16) (page : Nat) : WalkResult :=
  match (s.die homeBd).roots.find asid.toNat with
  | none => .bad (.translation 3 0 asid.toNat)
  | some root => if s.slotGone homeBd then .bad (.translation 5 0 asid.toNat) else s.walkFrom asid.toNat page root 0 7

/-! ## Homes (R89, R108, R353) -/

/-- The lowest-index valid entry for a master whose range holds an offset (R353). -/
def accEntryFor (t : List AccEntry) (master : BitVec 16) (off : Nat) : Option AccEntry :=
  t.find? fun a => a.rights.getLsbD 3 && a.master == master && decide (a.base.toNat ≤ off) && decide (off ≤ a.limit.toNat)

/-- The master of HD firmware, admitted without a lookup (R352, R353). -/
def masterHd : BitVec 16 := 0xFFFE

/-- Judge an access against a target's table (R353, R445). -/
def admitBy (t : List AccEntry) (master : BitVec 16) (off : Nat) (need : Rights) (pa slot cluster : Nat) : Option MemFault :=
  if master = masterHd then none
  else match accEntryFor t master off with
    | none => some (.denied need.toNat 0 false pa slot cluster master.toNat)
    | some a =>
      if rightsOk need (a.rights.extractLsb' 0 3) then none
      else some (.denied need.toNat (fld a.rights 0 4) true pa slot cluster master.toNat)

/-- Judge a translated access of `n` bytes by an engine or lattice on a die: what it reaches, and the access table of its
home. `kind` is the window-fault kind of R403 for a write. -/
def State.judge (s : State) (e : EngId) (master : BitVec 16) (pa n : Nat) (need : Rights) (kind : Nat) : Option MemFault :=
  match placeOf pa with
  | .nothing => some (.physical 1)
  | .mgmt _ => some (.physical 1)
  | .sched _ => some (.physical 1)
  | .window slot w _ =>
    if need != rRead then some (.window w kind)
    else if slot ≠ e.slot then some (.physical 1) else none
  | .pool slot c off =>
    let p := (s.cluster (clKey slot c)).partw
    if off < scrBase p ∨ scrBase p + scrSize p < off + n then some (.physical 1)
    else if slot = e.slot ∧ c = e.cluster then none
    else admitBy (s.cluster (clKey slot c)).acc master off need pa slot c
  | .gdScr slot off =>
    if 0x4000000 < off + n then some (.physical 1)
    else if slot = e.slot then none
    else admitBy (s.die slot).acc master off need pa slot 0
  | .bdSram slot off =>
    if explicitBytes (s.die slot).bdcfg < off + n then some (.physical 1)
    else admitBy (s.die slot).acc master off need pa slot 0
  | .hbm slot off => admitBy (s.die slot).acc master (0x10000000000 + off) need pa slot 0

/-- The tenant of an engine's accesses (R352). -/
def Engine.master (e : Engine) : BitVec 16 := e.aspace.extractLsb' 48 16
def Engine.asid (e : Engine) : BitVec 16 := e.aspace.extractLsb' 32 16
def Engine.homeBd (e : Engine) : Nat := fld e.aspace 24 8

/-- Where one piece of an access goes: its physical address after translation and judging, a miss, or a fault. -/
def State.resolve (s : State) (id : EngId) (e : Engine) (va : Addr) (n : Nat) (need : Rights) (kind : Nat) : Tr :=
  if isLocal va then s.localAccess id va n
  else match s.translate id.slot e.asid va need with
    | .pa a =>
      if s.slotGone (paSlot a) then .bad (.physical 1)
      else match s.judge id e.master a n need kind with
        | none => .pa a
        | some f => .bad f
    | r => r

/-! ## Code (R173, R308) -/

/-- The word of a stream at a word offset, read through the stream's own translation. A page not cached is walked at once:
the spec gives instruction fetch no timing (log 7). A poisoned word is not read (R372; its kind, a load's, log 67). -/
def State.codeWord (s : State) (id : EngId) (e : Engine) (pc : Nat) : Except MemFault Word32 :=
  let va := e.codeVa + BitVec.ofNat 80 (4 * pc)
  let got (a : Nat) : Except MemFault Word32 :=
    if s.poisoned a 4 then .error (.poisoned 1 (paSlot a)) else .ok (BitVec.ofNat 32 (natOf (s.bytes a 4)))
  match s.resolve id e va 4 rRead 0 with
  | .pa a => got a
  | .bad f => .error f
  | .miss =>
    match s.walk e.homeBd e.asid (va.toNat / 4096) with
    | .bad f => .error f
    | .page fr r l =>
      if !rightsOk rRead r then .error (.rights 1 (foundRights r) true l)
      else if s.slotGone (paSlot (fr * 4096)) then .error (.physical 1)
      else match s.judge id e.master (fr * 4096 + va.toNat % 4096) 4 rRead 0 with
        | some f => .error f
        | none => got (fr * 4096 + va.toNat % 4096)

/-- The words of a section header (R35). -/
structure Header where
  number : Nat
  length : Nat
  after : List Nat
  deriving DecidableEq, Repr

def headerOf (w0 w1 : Word32) : Header :=
  ⟨fld w0 2 14, fld w0 16 16, [fld w1 0 8, fld w1 8 8, fld w1 16 8, fld w1 24 8]⟩

def isHeader (w : Word32) : Bool := w.toNat % 4 == 3

/-- The section number after `h`: numbers whose bits 7:0 are zero are skipped (R35). -/
def nextSection (h : Nat) : Nat := if (h + 1) % 256 = 0 then h + 2 else h + 1

/-- The section of a stream that holds a word offset: its first instruction word and the word past it, found by passing
headers from the stream's start (R35). -/
def State.sectionAt (s : State) (id : EngId) (e : Engine) (pc : Nat) : Nat → Nat → Option (Nat × Nat)
  | 0, _ => none
  | fuel + 1, h =>
    match s.codeWord id e h with
    | .error _ => none
    | .ok w =>
      if !isHeader w then none
      else if h + 2 ≤ pc ∧ pc < h + 2 + fld w 16 16 then some (h + 2, h + 2 + fld w 16 16)
      else State.sectionAt s id e pc fuel (h + 2 + fld w 16 16)

/-- The words of the section the engine executes in: its current section, or in a handler the section that holds the
handler's code (R380, R381). -/
def State.bounds (s : State) (id : EngId) (e : Engine) : Nat × Nat :=
  if chkInh e.chksb ∧ ¬ (e.secStart ≤ e.pc.toNat ∧ e.pc.toNat < e.secEnd) then
    match s.sectionAt id e e.pc.toNat 16384 0 with
    | some b => b
    | none => (e.secStart, e.secEnd)
  else (e.secStart, e.secEnd)

end Sys2Proof.Machine
end

