-- ==== Sys2Proof/Machine/Scopes.lean ====
section
/-! DEFINITION. Agents and scope instances (05 R115, R125-R127), what orders an access behind another of its agent (R121), and what
has performed at a scope and not yet at its home (R116, R117; log 54). -/

namespace Sys2Proof.Machine

/-! ## Agents and scopes (R115, R125-R127) -/

/-- Whether an engine belongs to a cluster of an MD or VD. -/
def inCluster (id : EngId) : Bool := dieKind id.slot == some .md || dieKind id.slot == some .vd

/-- An agent (R115). -/
inductive Agent
  | eng (id : EngId)
  | lattice (slot : Nat)
  | host
  deriving DecidableEq, Repr

/-- The die of an agent; the host has none. -/
def Agent.slot? (a : Agent) : Option Nat :=
  match a with
  | .eng id => some id.slot
  | .lattice slot => some slot
  | .host => none

/-- Whether two agents of one die share a cluster instance: an MD's or VD's cluster, or the whole of another die (R125). -/
def sameCluster (a b : Agent) : Bool :=
  match a, b with
  | .eng x, .eng y => !inCluster x || x.cluster == y.cluster
  | _, _ => true

/-- Whether two agents belong to one instance of the scope of a code (R125). The model has one package, so pod adds no agent to
package; the host belongs to system only. -/
def sameInstance (k : Nat) (a b : Agent) : Bool :=
  a == b || match a.slot?, b.slot? with
    | some x, some y =>
      match k with
      | 0 => false
      | 1 => x == y && sameCluster a b
      | 2 => x == y
      | 3 => decide (x < 36) && decide (y < 36) && x / 9 == y / 9
      | _ => true
    | _, _ => decide (6 ≤ k)

/-- The common scope of two agents: the narrowest whose instance holds both (R126). -/
def commonScope (a b : Agent) : Nat := ((List.range 7).find? fun k => sameInstance k a b).getD 6

/-- Whether a release and an acquire of two agents synchronise (R127). -/
def synchronises (relScope acqScope : Nat) (a b : Agent) : Bool :=
  decide (commonScope a b ≤ relScope) && decide (commonScope a b ≤ acqScope)

/-! ## What holds an access back -/

/-- Two runs of bytes overlap. -/
def overlaps (a n b m : Nat) : Bool := decide (a < b + m) && decide (b < a + n)

/-- Whether two sets of pieces share a byte. -/
def sharesByte (xs ys : List (Nat × Nat)) : Bool := xs.any fun x => ys.any fun y => overlaps x.1 x.2 y.1 y.2

/-- The units of an access that have not performed, by their numbers. -/
def Access.left (a : Access) : List Nat := (List.range a.pas.length).filter fun k => !a.did.contains k

/-- The bytes of those units. -/
def Access.rest (a : Access) : List (Nat × Nat) := a.left.map fun k => a.pas.getD k (0, 0)

/-- Whether an earlier access of the engine, on the same path and in the same class, might touch a byte of these pieces
and has not performed (R121). An access not yet translated might touch any. -/
def State.mustFollow (s : State) (id : EngId) (path cls before : Nat) (pas : List (Nat × Nat)) : Bool :=
  s.accesses.any fun a => a.eng == id && a.path == path && a.cls == cls && decide (a.id < before)
    && (a.pas.isEmpty || pas.isEmpty || sharesByte a.rest pas)

/-! ## Performing at a scope (R116, log 54) -/

/-- What a plain write stores. -/
def Access.data (a : Access) : List Byte :=
  match a.op with
  | .store d => d
  | .vstore d => d
  | .scatter d => d.flatten
  | _ => []

/-- What unit `k` of a plain write stores. -/
def Access.unitData (a : Access) (k : Nat) : List Byte :=
  (a.data.drop ((a.pas.take k).map (·.2)).sum).take (a.pas.getD k (0, 0)).2

/-- A write in flight that may be seen before it performs waits for the earlier such writes to a byte of it: they are seen, and
perform, in issue order (R117). -/
def State.inTurn (s : State) (a : Access) : Bool :=
  a.early.isNone || !(s.accesses.any fun b => b.early.isSome && decide (b.id < a.id) && sharesByte b.rest a.rest)

/-- Whether a write in flight has performed at a scope as it stands now (R116). -/
def State.early (s : State) (a : Access) : Option Nat :=
  match a.early with
  | some (k, t) => if t ≤ s.ptick ∧ a.pas ≠ [] ∧ ¬ s.mustFollow a.eng a.path a.cls a.id a.rest ∧ s.inTurn a then some k else none
  | none => none

/-- Whether a write in flight has performed at a scope that holds an agent, so that the agent's reads see it (R116). -/
def State.seen (s : State) (a : Access) (g : Agent) : Bool :=
  match s.early a with
  | some k => sameInstance k (.eng a.eng) g
  | none => false

/-- Bytes from an address on, with those of a run at another address put over them. -/
def overlay (pa : Nat) (bs : List Byte) (q : Nat) (d : List Byte) : List Byte :=
  if pa < q + d.length ∧ q < pa + bs.length then
    (List.range bs.length).map fun i => if q ≤ pa + i ∧ pa + i < q + d.length then d.getD (pa + i - q) 0 else bs.getD i 0
  else bs

/-- What an agent reads: the bytes at their home, and over them the writes in flight that it sees, in issue order (R116, R117). -/
def State.view (s : State) (g : Agent) (pa n : Nat) : List Byte :=
  (s.accesses.filter fun a => s.seen a g).foldl (fun bs a =>
    a.left.foldl (fun bs k => overlay pa bs (a.pas.getD k (0, 0)).1 (a.unitData k)) bs) (s.bytes pa n)

/-- What an agent reads of each of some pieces. -/
def State.viewAll (s : State) (g : Agent) (pas : List (Nat × Nat)) : List (List Byte) := pas.map fun p => s.view g p.1 p.2

/-- Whether a write or atomic of an engine to these pieces waits for a write of another that it sees, and that comes before it in
coherence order (R117, R131). -/
def State.shadowed (s : State) (id : EngId) (before : Nat) (pas : List (Nat × Nat)) : Bool :=
  s.accesses.any fun a => a.eng != id && decide (a.id < before) && s.seen a (.eng id) && sharesByte a.rest pas

/-- Whether a write of the engine's own aperture waits (R117, R121). -/
def State.mustWait (s : State) (id : EngId) (path cls : Nat) (pas : List (Nat × Nat)) : Bool :=
  s.mustFollow id path cls s.nextId pas || s.shadowed id s.nextId pas

/-- Whether an access in flight has performed at a scope (R116). -/
def State.performedAt (s : State) (a : Access) (scope : Nat) : Bool :=
  match s.early a with
  | some k => decide (scope ≤ k)
  | none => false

/-- Whether an engine sees a write of another that has not performed at a scope: a release of the engine at that scope passes the
value on, and so waits for the write (R128, R130 case 2). -/
def State.passesOn (s : State) (id : EngId) (scope : Nat) : Bool :=
  s.accesses.any fun a => a.eng != id && s.seen a (.eng id) && !s.performedAt a scope

end Sys2Proof.Machine
end

