-- ==== Sys2Proof/Machine/Issue.lean ====
section
/-! DEFINITION. Issuing an instruction: the prelude every engine instruction shares, interlocks (02 R45), the checking
scoreboard (R46, 21 R391), the order of exceptions (R377), and moving past the instruction, with the ends of hardware
loops (07 R188, R189). -/

namespace Sys2Proof.Machine

/-- The outcomes of a step. -/
abbrev Out := Host.Outcome State Fault Refusal

/-! ## Held and blocked instructions -/

/-- The transfers of an engine that have not completed, on every channel. -/
def Engine.transfers (e : Engine) : List Transfer := e.chans[0].out ++ e.chans[1].out ++ e.chans[2].out ++ e.chans[3].out

/-- Whether an access, transfer or push of the engine that issues, by its number, has not yet performed (R116). -/
def State.inFlight (s : State) (id : Nat) : Bool :=
  s.accesses.any (fun a => a.id == id) || s.pushes.any (fun p => p.id == id) || s.pieces.any (fun p => p.id == id)
    || (s.eng s.cur).transfers.any fun t => t.uid == id

/-- An engine-cycle spent waiting for an interlock, a fence, an acquire or an accumulator (R45, R56). -/
def Engine.holdCycle (e : Engine) : Engine :=
  { e with nextIssue := e.nextIssue + 1, fbNow := { e.fbNow with waitOther := e.fbNow.waitOther + 1 } }

/-- The instruction does not issue in this cycle and is tried again in the next. -/
def holdOne (s : State) : State := s.updEng s.cur Engine.holdCycle

/-- The instruction blocks; an event lets it go on (R39, R40, R111, R245, R267). -/
def blockOn (s : State) (why : Block) : State :=
  s.updEng s.cur fun e => { e with status := .blocked why e.nextIssue }

/-- The instruction has issued and moved on, and retires when an event finds its condition (R111, R190, R263). -/
def Engine.parked (e : Engine) (why : Block) : Engine := { e with status := .blocked why e.nextIssue }

/-- Count blocked cycles by their kind (R56). -/
def countWait (f : FbEntry) (why : Block) (n : Nat) : FbEntry :=
  match why with
  | .header => { f with waitHeader := f.waitHeader + n }
  | .tile _ _ => { f with waitTile := f.waitTile + n }
  | .take _ => { f with waitWindow := f.waitWindow + n }
  | .takeEnds _ _ => { f with waitWindow := f.waitWindow + n }
  | _ => { f with waitOther := f.waitOther + n }

/-- A blocked engine goes on: its instruction is tried in the first cycle from tick `t` on. -/
def Engine.resume (e : Engine) (d : Domain) (t : Nat) : Engine :=
  match e.status with
  | .blocked why since =>
    let c := max (d.cycleFrom t) since
    { e with status := .running, nextIssue := c, fbNow := countWait e.fbNow why (c - since) }
  | _ => e

/-- Whether a fence holds the next issue: something that it orders first has not performed at the fence's scope (R185). -/
def State.fenced (s : State) (e : Engine) : Bool :=
  e.holds.any fun h => s.inFlight h.id && !(s.accesses.any fun a => a.id == h.id && s.performedAt a h.scope)

/-- The prelude of every engine instruction: there is such an engine, no fence holds the issue, and every result that
lands before the issue cycle has landed. `k` gets the engine as the instruction reads it, and the cycle. -/
def onEngine (s : State) (k : Engine → Nat → Out) : Out :=
  match s.cur.kind with
  | none => .refused .noSuchEngine
  | some _ =>
    let e := s.eng s.cur
    if s.fenced e then .next (holdOne s)
    else k ((e.replayAt e.nextIssue).settle e.nextIssue) e.nextIssue

/-! ## Interlocks and the scoreboard -/

/-- Whether a register read waits for a variable-latency result (R45). -/
def Engine.awaits (e : Engine) (ds : List Dest) : Bool :=
  ds.any fun d => d != .nil && e.inter.any fun p => p.1 == d

/-- The pending write of a register that a read at this cycle would miss (R46). -/
def Engine.sbRead (e : Engine) (ds : List Dest) : Option (Dest × Nat) :=
  ds.findSome? fun d => if d == .nil then none else (e.pend.find? fun p => p.wr.dest == d).map fun p => (d, p.land)

/-- The pending write of a register that would land after a new write to it landing at the end of cycle `land` (R46). -/
def Engine.sbWrite (e : Engine) (ws : List Landing) : Option (Dest × Nat) :=
  ws.findSome? fun w => (e.pend.find? fun p => p.wr.dest == w.wr.dest && w.wr.dest != .nil && decide (w.land < p.land)).map
    fun p => (w.wr.dest, p.land)

/-- The detail of a scoreboard violation (R391). -/
def sbDetail (depth c kind : Nat) (p : Dest × Nat) : Nat :=
  min (p.2 - c) 0xFFFF * 65536 + kind * 256 + p.1.code depth

/-- The scoreboard violation of an instruction at cycle `c`, when sbchk is set (R46, R391). -/
def Engine.scoreboard (e : Engine) (c : Nat) (reads : List Dest) (writes : List Landing) : Option (Nat × Nat) :=
  if e.strmcfg.getLsbD 0 then
    match e.sbRead reads, e.sbWrite writes with
    | some p, _ => some (0x0005, sbDetail e.depth c 1 p)
    | none, some p => some (0x0005, sbDetail e.depth c 2 p)
    | none, none => none
  else none

/-! ## Exceptions -/

/-- The detail of illegal instruction and illegal operand (R386): length bits, opcode, lowest bit of the field, reason. -/
def opDetail (len op bit reason : Nat) : Nat := len * 2 ^ 26 + op * 2 ^ 16 + bit * 2 ^ 8 + reason

/-- An illegal operand (R390). -/
def illOperand (len op bit reason : Nat) : Nat × Nat := (0x0002, opDetail len op bit reason)

/-- A check: the cause and detail when the condition holds. -/
def check (bad : Bool) (f : Nat × Nat) : Option (Nat × Nat) := if bad then some f else none

/-- The first cause that applies; the checks stand in the order of R377. -/
def firstFault (l : List (Option (Nat × Nat))) : Option (Nat × Nat) := l.findSome? id

/-- Raise an engine-level exception at the instruction (R376, R381, R383). -/
def raise (s : State) (e : Engine) (c : Nat) (f : Nat × Nat) : Out :=
  .next (takeException s s.cur e c f.1 f.2 e.pc)

/-- The common course of an instruction: wait for interlocked sources, raise the first exception that applies, the
scoreboard's after the instruction's own (R377), or go on. -/
def guarded (s : State) (e : Engine) (c : Nat) (reads : List Dest) (writes : List Landing)
    (faults : List (Option (Nat × Nat))) (k : Out) : Out :=
  if e.awaits reads then .next (holdOne s)
  else match firstFault (faults ++ [e.scoreboard c reads writes]) with
    | some f => raise s e c f
    | none => k

/-! ## Moving past an instruction -/

/-- Whether a loop counter's loop ends at the instruction at `pc` (R188). -/
def Engine.endsHere (e : Engine) (pc : BitVec 32) (i : Fin 4) : Bool :=
  e.lc[i].active && e.lc[i].last == pc && e.lc[i].depth == e.depth

/-- The innermost loop that ends at `pc`: the one whose body begins last (R188). -/
def Engine.innermost (e : Engine) (pc : BitVec 32) : Option (Fin 4) :=
  ([0, 1, 2, 3] : List (Fin 4)).foldl (fun best i =>
    if e.endsHere pc i then
      match best with
      | none => some i
      | some j => if e.lc[j].first.toNat < e.lc[i].first.toNat then some i else some j
    else best) none

/-- Process the loops that end at `pc`, innermost first; the answer is where execution goes, if not on (R188). -/
def Engine.loopEnds (e : Engine) (pc : BitVec 32) : Nat → Engine × Option (BitVec 32)
  | 0 => (e, none)
  | n + 1 =>
    match e.innermost pc with
    | none => (e, none)
    | some i =>
      if 1 < e.lc[i].count.toNat then
        ({ e with lc := e.lc.set i { e.lc[i] with count := e.lc[i].count - 1 } }, some e.lc[i].first)
      else Engine.loopEnds { e with lc := e.lc.set i { e.lc[i] with count := 0, active := false } } pc n

/-- Whether the instruction at pc stands at the end of an active loop of this depth (R390 reason 0x07). -/
def Engine.atLoopEnd (e : Engine) : Bool := (e.innermost e.pc).isSome

/-- The issue of an instruction: cycles counted busy, and the cycle of the next (R43, R56). -/
def Engine.issued (e : Engine) (c stall more : Nat) : Engine :=
  { e with
    status := .running
    entering := false
    holds := []
    nextIssue := c + 1 + stall + more
    fbNow := { e.fbNow with busy := e.fbNow.busy + 1 + stall + more } }

/-- Go on to the next instruction, or to the head of a loop that ends here (R173, R188). A `mov` to the loop's own counter at `last`
lands after this decrement, over it; DEDUCED (log 73). -/
def Engine.advance (e : Engine) (c words stall : Nat) : Engine :=
  let (e', goal) := e.loopEnds e.pc 4
  { e'.issued c stall 0 with pc := match goal with | some p => p | none => e.pc + BitVec.ofNat 32 words }

/-- A taken b or jr: loops entered at this depth whose body does not hold the target end, keeping their counts (R189). -/
def Engine.leaveLoops (e : Engine) (target : BitVec 32) : Engine :=
  { e with lc := e.lc.map fun l =>
      if l.active ∧ l.depth = e.depth ∧ ¬ (l.first.toNat ≤ target.toNat ∧ target.toNat ≤ l.last.toNat)
      then { l with active := false } else l }

/-- A transfer of control to a word offset (R186). -/
def Engine.goTo (e : Engine) (target : BitVec 32) (c stall more : Nat) : Engine :=
  { e.issued c stall more with pc := target }

/-- Add fixed-latency results (R43): a result of latency λ lands at the end of cycle c + λ − 1. -/
def Engine.land (e : Engine) (ws : List Landing) : Engine := { e with pend := e.pend ++ ws }

/-- The landing of one result. -/
def landing (c lat : Nat) (w : Option Write) : List Landing :=
  match w with
  | some w => [⟨w, c + lat - 1⟩]
  | none => []

/-- The instruction issues: its results are on their way and the engine moves on. -/
def finish (s : State) (e : Engine) (c words stall : Nat) (ws : List Landing) : Out :=
  .next (s.setEng s.cur ((e.land ws).advance c words stall))

/-- An instruction that computes one register from registers: sources `reads` (codes), destination code `d`, latency, and
value (07 R176-R182, R185). -/
def regOp (s : State) (words stall lat : Nat) (reads : List Nat) (d : Nat) (value : Engine → Addr)
    (faults : Engine → List (Option (Nat × Nat)) := fun _ => []) : Out :=
  onEngine s fun e c =>
    let ws := landing c lat (e.writeTo d (value e))
    guarded s e c (reads.map e.destOf) ws (faults e) (finish s e c words stall ws)

end Sys2Proof.Machine
end

