-- ==== Sys2Proof/Machine/Access.lean ====
section
/-! DEFINITION. Accesses on their way: how one leaves its engine (05 R115-R122), what holds it back, the faults of a team
(22 R399-R403), and the walks of missing translations (04 R102). An access in the engine's own aperture performs in its
issue cycle; any other waits in `State.accesses` (log 7). -/

namespace Sys2Proof.Machine

/-- Paths (R119). -/
def pathS : Nat := 0
def pathV : Nat := 1
def pathM : Nat := 2
def pathC : Nat := 3
def pathG : Nat := 4
def pathK : Nat := 5

/-! ## Faults of accesses -/

/-- The cause of a memory fault (R367, R399, R445). -/
def MemFault.cause : MemFault → Nat
  | .translation _ _ _ => 0x0101
  | .rights _ _ _ _ => 0x0102
  | .physical _ => 0x0103
  | .misaligned _ => 0x0104
  | .window _ _ => 0x0105
  | .denied _ _ _ _ _ _ _ => 0x030A
  | .poisoned _ _ => 0x0106

/-- The detail of a memory fault (R403, R445). -/
def MemFault.detail : MemFault → Nat
  | .translation r l a => r + l * 2 ^ 8 + a * 2 ^ 16
  | .rights n f p i => n + f * 2 ^ 3 + (if p then 2 ^ 7 else 0) + i * 2 ^ 8
  | .physical r => r
  | .misaligned l => l
  | .window w k => w + k * 2 ^ 6
  | .poisoned k sl => k + sl * 2 ^ 8
  | .denied n f h _ sl cl m => n + f * 2 ^ 3 + (if h then 2 ^ 7 else 0) + sl * 2 ^ 8 + cl * 2 ^ 16 + m * 2 ^ 32

/-- The fault event of an access at an address (R402, R403, R445). -/
def memFaultEv (s : State) (id : EngId) (pc : BitVec 32) (va : Addr) (f : MemFault) : FaultEv :=
  let base := faultAt s id f.cause f.detail pc
  match f with
  | .denied _ _ _ pa _ _ _ => { base with addr := BitVec.ofNat 80 pa, addrValid := true, addrPhys := true }
  | .poisoned _ _ => base
  | _ => { base with addr := va, addrValid := true }

/-- An access faults after its instruction has issued: the engine goes no further and its team stops at this tick (R400). -/
def accessFault (s : State) (e : Engine) (va : Addr) (f : MemFault) : State :=
  (s.setEng s.cur { e with status := .stopped }).fault (memFaultEv s s.cur e.pc va f)

/-- A poisoned read (R372, R403): `kind` is the kind of R403's detail. -/
def poisonFault (s : State) (e : Engine) (kind slot : Nat) : State :=
  (s.setEng s.cur { e with status := .stopped }).fault (faultAt s s.cur 0x0106 (kind + slot * 256) e.pc)

/-! ## What holds an access back -/

/-- Whether an acquire of the engine has not performed, so that no later access may (R129). -/
def State.acquiring (s : State) (e : Engine) : Bool := e.acqs.any fun i => s.inFlight i

/-- Outstanding transfers of an engine (R245). -/
def Engine.hasTransfers (e : Engine) : Bool :=
  !(e.chans[0].out.isEmpty && e.chans[1].out.isEmpty && e.chans[2].out.isEmpty && e.chans[3].out.isEmpty)

/-- The cycle after the last selected write to the engine's own scratchpad has performed (R362). -/
def Engine.storesDone (e : Engine) (sel : Nat → Nat → Bool) : Nat :=
  e.stores.foldl (fun m p => if sel p.1 p.2.1 then max m (p.2.2 + 1) else m) 0

/-- The cycle of a domain in the current tick. -/
def State.cycleNow (s : State) (cl : Nat) : Nat := (s.dom cl).cycleOf s.ptick

/-- Whether every access, push and transfer of an engine with a number below `n` has performed at a scope, but for those listed. -/
def State.earlierDone (s : State) (id : EngId) (n : Nat) (but : List Nat) (scope : Nat) : Bool :=
  !(s.accesses.any fun a => a.eng == id && decide (a.id < n) && !but.contains a.id && !s.performedAt a scope)
    && !(s.pushes.any fun p => p.eng == id && decide (p.id < n)) && !(s.pieces.any fun p => p.eng == id && decide (p.id < n))
    && !((s.eng id).transfers.any fun t => decide (t.uid < n) && !but.contains t.uid)

/-- Whether everything an engine did before number `n`, and every write of another that it has seen, has performed at a scope, so
that a release at that scope may perform (R128, R130). -/
def State.releasable (s : State) (id : EngId) (n : Nat) (but : List Nat) (scope : Nat) : Bool :=
  s.earlierDone id n but scope && !s.passesOn id scope && decide ((s.eng id).storesDone (fun _ _ => true) ≤ s.cycleNow id.cl)

/-- A store of own = 1 to a transfer record is a release that the channel's read of the record waits for: what its engine issued
before and has not performed is remembered with the record (R113, R132). -/
def State.noteOwn (s : State) (id : EngId) (n pa : Nat) (data : List Byte) : State :=
  let hits := (((List.range (data.length / 64 + 2)).map fun k => (pa / 64 + k) * 64).filter fun b =>
    decide (pa ≤ b + 10) && decide (b + 10 < pa + data.length) && (data.getD (b + 10 - pa) 0).getLsbD 0)
  if hits.isEmpty ∨ (s.earlierDone id n [] 6 ∧ ¬ s.owns.any fun o => hits.contains o.pa) then s
  else { s with owns := s.owns.filter (fun o => !hits.contains o.pa) ++ (if s.earlierDone id n [] 6 then [] else hits.map fun b => ⟨b, id, n⟩) }

/-! ## Latency (R453) -/

/-- A bounded free latency of at least one tick: a leg of an access's way, of which there are at most three (R453; log 7). -/
def State.lat (s : State) : Nat × State :=
  let (k, s) := s.draw
  (1 + Config.latency k % 3999999, s)

/-- The tick at which a leg that starts now ends, no later than a bound (R453). -/
def State.legEnd (s : State) (by_ : Nat) : Nat × State :=
  let (l, s) := s.lat
  (max (s.ptick + 1) (min (s.ptick + l) by_), s)

/-- Ticks after an access leaves its engine by which its walks have ended, its units have performed, and its reply arrives
(R453). -/
def walkBound : Nat := 6000000
def homeBound : Nat := 8000000
def replyBound : Nat := 11999999

/-- Whether an ordered floating add of the engine, issued before number `n`, has not performed: they act in issue order (R25,
R143). -/
def State.addsBefore (s : State) (id : EngId) (n : Nat) (op : AccOp) : Bool :=
  let adds (op : AccOp) : Bool := match op with | .atomic q _ => q.op == .fadd && q.ordered | _ => false
  adds op && s.accesses.any fun a => a.eng == id && decide (a.id < n) && adds a.op

/-! ## Walks (R100, R102) -/

/-- Pages of the pieces of an access. -/
def pagesOf (vas : List (Addr × Nat)) : List Nat :=
  vas.flatMap fun p => [p.1.toNat / 4096, (p.1.toNat + (p.2 - 1)) / 4096]

/-- Cut a run of bytes at page boundaries; an address of the local aperture has no pages (R100). -/
def cutPages (va : Addr) : Nat → Nat → List (Addr × Nat)
  | 0, n => [(va, n)]
  | fuel + 1, n =>
    let room := 4096 - va.toNat % 4096
    if isLocal va ∨ n ≤ room then [(va, n)] else (va, room) :: cutPages (va + BitVec.ofNat 80 room) fuel (n - room)

/-- Ask for the walk of a page, over by a tick; misses to one page share a walk. None when all 256 are in use (R102). -/
def State.askWalk (s : State) (slot : Nat) (asid : BitVec 16) (homeBd page by_ : Nat) : Option State :=
  let d := s.die slot
  if d.walks.any fun w => w.asid == asid && w.page == page then some s
  else if 256 ≤ d.walks.length then none
  else
    let (t, s) := s.legEnd by_
    some (s.setDie slot { d with walks := d.walks ++ [⟨asid, page, homeBd, t⟩] })

/-! ## Leaving the engine -/

/-- What an access is, before it is numbered and translated. -/
structure AccSpec where
  path : Nat
  cls : Nat
  scope : Nat := 0
  acq : Bool := false
  rel : Bool := false
  vas : List (Addr × Nat)
  need : Rights
  kind : Nat := 0
  align : Nat := 1
  home : Option Nat := none
  op : AccOp
  dst : Dest := .nil

/-- Translate every piece, in order: physical pieces, or the page that misses, or the first fault with its address. -/
def State.resolveAll (s : State) (id : EngId) (e : Engine) (need : Rights) (kind : Nat) :
    List (Addr × Nat) → Except (Addr × MemFault) (List (Nat × Nat) × Option Nat)
  | [] => .ok ([], none)
  | (va, n) :: rest =>
    match s.resolve id e va n need kind with
    | .bad f => .error (va, f)
    | .miss => .ok ([], some (va.toNat / 4096))
    | .pa a =>
      match State.resolveAll s id e need kind rest with
      | .ok (ps, none) => .ok ((a, n) :: ps, none)
      | r => r

/-- log2 of an alignment. -/
def log2of (n : Nat) : Nat := n.log2

/-- The first piece that is not aligned (R183, R399). -/
def misalignedAt (align : Nat) (vas : List (Addr × Nat)) : Option Addr :=
  (vas.find? fun p => p.1.toNat % align != 0).map (·.1)

/-- The request of an atomic or reduction whose home is another die, which goes to the merge buffer of its own (R24, R272). -/
def mergesTo (slot : Nat) (op : AccOp) (pas : List (Nat × Nat)) : Option (Nat × AReq) :=
  match op, pas with
  | .atomic q _, [(pa, _)] => if paSlot pa = slot then none else some (pa, q)
  | _, _ => none

/-- Whether an access acts on each 8-byte unit of its bytes independently (R135). -/
def AccOp.divisible (op : AccOp) : Bool :=
  match op with
  | .load _ _ _ | .store _ | .vload _ _ _ | .vstore _ | .gather _ _ | .scatter _ => true
  | _ => false

/-- Cut a run of bytes at multiples of 8 (R135). -/
def cutUnits (pa : Nat) : Nat → Nat → List (Nat × Nat)
  | 0, _ => []
  | k + 1, n =>
    let room := 8 - pa % 8
    if n = 0 then [] else if n ≤ room then [(pa, n)] else (pa, room) :: cutUnits (pa + room) k (n - room)

/-- The units of an access whose pieces are translated (R135). -/
def AccOp.units (op : AccOp) (pas : List (Nat × Nat)) : List (Nat × Nat) :=
  if op.divisible then pas.flatMap fun p => cutUnits p.1 (p.2 / 8 + 2) p.2 else pas

/-- The scope at which a plain write performs before it does at its home, and from which tick on: a free choice (R116, log 54). -/
def earlyOf (op : AccOp) (k now due : Nat) : Option (Nat × Nat) :=
  match op with
  | .store _ | .vstore _ | .scatter _ =>
    let c := Config.pick k 0 % 6
    if c < 5 then some (c, now + Config.pick k 1 % (due + 1 - now)) else none
  | _ => none

/-- Put an access on its way (R116, R453): number it, and let its reply be awaited by its destination (R45). -/
def State.launchAccess (s : State) (e : Engine) (a : AccSpec) (pas : List (Nat × Nat)) : State × Nat × Engine :=
  let k := s.fresh
  let (l, s) := s.lat
  let (n, s) := s.newId
  let acc : Access :=
    { id := n, eng := s.cur, seq := e.seq, team := e.team, incarn := (s.die s.cur.slot).incarn, pc := e.pc,
      path := a.path, cls := a.cls, scope := a.scope, acq := a.acq, rel := a.rel, vas := a.vas, pas := a.op.units pas,
      need := a.need, op := a.op, born := s.ptick, due := s.ptick + l, early := earlyOf a.op k s.ptick (s.ptick + l),
      did := [], got := [], merged := (mergesTo s.cur.slot a.op pas).isSome }
  let e := { e with
    inter := if a.dst = .nil then e.inter else e.inter ++ [(a.dst, n)]
    acqs := if a.acq then e.acqs.filter (fun i => s.inFlight i) ++ [n] else e.acqs }
  ({ s with accesses := s.accesses ++ [acc] }, n, e)

/-- Whether a home holds ordered partials: BD SRAM or HBM4E (R143). -/
def holdsPartials (pa : Nat) : Bool :=
  match placeOf pa with
  | .bdSram _ _ => true
  | .hbm _ _ => true
  | _ => false

/-- An ordered floating reduction whose home cannot keep an epoch: illegal operand reason 0x0A, raised at team level after
translation (R143, R376, R390). -/
def homeFault (s : State) (e : Engine) (detail : Nat) : State :=
  (s.setEng s.cur { e with status := .stopped }).fault (faultAt s s.cur 0x0002 detail e.pc)

/-! ## Merge buffers (R24-R26) -/

/-- The pairs of operation and type that combine (R25), and R24's exclusion of floating fetches. -/
def combinable (q : AReq) : Bool :=
  match q.op with
  | .add | .min | .max | .and | .or | .xor => true
  | .fadd => !q.ordered && !q.fetch
  | _ => false

/-- Bytes of an element type (R269). -/
def typeBytes (t : BitVec 3) : Nat := match t.toNat with | 0 => 1 | 1 => 2 | 2 => 4 | 3 => 8 | 4 => 4 | _ => 2

/-- Whether an open entry holds the bytes of an element. -/
def MergeEntry.meets (m : MergeEntry) (pa : Nat) (q : AReq) : Bool := overlaps m.pa (typeBytes m.req.ty) pa (typeBytes q.ty)

/-- The constituents' accesses. -/
def MergeEntry.ids (m : MergeEntry) : List Nat := m.parts.map (·.acc)

/-- Whether a request of access `n` may join an open entry (R24). An entry behind which the engine has another operation of its own
on the element to perform takes no more of it (R121). -/
def State.mayJoin (s : State) (id : EngId) (n : Nat) (m : MergeEntry) (pa : Nat) (q : AReq) : Bool :=
  m.pa == pa && m.req.op == q.op && m.req.ty == q.ty && m.req.ordered == q.ordered && m.req.uns == q.uns
    && combinable m.req && combinable q && decide (m.parts.length < 64) && m.sealedBy.isEmpty
    && !(s.accesses.any fun a => a.eng == id && a.path == pathK && decide (a.id < n) && !a.merged
        && (a.pas.isEmpty || sharesByte a.rest [(pa, typeBytes q.ty)]))

/-- Put a constituent behind those that entered in an earlier tick, among those of its own tick by ENGID (R26). -/
def insertPart (x : MergePart) : List MergePart → List MergePart
  | [] => [x]
  | y :: ys => if x.tick = y.tick ∧ x.eng.key < y.eng.key then x :: y :: ys else y :: insertPart x ys

/-- When an entry was opened: the tick and the ENGID of its first constituent (R26). -/
def MergeEntry.opened (m : MergeEntry) : Nat × Nat :=
  match m.parts with
  | p :: _ => (p.tick, p.eng.key)
  | [] => (0, 0)

/-- Whether an entry comes before another in the buffer's issue order (R26). -/
def MergeEntry.before (m x : MergeEntry) : Bool :=
  decide (m.opened.1 < x.opened.1) || m.opened.1 == x.opened.1 &&
    (decide (m.opened.2 < x.opened.2) || m.opened.2 == x.opened.2 && decide (m.id < x.id))

/-- Put a new entry in its place (R26). -/
def insertEntry (x : MergeEntry) : List MergeEntry → List MergeEntry
  | [] => [x]
  | y :: ys => if x.before y then x :: y :: ys else y :: insertEntry x ys

/-- A request for another die enters its die's merge buffer: it joins the entry next to it in the issue order of its element, or
opens one; the event that sends entries sends the oldest first when the buffer is over-full (R24, R26, R140). -/
def State.enterMerge (s : State) (id : EngId) (n pa : Nat) (q : AReq) : State :=
  let d := s.die id.slot
  let part : MergePart := ⟨n, id, q.opnd, s.ptick⟩
  let new : MergeEntry := ⟨s.nextId, pa, q, [part], s.ptick, []⟩
  let joins (y : Option MergeEntry) : Option MergeEntry := y.filter fun y => s.mayJoin id n y pa q
  let near := d.merge.filter fun m => m.meets pa q
  match (joins (near.filter fun m => m.before new).getLast?).or (joins (near.find? fun m => !m.before new)) with
  | some y =>
    s.setDie id.slot { d with merge := d.merge.map fun m =>
      if m.id = y.id then { m with parts := insertPart part m.parts, req := { m.req with fetch := m.req.fetch || q.fetch }, last := s.ptick }
      else m }
  | none => { s with nextId := s.nextId + 1 }.setDie id.slot { d with merge := insertEntry new d.merge }

/-- A release, fence or notify of an engine is ordered behind its operations in open entries: those accept no more and are
sent (R24, R26). -/
def State.sealMerge (s : State) (id : EngId) : State :=
  let mark (m : MergeEntry) : MergeEntry :=
    if m.parts.any (fun p => p.eng == id) then { m with sealedBy := m.sealedBy ++ [id] } else m
  s.updDie id.slot fun d => { d with merge := d.merge.map mark }

/-- Whether a request for a merge buffer waits to enter it: an earlier one of its engine, in its class or an ordered floating add as
it is, has not been translated (R25, R121). -/
def State.behind (s : State) (id : EngId) (cls n : Nat) (op : AccOp) : Bool :=
  match op with
  | .atomic q _ => s.accesses.any fun a => a.eng == id && a.path == pathK && decide (a.id < n) && a.pas.isEmpty
      && (a.cls == cls || (match a.op with | .atomic r _ => r.op == .fadd && r.ordered && q.op == .fadd && q.ordered | _ => false))
  | _ => false

/-- A retranslated access goes to the merge buffer, or straight on (R272). -/
def State.route (s : State) (a : Access) : State :=
  match mergesTo a.eng.slot a.op a.pas with
  | none => s
  | some (pa, q) =>
    ({ s with accesses := s.accesses.map fun (x : Access) => if x.id = a.id then { x with merged := true } else x }).enterMerge a.eng a.id pa q

/-- Issue an access that is not of fixed latency: misaligned and refused addresses fault the team after the issue, a miss
asks for its walk and waits for a free one (R102), and anything else goes on its way. `e` is the engine as read; `words`
and `stall` move it past the instruction. -/
def sendAccess (s : State) (e : Engine) (c words stall : Nat) (a : AccSpec) : Out :=
  if s.acquiring e then .next (holdOne s)
  else match misalignedAt a.align a.vas with
    | some va => .next (accessFault s e va (.misaligned (log2of a.align)))
    | none =>
      match s.resolveAll s.cur e a.need a.kind a.vas with
      | .error (va, f) => .next (accessFault s e va f)
      | .ok (pas, none) =>
        if a.home.isSome && !pas.all (fun p => holdsPartials p.1) then .next (homeFault s e (a.home.getD 0))
        else
          let s := if a.rel then s.sealMerge s.cur else s
          let pas := if (mergesTo s.cur.slot a.op pas).isSome && s.behind s.cur a.cls s.nextId a.op then [] else pas
          let (s, n, e) := s.launchAccess e a pas
          let s := match mergesTo s.cur.slot a.op pas with
            | some (pa, q) => s.enterMerge s.cur n pa q
            | none => s
          .next (s.setEng s.cur (e.advance c words stall))
      | .ok (_, some page) =>
        match s.askWalk s.cur.slot e.asid e.homeBd page (s.ptick + walkBound) with
        | none => .next (holdOne s)
        | some s =>
          let (s, _, e) := (if a.rel then s.sealMerge s.cur else s).launchAccess e a []
          .next (s.setEng s.cur (e.advance c words stall))

/-- Whether an address is in the own aperture and its bytes can be reached: the physical address (R91). -/
def State.ownAperture (s : State) (id : EngId) (va : Addr) (n : Nat) : Option Nat :=
  if isLocal va then match s.localAccess id va n with | .pa a => some a | _ => none
  else none

end Sys2Proof.Machine
end

