-- ==== Sys2Proof/Machine/ScalarMem.lean ====
section
/-! DEFINITION. Scalar loads and stores (07 R183, R184): a load of the own aperture has the fixed latency 6, any other is
variable and interlocked; a store of the own aperture performs in its issue cycle. -/

namespace Sys2Proof.Machine

/-- The value a load writes: the bytes zero-extended, sign-extended under `.sx`, or bits 79:0 of 16 bytes (R183). -/
def loadValue (size : Nat) (sx : Bool) (bs : List Byte) : Addr :=
  if size = 16 then BitVec.ofNat 80 (natOf bs)
  else if sx then zext80 ((BitVec.ofNat 64 (natOf bs) <<< (64 - 8 * size)).sshiftRight (64 - 8 * size))
  else BitVec.ofNat 80 (natOf bs)

/-- The bytes a store writes (R183). -/
def storeBytes (size : Nat) (v : Addr) : List Byte := bytesOf size v.toNat

/-- A scalar load of `size` bytes at [a + b + imm] into d (R183, R184). -/
def loadOp (s : State) (words stall size : Nat) (sx : Bool) (d a b : Nat) (imm : Int) (cls : Nat) : Out :=
  onEngine s fun e c =>
    let va := e.ea a b imm
    let reads := [e.destOf a, e.destOf b]
    if e.awaits reads then .next (holdOne s)
    else if isLocal va then
      match misalignedAt size [(va, size)], s.ownAperture s.cur va size with
      | none, some pa =>
        let ws := landing c 6 (e.writeTo d (loadValue size sx (s.view (.eng s.cur) pa size)))
        guarded s e c reads ws [] <|
          if s.acquiring e ∨ s.mustFollow s.cur pathS cls s.nextId [(pa, size)] then .next (holdOne s)
          else if s.poisoned pa size then .next (poisonFault s e 1 s.cur.slot)
          else finish s e c words stall ws
      | _, _ => guarded s e c reads [] [] <|
          sendAccess s e c words stall
            { path := pathS, cls := cls, vas := [(va, size)], need := rRead, align := size, op := .load size sx (e.destOf d) }
    else
      guarded s e c reads [] [] <|
        sendAccess s e c words stall
          { path := pathS, cls := cls, vas := [(va, size)], need := rRead, align := size,
            op := .load size sx (e.destOf d), dst := e.destOf d }

/-- A scalar store of `size` bytes of d at [a + b + imm] (R183, R184). -/
def storeOp (s : State) (words stall size : Nat) (d a b : Nat) (imm : Int) (cls : Nat) : Out :=
  onEngine s fun e c =>
    let va := e.ea a b imm
    let data := storeBytes size (if size = 16 then e.val80 d else zext80 (e.val d))
    guarded s e c [e.destOf a, e.destOf b, e.destOf d] [] [] <|
      match isLocal va, misalignedAt size [(va, size)], s.ownAperture s.cur va size with
      | true, none, some pa =>
        if s.acquiring e ∨ s.mustWait s.cur pathS cls [(pa, size)] then .next (holdOne s)
        else finish ((s.noteOwn s.cur s.nextId pa data).store pa data) e c words stall []
      | _, _, _ =>
        sendAccess s e c words stall
          { path := pathS, cls := cls, vas := [(va, size)], need := rWrite, align := size, op := .store data }

/-- A 32-bit load: class 0, no offset (R183). -/
def ldx (size : Nat) (f : L32) (s : State) : Out :=
  loadOp s 1 f.stall.toNat size f.suffix f.d.toNat f.a.toNat f.b.toNat 0 0

/-- A 32-bit store (R183). -/
def stx (size : Nat) (f : L32) (s : State) : Out :=
  storeOp s 1 f.stall.toNat size f.d.toNat f.a.toNat f.b.toNat 0 0

/-- A 64-bit load (R183). -/
def ld (size : Nat) (f : LG) (s : State) : Out :=
  loadOp s f.imm.words f.stall.toNat size f.suffix f.d.toNat f.a.toNat f.b.toNat f.imm.val f.cls.toNat

/-- A 64-bit store (R183). -/
def st (size : Nat) (f : LG) (s : State) : Out :=
  storeOp s f.imm.words f.stall.toNat size f.d.toNat f.a.toNat f.b.toNat f.imm.val f.cls.toNat

/-- ldx.b (R183). -/
def execLdxB (f : L32) (s : State) : Out := ldx 1 f s
/-- ldx.h (R183). -/
def execLdxH (f : L32) (s : State) : Out := ldx 2 f s
/-- ldx.w (R183). -/
def execLdxW (f : L32) (s : State) : Out := ldx 4 f s
/-- ldx.d (R183). -/
def execLdxD (f : L32) (s : State) : Out := ldx 8 f s
/-- stx.b (R183). -/
def execStxB (f : L32) (s : State) : Out := stx 1 f s
/-- stx.h (R183). -/
def execStxH (f : L32) (s : State) : Out := stx 2 f s
/-- stx.w (R183). -/
def execStxW (f : L32) (s : State) : Out := stx 4 f s
/-- stx.d (R183). -/
def execStxD (f : L32) (s : State) : Out := stx 8 f s
/-- ld.b (R183). -/
def execLdB (f : LG) (s : State) : Out := ld 1 f s
/-- ld.h (R183). -/
def execLdH (f : LG) (s : State) : Out := ld 2 f s
/-- ld.w (R183). -/
def execLdW (f : LG) (s : State) : Out := ld 4 f s
/-- ld.d (R183). -/
def execLdD (f : LG) (s : State) : Out := ld 8 f s
/-- ld.a: an 80-bit address in 16 bytes (R183). -/
def execLdA (f : LG) (s : State) : Out := ld 16 f s
/-- st.b (R183). -/
def execStB (f : LG) (s : State) : Out := st 1 f s
/-- st.h (R183). -/
def execStH (f : LG) (s : State) : Out := st 2 f s
/-- st.w (R183). -/
def execStW (f : LG) (s : State) : Out := st 4 f s
/-- st.d (R183). -/
def execStD (f : LG) (s : State) : Out := st 8 f s
/-- st.a: 80 bits zero-extended to 16 bytes (R183). -/
def execStA (f : LG) (s : State) : Out := st 16 f s

end Sys2Proof.Machine
end

