-- ==== Sys2Proof/Machine/Control.lean ====
section
/-! DEFINITION. Branches, calls, returns, hardware loops and hints (07 R186-R189, R198, 06 R166). -/

namespace Sys2Proof.Machine

/-- An illegal operand of a control instruction: reason 0x07 of R390 at a field. -/
def ctlFault (len op bit : Nat) : Nat × Nat := illOperand len op bit 7

/-- Whether a target lies in the section the engine executes in (R186, R390). -/
def State.inSection (s : State) (id : EngId) (e : Engine) (t : BitVec 32) : Bool :=
  decide ((s.bounds id e).1 ≤ t.toNat) && decide (t.toNat < (s.bounds id e).2)

/-- The faults of a transfer of control: a target outside the section, and standing at an active loop's end (R390). -/
def ctlFaults (s : State) (e : Engine) (go : Bool) (t : BitVec 32) (len op bit : Nat) : List (Option (Nat × Nat)) :=
  [check (go && !s.inSection s.cur e t) (ctlFault len op bit), check e.atLoopEnd (ctlFault len op 0xFF)]

/-- PC + off (R173). -/
def branchTarget (e : Engine) (f : LB) : BitVec 32 := e.pc + BitVec.ofInt 32 f.off.toInt

/-- The condition register a branch or call reads (R154). -/
def cndRead (f : LB) : List Dest := if f.kind = 0 then [] else [.c (idx8 f.cnd.toNat)]

/-- b: a taken branch leaves the loops whose body does not hold its target (R186, R189). -/
def execB (f : LB) (s : State) : Out :=
  onEngine s fun e c =>
    let t := branchTarget e f
    let go := taken e f
    guarded s e c (cndRead f) [] (ctlFaults s e go t 1 0x050 44) <|
      .next (s.setEng s.cur (if go then (e.leaveLoops t).goTo t c f.stall.toNat 0 else e.advance c 2 f.stall.toNat))

/-- jr: PC := bits 31:0 of val(a) (R186). -/
def execJr (f : L32) (s : State) : Out :=
  onEngine s fun e c =>
    let t := (e.val f.a.toNat).extractLsb' 0 32
    guarded s e c [e.destOf f.a.toNat] [] (ctlFaults s e true t 0 0x30 19) <|
      .next (s.setEng s.cur ((e.leaveLoops t).goTo t c f.stall.toNat 0))

/-- The physical register of the caller's s23, the return offset (R187). -/
def returnReg (e : Engine) : Nat := winIndex e.depth 23

/-- A call spills the registers that belong only to the oldest resident window; it waits for their pending writes (R51). -/
def Engine.spillWaits (e : Engine) : Bool :=
  decide (8 ≤ e.resident) &&
    let own (d : Dest) : Bool := match d with
      | .win k => decide (16 * (e.depth + 1 - e.resident) ≤ k) && decide (k < 16 * (e.depth + 1 - e.resident) + 16)
      | _ => false
    e.inter.any (fun p => own p.1) || e.pend.any fun p => own p.wr.dest

/-- Enter a routine at `t`: s23 receives the return offset and the window advances (R187, R51). -/
def Engine.enter (e : Engine) (t : BitVec 32) (c words stall : Nat) : Engine :=
  let ret := zext80 (BitVec.ofNat 64 (e.pc + BitVec.ofNat 32 words).toNat)
  let e' := e.land [⟨.win (returnReg e) (ret.extractLsb' 0 64), c⟩]
  { e'.pushWindow.goTo t c stall e.spillCost with entering := true }

/-- The faults of a call: its target, a loop's end, and the depth limit (R390, R396). -/
def callFaults (s : State) (e : Engine) (go : Bool) (t : BitVec 32) (len op bit : Nat) : List (Option (Nat × Nat)) :=
  ctlFaults s e go t len op bit ++
    [check (go && decide (s.maxDepth s.cur < e.depth + 1)) (0x000B, e.depth % 65536 * 65536 + 1)]

/-- A call to `t` by an instruction of `words` words. -/
def callOp (s : State) (e : Engine) (c : Nat) (reads : List Dest) (go : Bool) (t : BitVec 32) (len op bit words stall : Nat) : Out :=
  guarded s e c reads (if go then [⟨.win (returnReg e) 0, c⟩] else []) (callFaults s e go t len op bit) <|
    if !go then finish s e c words stall []
    else if e.spillWaits then .next (holdOne s)
    else .next (s.setEng s.cur (e.enter t c words stall))

/-- call (R187). -/
def execCall (f : LB) (s : State) : Out :=
  onEngine s fun e c => callOp s e c (cndRead f) (taken e f) (branchTarget e f) 1 0x051 44 2 f.stall.toNat

/-- callr: the target is read before the window moves (R187). -/
def execCallr (f : L32) (s : State) : Out :=
  onEngine s fun e c =>
    callOp s e c [e.destOf f.a.toNat] true ((e.val f.a.toNat).extractLsb' 0 32) 0 0x31 19 1 f.stall.toNat

/-- Every loop entered at this depth ends (R189). -/
def Engine.endLoops (e : Engine) : Engine :=
  { e with lc := e.lc.map fun l => if l.active ∧ l.depth = e.depth then { l with active := false } else l }

/-- ret: to the caller's s23, with the window retreated (R187, R51). -/
def execRet (f : L32) (s : State) : Out :=
  onEngine s fun e c =>
    let r := winIndex (e.depth - 1) 23
    let t := (e.win.getD r 0).extractLsb' 0 32
    guarded s e c (if e.depth = 0 then [] else [.win r]) []
      [check e.atLoopEnd (ctlFault 0 0x32 0xFF), check (e.depth == 0) (0x000B, 2)] <|
      .next (s.setEng s.cur (e.endLoops.popWindow.goTo t c f.stall.toNat e.fillCost))

/-! ## Hardware loops -/

/-- The word length of the instruction at a pc (R147). -/
def State.lengthAt (s : State) (id : EngId) (e : Engine) (pc : BitVec 32) : Nat :=
  match s.codeWord id e pc.toNat with
  | .ok w => lengthOf w
  | .error _ => 1

/-- Whether a loop instruction stands inside an active loop of its depth that ends before `last` (R390). -/
def Engine.overruns (e : Engine) (last : BitVec 32) : Bool :=
  ([0, 1, 2, 3] : List (Fin 4)).any fun i =>
    e.lc[i].active && e.lc[i].depth == e.depth && decide (e.lc[i].first.toNat ≤ e.pc.toNat)
      && decide (e.pc.toNat ≤ e.lc[i].last.toNat) && decide (e.lc[i].last.toNat < last.toNat)

/-- The faults of a loop instruction (R390). -/
def loopFaults (s : State) (e : Engine) (f : LB) (op : Nat) : List (Option (Nat × Nat)) :=
  let last := branchTarget e f
  [check e.lc[idx4 f.lc.toNat].active (illOperand 1 op 26 6),
   check (decide (f.off.toInt ≤ 0) || decide ((s.bounds s.cur e).2 ≤ last.toNat) || e.overruns last) (ctlFault 1 op 44),
   check e.atLoopEnd (ctlFault 1 op 0xFF)]

/-- A loop counter as its loop begins: with a count of 0 the loop is not entered (R188). -/
def loopStart (e : Engine) (f : LB) (count : BitVec 48) : LoopCtr :=
  ⟨count, e.pc + 2, branchTarget e f, count != 0, e.depth⟩

/-- Start a loop of `count` iterations (R188). -/
def loopOp (s : State) (e : Engine) (c : Nat) (f : LB) (count : BitVec 48) : Out :=
  let i := idx4 f.lc.toNat
  let e' := { e with lc := e.lc.set i (loopStart e f count) }
  let t := if count = 0 then branchTarget e f + BitVec.ofNat 32 (s.lengthAt s.cur e (branchTarget e f)) else e.pc + 2
  .next (s.setEng s.cur (e'.goTo t c f.stall.toNat 0))

/-- loop.i: the count is imm (R188). -/
def execLoopI (f : LB) (s : State) : Out :=
  onEngine s fun e c =>
    guarded s e c [] [⟨.lc (idx4 f.lc.toNat) 0, c⟩] (loopFaults s e f 0x052) (loopOp s e c f (BitVec.ofNat 48 f.imm.toNat))

/-- loop.s: the count is val(s) bits 47:0; a count with bits 63:48 set is refused (R188, R392). -/
def execLoopS (f : LB) (s : State) : Out :=
  onEngine s fun e c =>
    let code := fld f.imm 0 6
    let v := e.val code
    guarded s e c [e.destOf code] [⟨.lc (idx4 f.lc.toNat) 0, c⟩]
      (loopFaults s e f 0x053 ++ [check (fld v 48 16 != 0) (0x0006, code * 65536 + fld v 48 16)])
      (loopOp s e c f (v.extractLsb' 0 48))

/-! ## Hints -/

/-- A 32-bit hint: issues and honours its stall count (R166). -/
def execHint32 (f : LH32) (s : State) : Out :=
  onEngine s fun e c => finish s e c 1 f.stall.toNat []

/-- A 64-bit or 96-bit hint (R166). -/
def execHint64 (f : LH64) (s : State) : Out :=
  onEngine s fun e c => finish s e c (if f.lit.isSome then 3 else 2) f.stall.toNat []

end Sys2Proof.Machine
end

