-- ==== Sys2Proof/Machine/Image.lean ====
section
/-! DEFINITION. Pattern images in scheduler memory and what a launch reads from them: header, launch record, course list,
course and stream descriptors (12 R308-R316, R319, R326), the hierarchy and its instance numbers (02 R28, R452, 12 R327). -/

namespace Sys2Proof.Machine

/-- The physical address of an offset in an image slot's aperture (R89, R310). -/
def imagePa (i off : Nat) : Nat := paOf 36 (0x90000000 + i * 0x400000 + off)

/-- A little-endian field of an image. -/
def State.img (s : State) (i off n : Nat) : Nat := natOf (s.bytes (imagePa i off) n)

/-! ## Header (R309) -/

def State.imgLength (s : State) (i : Nat) : Nat := s.img i 0 4
def State.lrecOff (s : State) (i : Nat) : Nat := s.img i 32 4
def State.listOff (s : State) (i : Nat) : Nat := s.img i 36 4
def State.ncourse (s : State) (i : Nat) : Nat := s.img i 40 4
def State.paramOff (s : State) (i : Nat) : Nat := s.img i 44 4
def State.paramLen (s : State) (i : Nat) : Nat := s.img i 48 4
def State.frameVa (s : State) (i f : Nat) : Nat := s.img i (52 + 10 * f) 10
def State.framePa (s : State) (i f : Nat) : Nat := s.img i (72 + 8 * f) 8 % 2 ^ 56

/-! ## Launch record (R311, R312) -/

/-- A field of the launch record. -/
def State.lrec (s : State) (i off n : Nat) : Nat := s.img i (s.lrecOff i + off) n

def State.lrTenant (s : State) (i : Nat) : Nat := s.lrec i 0 2
def State.lrAsid (s : State) (i : Nat) : Nat := s.lrec i 2 2
/-- The slot a pinned entry stands on: the other BD of its quadrant once its own has been evacuated (R430). -/
def otherBd (slot : Nat) : Nat := if slot % 9 = 6 then slot + 1 else slot - 1
def State.pinSlot (s : State) (i slot : Nat) : Nat := if s.mgmt.moved.contains (i, slot) then otherBd slot else slot

def State.lrHomeBd (s : State) (i : Nat) : Nat := s.pinSlot i (s.lrec i 4 1)
def State.nlevel (s : State) (i : Nat) : Nat := s.lrec i 5 1 % 16
def State.nldie (s : State) (i : Nat) : Nat := s.lrec i 6 1
def State.lrPartw (s : State) (i : Nat) (k : DieKind) : Nat := match k with | .md => s.lrec i 8 8 | _ => s.lrec i 16 8
def State.cwordVa (s : State) (i : Nat) : Nat := s.lrec i 56 10
def State.ringLog2 (s : State) (i : Nat) : Nat := s.lrec i 66 1
def State.ringVa (s : State) (i : Nat) : Nat := s.lrec i 72 10
def State.rangePa (s : State) (i : Nat) : Nat := s.lrec i 88 8 % 2 ^ 56
def State.nrange (s : State) (i : Nat) : Nat := s.lrec i 96 1
def State.fbPa (s : State) (i : Nat) : Nat := s.lrec i 97 7
def State.precPa (s : State) (i : Nat) : Nat := s.lrec i 104 8 % 2 ^ 56

/-- A logical die's entry: type code, logical quadrant, pinned, and physical slot (R312). -/
structure LDie where
  ty : Nat
  quad : Nat
  pinned : Bool
  slot : Nat
  zero : Bool
  deriving DecidableEq, Repr

def State.ldieEntry (s : State) (i n : Nat) : LDie :=
  let b := s.lrec i (112 + 2 * n) 1
  ⟨b % 8, b / 8 % 4, b / 128 == 1, s.lrec i (113 + 2 * n) 1, b / 32 % 4 == 0⟩

/-! ## Levels (R28, R452) -/

/-- A level descriptor (R28). -/
structure Level where
  domain : Nat
  scope : Nat
  team : Bool
  extent : Nat
  deriving DecidableEq, Repr

def State.level (s : State) (i k : Nat) : Level :=
  let v := s.lrec i (24 + 4 * k) 4
  ⟨v % 8, v / 16 % 8, v / 128 % 2 == 1, v / 65536⟩

/-- The levels of a launch record, outermost first. -/
def State.levels (s : State) (i : Nat) : List Level := (List.range (s.nlevel i)).map (s.level i)

/-- The natural scope of a domain (R29). -/
def naturalScope (d : Nat) : Nat := match d with | 0 => 4 | 1 => 3 | 2 => 2 | 3 => 2 | 4 => 1 | 5 => 1 | _ => 0

/-- The digit of a domain and its radix for a stream (R452). `rank` is its logical die's rank, `g` the member-group size. -/
def digitOf (quad rank cluster engine g : Nat) (clustered hasGroup : Bool) (d : Nat) : Nat × Nat :=
  match d with
  | 0 => (0, 1)
  | 1 => (quad, 4)
  | 2 => (rank, 9)
  | 3 => (if clustered then 2 * (cluster / 4 / 2) + cluster % 4 / 2 else 0, 4)
  | 4 => (if clustered then 2 * (cluster / 4 % 2) + cluster % 4 % 2 else 0, 4)
  | 5 => (engine / g, ceilDiv 17 g)
  | _ => if hasGroup then (engine % g, g) else (engine, 17)

/-- The values of a run of levels of one domain, outermost first (R452): the innermost takes raw mod its extent, the
outermost the quotient left. -/
def runSplit (raw : Nat) : List Nat → List Nat × Nat
  | [] => ([], raw)
  | x :: xs => let r := runSplit raw xs; (r.2 % x :: r.1, r.2 / x)

def runValues (raw : Nat) : List Nat → List Nat
  | [] => []
  | _ :: xs => let r := runSplit raw xs; r.2 :: r.1

/-- Instance numbers of the levels (R452). `digit` gives a domain's digit and radix, `prev` the domains already used. -/
def instanceNumbers (digit : Nat → Nat × Nat) : Nat → Nat → List Level → List Nat
  | 0, _, _ => []
  | _, _, [] => []
  | fuel + 1, used, l :: ls =>
    let run := l :: ls.takeWhile fun x => x.domain == l.domain
    let raw := (List.range (l.domain + 1 - used)).foldl (fun v j => v * (digit (used + j)).2 + (digit (used + j)).1) 0
    runValues raw (run.map (·.extent)) ++ instanceNumbers digit fuel (l.domain + 1) (ls.dropWhile fun x => x.domain == l.domain)

/-- The rank of a logical die among those of its logical quadrant that are not the HD (R452). -/
def State.dieRank (s : State) (i n : Nat) : Nat :=
  ((List.range n).filter fun m => (s.ldieEntry i m).quad == (s.ldieEntry i n).quad && (s.ldieEntry i m).ty != 6).length

/-- The member-group size: the product of the extents of the engine-domain levels (R452). -/
def groupSize (ls : List Level) : Nat := max 1 ((ls.filter fun l => l.domain == 6).foldl (fun g l => g * l.extent) 1)

/-- A stream's instance number at each level (R452). -/
def State.streamInstances (s : State) (i ldie cluster engine : Nat) : List Nat :=
  let ls := s.levels i
  let ty := (s.ldieEntry i ldie).ty
  instanceNumbers (digitOf (s.ldieEntry i ldie).quad (s.dieRank i ldie) cluster engine (groupSize ls)
    (ty == 1 || ty == 2) (ls.any fun l => l.domain == 5)) 8 0 ls

/-- The levels down to the team level, and those above it. -/
def State.teamDepth (s : State) (i : Nat) : Nat := ((s.levels i).takeWhile fun l => !l.team).length + 1

/-- Mixed-radix number of the first `k` levels' instances (R327). -/
def mixedNumber (ls : List Level) (xs : List Nat) (k : Nat) : Nat :=
  ((ls.zip xs).take k).foldl (fun v p => v * p.1.extent + p.2) 0

/-- The team instance number of a stream (R327), and the number of its instance of the level above (R416). -/
def State.teamOf (s : State) (i ldie cluster engine : Nat) : Nat :=
  mixedNumber (s.levels i) (s.streamInstances i ldie cluster engine) (s.teamDepth i)

def State.parentOf (s : State) (i ldie cluster engine : Nat) : Nat :=
  mixedNumber (s.levels i) (s.streamInstances i ldie cluster engine) (s.teamDepth i - 1)

/-- The scope of a launch record's innermost level (R452, R126). -/
def State.innerScope (s : State) (i : Nat) : Nat :=
  match (s.levels i).getLast? with
  | some l => l.scope
  | none => 0

/-! ## Launches -/

/-- The slot a logical die is bound to. -/
def slotIn (b : List (Nat × Nat)) (n : Nat) : Nat := match b.find? fun p => p.1 == n with | some p => p.2 | none => 255

def State.launch (s : State) (seq : Nat) : Option Launch := s.launches.find? fun l => l.seq == seq
def State.updLaunch (s : State) (seq : Nat) (f : Launch → Launch) : State :=
  { s with launches := s.launches.map fun l => if l.seq = seq then f l else l }

/-- The scope of the innermost level of a launch (R452). -/
def State.levelScope (s : State) (seq : Nat) : Nat := match s.launch seq with | some l => s.innerScope l.image | none => 0

/-- The scope code an instruction's scope field names; without one, the level's scope (R126, R160). -/
def State.namedScope (s : State) (seq : Nat) (field : BitVec 4) : Nat := if field = 0 then s.levelScope seq else field.toNat % 8

/-- The scope code of a fence, barrier or release: the level's scope, unless the field names a wider one (R29; log 65). -/
def State.scopeOf (s : State) (seq : Nat) (field : BitVec 4) : Nat :=
  if field = 0 then s.levelScope seq else max (s.levelScope seq) (field.toNat % 8)

/-! ## Course list and descriptors (R313, R314, R326) -/

/-- A field of course-list entry `k`. -/
def State.entry (s : State) (i k off n : Nat) : Nat := s.img i (s.listOff i + 32 * k + off) n

/-- A field of the course descriptor that course entry `k` names. -/
def State.course (s : State) (i k off n : Nat) : Nat := s.img i (s.entry i k 4 4 + off) n

def State.nstrm (s : State) (i k : Nat) : Nat := s.course i k 7 2
def State.nwin (s : State) (i k : Nat) : Nat := s.course i k 9 2
def State.ngauge (s : State) (i k : Nat) : Nat := s.course i k 11 1

/-- A field of stream descriptor `j` of course entry `k` (R314). -/
def State.strm (s : State) (i k j off n : Nat) : Nat := s.img i (s.course i k 16 4 + 32 * j + off) n

/-- A field of window entry `j` (R313). -/
def State.winEntry (s : State) (i k j off n : Nat) : Nat := s.img i (s.course i k 20 4 + 16 * j + off) n

/-- A gauge record (R41). -/
def State.gaugeRec (s : State) (i k j : Nat) : Nat := s.img i (s.course i k 24 4 + 8 * j) 8

end Sys2Proof.Machine
end

