-- ==== Sys2Proof/Machine/System.lean ====
section
/-! DEFINITION. Waits, fences, notify, deadlines, region marks, system registers and traps (07 R190-R197, 21 R376-R385). -/

namespace Sys2Proof.Machine

/-- Scope field 0b1111 is refused (R390 reason 0x09); the field lies at bit 44, or at bit 32 in fence.c. -/
def scopeFault (scope : BitVec 4) (len op bit : Nat) : Option (Nat × Nat) :=
  check (scope == 15) (illOperand len op bit 9)

/-! ## Wait-on-address -/

/-- wait: reads an aligned word with acquire; if its condition does not hold the engine sleeps (R111, R190). -/
def execWait (f : LG) (s : State) : Out :=
  onEngine s fun e c =>
    let va := e.ea f.a.toNat f.b.toNat f.imm.val
    let kind := fld f.mod 0 2
    let x := e.val f.x.toNat
    let words := f.imm.words
    guarded s e c [e.destOf f.a.toNat, e.destOf f.b.toNat, e.destOf f.x.toNat] []
      [scopeFault f.scope f.imm.len 0x060 44] <|
      match misalignedAt 8 [(va, 8)], s.ownAperture s.cur va 8 with
      | none, some pa =>
        if s.acquiring e ∨ s.mustFollow s.cur pathS f.cls.toNat s.nextId [(pa, 8)] then .next (holdOne s)
        else if s.poisoned pa 8 then .next (poisonFault s e 1 s.cur.slot)
        else
          let e' := e.advance c words f.stall.toNat
          if waitHolds kind (BitVec.ofNat 64 (natOf (s.view (.eng s.cur) pa 8))) x then .next (s.setEng s.cur e')
          else .next (s.setEng s.cur (e'.parked (.wait (some pa) va f.cls.toNat kind x)))
      | _, _ =>
        match sendAccess s e c words f.stall.toNat
          { path := pathS, cls := f.cls.toNat, scope := s.namedScope e.seq f.scope, acq := true, vas := [(va, 8)], need := rRead,
            align := 8, op := .wait kind x } with
        | .next s' =>
          if (s'.eng s.cur).status = .running ∧ s.accesses.length < s'.accesses.length then
            .next (s'.updEng s.cur fun e => e.parked (.wait none va f.cls.toNat kind x))
          else .next s'
        | o => o

/-! ## Fences -/

/-- The accesses, transfers and pushes of an engine that a fence of a scope orders first: those it selects by path and class (R123,
R124). -/
def State.fencedIds (s : State) (id : EngId) (e : Engine) (sel : Nat → Nat → Bool) (scope : Nat) : List Hold :=
  ((s.accesses.filter fun a => a.eng == id && sel a.path a.cls).map fun a => ⟨a.id, scope⟩)
    ++ ((e.transfers.filter fun t => sel pathC t.cls).map fun t => ⟨t.uid, scope⟩)
    ++ ((s.pushes.filter fun p => p.eng == id && sel pathK p.cls).map fun p => ⟨p.id, scope⟩)
    ++ ((s.pieces.filter fun p => p.eng == id && sel pathK p.cls).map fun p => ⟨p.id, scope⟩)

/-- A fence holds the next issue until everything it orders first has performed at its scope (R185); entries of the merge buffer
that hold operations of its engine are sent (R26). -/
def fenceOp (s : State) (e : Engine) (c words stall : Nat) (sel : Nat → Nat → Bool) (scope : Nat) : Out :=
  let e' := e.advance c words stall
  .next ((s.sealMerge s.cur).setEng s.cur { e' with
    holds := s.fencedIds s.cur e sel scope
    nextIssue := max e'.nextIssue (e.storesDone sel) })

/-- fence.c: classes in the mask, every path (R123, R191). -/
def execFenceC (f : LW) (s : State) : Out :=
  onEngine s fun e c =>
    guarded s e c [] [] [scopeFault f.mod f.imm.len 0x061 32] <|
      fenceOp s e c f.imm.words f.stall.toNat (fun _ cls => f.imm.bits.testBit cls) (s.scopeOf e.seq f.mod)

/-- fence.x: every class of the earlier path (R124, R192). -/
def execFenceX (f : LG) (s : State) : Out :=
  onEngine s fun e c =>
    guarded s e c [] [] [scopeFault f.scope f.imm.len 0x062 44] <|
      fenceOp s e c f.imm.words f.stall.toNat (fun path _ => path == f.imm.bits % 8) (s.scopeOf e.seq f.scope)

/-! ## Notify, deadlines and regions -/

/-- The groups of an engine that it has not begun; while it runs a sibling's, its own pc is the one it goes back to (R55). -/
def Engine.groupsLeft (e : Engine) : List Group :=
  let pc := match e.lend with | some l => l.pc | none => e.pc
  e.groups.filter fun g => !g.taken && decide (pc.toNat ≤ g.first.toNat)

/-- The sibling a matrix engine steals from: the one with most groups left, the lowest index among equals (R55). Only an engine of the
same team of the same launch is taken for a sibling: the spec says sibling in the same cluster and does not speak of a cluster that
several teams share; DESIGN CHOICE (log 55). -/
def State.victim (s : State) (id : EngId) : Option EngId :=
  let e := s.eng id
  ((List.range 4).map fun i => (⟨id.slot, id.cluster, i⟩ : EngId)).foldl (fun (best : Option EngId) v =>
    let x := s.eng v
    if v = id ∨ x.seq ≠ e.seq ∨ x.team ≠ e.team ∨ x.groupsLeft.isEmpty then best
    else match best with
      | none => some v
      | some w => if (s.eng w).groupsLeft.length < x.groupsLeft.length then some v else best) none

/-- Whether a matrix engine at its notify can steal from a sibling (R55, R193). -/
def State.canSteal (s : State) (id : EngId) : Bool := id.kind == some .me && (s.victim id).isSome

/-- A stream reaches the end of its section: the section retires once what it issued has landed and performed (R37). -/
def State.reachEnd (s : State) (id : EngId) (e : Engine) : Engine :=
  if e.secNum = 0 ∨ e.sret = e.secNum ∨ e.secPend.any (fun p => p.secNum == e.secNum) then e
  else
    let landBy := (e.pend.foldl (fun m p => max m (p.land + 1)) (e.zLand.toList.foldl max (e.storesDone fun _ _ => true)))
    let accs := (s.accesses.filter fun a => a.eng == id).map (·.id) ++ e.inter.map (·.2)
      ++ (((s.cluster id.cl).fills.filter fun x => x.by_ == id).map (·.id)) ++ e.transfers.map (·.uid)
    { e with secPend := e.secPend ++ [⟨e.secNum, landBy, accs⟩] }

/-- The team of a launch an engine runs for. -/
def State.teamStateOf (s : State) (e : Engine) : Option TeamState :=
  match s.launch e.seq with
  | none => none
  | some l => (l.teams.find? fun t => t.index == e.team).map (·.state)

/-- Whether a peer of a failed team stops here: at a section header or at its notify (R416). -/
def State.peerStops (s : State) (e : Engine) : Bool := match s.teamStateOf e with | some (.peer _ _) => true | _ => false

/-- notify: the engine's last instruction, a release (R193, R52). -/
def execNotify (f : LG) (s : State) : Out :=
  onEngine s fun e c =>
    guarded s e c [] [] [check e.atLoopEnd (ctlFault f.imm.len 0x063 0xFF), scopeFault f.scope f.imm.len 0x063 44] <|
      if s.peerStops e then .next (s.setEng s.cur { e with status := .stopped })
      else if s.canSteal s.cur then .next (holdOne (s.setEng s.cur (s.reachEnd s.cur e)))
      else .next ((s.sealMerge s.cur).setEng s.cur { (s.reachEnd s.cur e).issued c f.stall.toNat 0 with status := .notifying (s.scopeOf e.seq f.scope) })

/-- T0 of the course a launch is in. -/
def State.courseT0 (s : State) (seq : Nat) : Nat :=
  match s.launch seq with
  | some l => l.t0
  | none => 0

/-- deadl: the section is due by tick T0 + val(a) + sext(imm) (R194), summed modulo 2^64: the rule gives no width; DESIGN CHOICE (log
71). -/
def execDeadl (f : LG) (s : State) : Out :=
  onEngine s fun e c =>
    guarded s e c [e.destOf f.a.toNat] [] [] <|
      let due := (BitVec.ofNat 64 (s.courseT0 e.seq) + e.val f.a.toNat + BitVec.ofInt 64 f.imm.val).toNat
      let e' := e.advance c f.imm.words f.stall.toNat
      .next (s.setEng s.cur { e' with deadl := some ⟨due, e.secNum, e.pc, false⟩ })

/-- Registers that the region-entry record holds (R58). -/
def recorded (d : Dest) : Bool :=
  match d with
  | .glob _ => true | .win _ => true | .a _ => true | .c _ => true | .lc _ => true | _ => false

/-- The record an idbeg at this engine writes, every pending result landed (R58, R195). -/
def Engine.entryRecord (e : Engine) (tick : Nat) : Region :=
  let r := (sortLandings e.pend).foldl (fun e p => e.apply p.wr) e
  ⟨r.glob, r.win, r.a, r.c, r.lc, r.depth, r.resident, e.pc, tick⟩

/-- The cycle after the last pending fixed-latency write of a recorded register lands. -/
def Engine.settledAt (e : Engine) : Nat :=
  e.pend.foldl (fun m p => if recorded p.wr.dest then max m (p.land + 1) else m) 0

/-- idbeg: opens a region and records the engine, in four issue cycles or more (R195). It waits for fixed-latency results in those four
cycles, and for the others before them; DEDUCED (log 72). -/
def execIdbeg (f : LG) (s : State) : Out :=
  onEngine s fun e c =>
    guarded s e c [] [] [check e.region.isSome (illOperand f.imm.len 0x065 0xFF 7)] <|
      if e.inter.any fun p => recorded p.1 then .next (holdOne s)
      else
        let e' := (e.advance c f.imm.words f.stall.toNat)
        .next (s.setEng s.cur { e' with
          region := some (e.entryRecord s.ptick)
          consumed := false
          nextIssue := max (c + 4 + f.stall.toNat) e.settledAt
          fbNow := { e'.fbNow with busy := e'.fbNow.busy + (max (c + 4 + f.stall.toNat) e.settledAt - e'.nextIssue) } })

/-- idend: closes the region (R195). -/
def execIdend (f : LG) (s : State) : Out :=
  onEngine s fun e c =>
    guarded s e c [] [] [check e.region.isNone (illOperand f.imm.len 0x066 0xFF 7)] <|
      .next (s.setEng s.cur { e.advance c f.imm.words f.stall.toNat with region := none })

/-! ## System registers (R162, R196) -/

/-- MIXWk (R11). -/
def State.mixw (s : State) (k : Nat) : Word :=
  BitVec.ofNat 64 (natOf ((List.range 8).map fun i => match s.mix[8 * k + i]? with | some b => b | none => 0))

/-- ORIENT of a slot (R17). -/
def orient (slot : Nat) : Word :=
  BitVec.ofNat 64 (slot * 256 + (if slot = 36 then 0 else slot / 9 * 5))

/-- ENGID (R34). -/
def engid (id : EngId) : Word := BitVec.ofNat 64 (id.slot * 65536 + id.index * 256 + id.cluster)

/-- Whether an engine has channels (R109). -/
def hasChannels (id : EngId) : Bool := id.kind == some .ce || id.kind == some .be

/-- Whether a number names a register the engine has (R162). -/
def hasSys (id : EngId) (n : Nat) : Bool :=
  decide (n ≤ 3) || (decide (8 ≤ n) && decide (n ≤ 0xC)) || (decide (0x10 ≤ n) && decide (n ≤ 0x13)) || n == 0x17
    || (inCluster id && (decide (0x14 ≤ n) && decide (n ≤ 0x16)))
    || (hasChannels id && (decide (0x20 ≤ n) && decide (n < 0x2C)))
    || (decide (0x40 ≤ n) && decide (n ≤ 0x42)) || (decide (0x100 ≤ n) && decide (n < 0x140))

/-- A bank format register as an instruction that issues at cycle `c` sees it (R95, R196). -/
def Cluster.bankReg (cl : Cluster) (n c : Nat) : Word :=
  cl.bfmtPend.foldl (fun v p => if p.1 = n ∧ p.2.2 < c then p.2.1 else v) (if n = 0x015 then cl.bfmtlo else cl.bfmthi)

/-- The format code of a scratchpad bank at an issue cycle (R95). -/
def Cluster.bankFormat (cl : Cluster) (b c : Nat) : Nat :=
  fld (cl.bankReg (if b < 16 then 0x015 else 0x016) c) (4 * (b % 16)) 4

/-- CHEADn: the head, and busy while the channel walks a chain (R112). -/
def Channel.cheadReg (ch : Channel) : Addr :=
  BitVec.ofNat 80 (ch.head.toNat / 64 * 64 + (if ch.chain = .idle then 0 else 1))

/-- The value of a system register at an issue cycle (R162, R185). -/
def State.sysValue (s : State) (id : EngId) (e : Engine) (c n : Nat) : Addr :=
  if n = 0 then zext80 (engid id)
  else if n = 1 then zext80 (orient id.slot)
  else if n = 2 then BitVec.ofNat 80 (s.ptick % 2 ^ 64)
  else if n = 3 then zext80 (BitVec.ofNat 64 (fld s.arithrev 0 16))
  else if 8 ≤ n ∧ n ≤ 0xC then zext80 (s.mixw (n - 8))
  else if n = 0x10 then zext80 e.secpart
  else if n = 0x11 then zext80 e.strmcfg
  else if n = 0x12 then BitVec.ofNat 80 (e.resident % 16 * 65536 + e.depth % 65536)
  else if n = 0x13 then zext80 e.aspace
  else if n = 0x14 then zext80 (s.cluster id.cl).partw
  else if n = 0x15 ∨ n = 0x16 then zext80 ((s.cluster id.cl).bankReg n c)
  else if n = 0x17 then zext80 s.mgmt.shapebase
  else if 0x20 ≤ n ∧ n < 0x24 then BitVec.ofNat 80 e.chans[idx4 (n - 0x20)].xnext.toNat
  else if 0x24 ≤ n ∧ n < 0x28 then BitVec.ofNat 80 e.chans[idx4 (n - 0x24)].xdone.toNat
  else if 0x28 ≤ n ∧ n < 0x2C then e.chans[idx4 (n - 0x28)].cheadReg
  else if n = 0x40 then zext80 e.cause
  else if n = 0x41 then zext80 e.epc
  else if n = 0x42 then zext80 e.chksb
  else zext80 ((s.die id.slot).wincfg.getD (n - 0x100) 0)

/-- mfs: d := a system register, landing with latency 2 (R185, R196). -/
def execMfs (f : LG) (s : State) : Out :=
  onEngine s fun e c =>
    let n := f.imm.bits % 4096
    let ws := landing c 2 (e.writeTo f.d.toNat (s.sysValue s.cur e c n))
    guarded s e c [] ws [check (!hasSys s.cur n) (illOperand f.imm.len 0x067 52 8)]
      (finish s e c f.imm.words f.stall.toNat ws)

/-- mts: writes the RW fields of a system register for instructions that issue at c + 2 or later (R185, R196). -/
def execMts (f : LG) (s : State) : Out :=
  onEngine s fun e c =>
    let n := f.imm.bits % 4096
    let v := e.val80 f.a.toNat
    guarded s e c [e.destOf f.a.toNat] [] [check (!hasSys s.cur n) (illOperand f.imm.len 0x068 52 8)] <|
      if n = 0x15 ∨ n = 0x16 then
        finish (s.updCluster s.cur.cl fun cl => { cl with
            bfmtlo := cl.bankReg 0x15 c
            bfmthi := cl.bankReg 0x16 c
            bfmtPend := cl.bfmtPend.filter (fun p => decide (c ≤ p.2.2)) ++ [(n, v.extractLsb' 0 64, c + 1)] })
          e c f.imm.words f.stall.toNat []
      else finish s e c f.imm.words f.stall.toNat (landing c 2 (some (.sys n v)))

/-! ## Traps -/

/-- Send an MSI-X vector (R370, R334). -/
def State.interrupt (s : State) (vector : Nat) : State := { s with outbox := s.outbox ++ [.interrupt vector] }

/-- trap: the software-trap exception; EPC receives the next PC (R197, R379, R393). -/
def execTrap (f : LG) (s : State) : Out :=
  onEngine s fun e c =>
    guarded s e c [] [] [check e.atLoopEnd (ctlFault f.imm.len 0x069 0xFF)] <|
      .next (takeException s s.cur e c 0x0007 (f.imm.bits % 4096) (e.pc + BitVec.ofNat 32 f.imm.words))

/-- eret: returns from the handler to EPC, in the section that held the faulting instruction (R382). -/
def execEret (f : L32) (s : State) : Out :=
  onEngine s fun e c =>
    let t := fld e.epc 0 32
    guarded s e c [] []
      [check (!chkInh e.chksb) (0x0001, opDetail 0 0x33 0xFF 7),
       check (e.atLoopEnd || decide (t < e.secStart) || decide (e.secEnd < t)) (ctlFault 0 0x33 0xFF)] <|
      .next (s.setEng s.cur (returnFromException (e.issued c f.stall.toNat 0) c f.stall.toNat))

/-- The send of the FLTCFG vector (R370). -/
def State.faultInterrupt (s : State) : State :=
  if s.mgmt.fltcfg.getLsbD 0 then s.interrupt (fld s.mgmt.fltcfg 16 16) else s

/-- brk: captures pending results (they stay relative to the next issue, `Engine.rebase`), stops the engine at the next PC and reports it (R385). -/
def execBrk (f : L32) (s : State) : Out :=
  onEngine s fun e c =>
    guarded s e c [] [] [] <|
      let e1 := e.advance c 1 f.stall.toNat
      let e2 := { e1.settle e1.nextIssue with
        cause := causeWord 0x0008 0, epc := BitVec.ofNat 64 e1.pc.toNat, status := .atBrk }
      .next (((s.setEng s.cur e2).updCluster s.cur.cl fun cl =>
        { cl with engstop := cl.engstop ||| (1 <<< s.cur.index) }).faultInterrupt)

end Sys2Proof.Machine
end

