-- ==== Sys2Proof/Machine/Sync.lean ====
section
/-! DEFINITION. Windows, barriers, transfer waits, atomics and reductions as an engine issues them (10 R260-R273). What
they do at their homes is in Home.lean. -/

namespace Sys2Proof.Machine

/-! ## Windows -/

/-- Fields of WINCFG (R107). -/
def winDepth (w : Word) : Nat := fld w 0 7
def winSlotBytes (w : Word) : Nat := fld w 16 16
def winValid (w : Word) : Bool := w.getLsbD 32
def winCluster (w : Word) : Nat := fld w 33 4
def winEngine (w : Word) : Nat := fld w 37 5

/-- Fields of ROUTE (R260). -/
def routeModules (w : Word) : Nat := fld w 8 3
def routeWindow (w : Word) : Nat := fld w 16 6
def routeSlot (w : Word) : Nat := fld w 24 8
def routeValid (w : Word) : Bool := w.getLsbD 32

def Die.wincfgOf (d : Die) (n : Nat) : Word := d.wincfg.getD n 0
def Die.window (d : Die) (n : Nat) : Window := d.windows.getD n Window.reset
def Die.routeOf (d : Die) (n : Nat) : Word := d.route.getD n 0

/-- The physical address of a window slot (R89, R107). -/
def slotPa (slot win k : Nat) : Nat := paOf slot (0x40000000 + win * 0x80000 + k * 0x2000)

/-- Cut the bytes of a push into pieces of S bytes (R261). -/
def cutPieces : Nat → Nat → List Byte → List (List Byte)
  | 0, _, _ => []
  | k + 1, size, bs => bs.take size :: cutPieces k size (bs.drop size)

/-- Whether a release at a scope that would perform at the issue waits: an access, transfer, push or own write of the engine, or a
write of another that it has seen, has not performed at the scope (R128, R130). -/
def State.unreleased (s : State) (id : EngId) (e : Engine) (c scope : Nat) : Bool :=
  !s.earlierDone id s.nextId [] scope || s.passesOn id scope || decide (c < e.storesDone fun _ _ => true)

/-- The consumer of a window (R107). -/
def windowConsumer (slot : Nat) (w : Word) : EngId := ⟨slot, winCluster w, winEngine w⟩

/-- The scope of a push on a route: the common scope of producer and consumer (R132, R261). -/
def State.pushScope (s : State) (id : EngId) (route : Word) : Nat :=
  commonScope (.eng id) (.eng (windowConsumer (routeSlot route) ((s.die (routeSlot route)).wincfgOf (routeWindow route))))

/-- A source of a push outside the local aperture (R261, R403), or beyond the SRAM that can be reached (R91). -/
def State.pushSource (s : State) (id : EngId) (va : Addr) (n : Nat) : Except MemFault Nat :=
  if !isLocal va then .error (.physical 4)
  else match s.localAccess id va n with
    | .pa a => .ok a
    | .bad f => .error f
    | .miss => .error (.physical 2)

/-- push: reads its bytes once every earlier access has performed, and sends them on a route (R261, R132). -/
def execPush (f : LG) (s : State) : Out :=
  onEngine s fun e c =>
    let va := e.ea f.a.toNat f.b.toNat f.imm.val
    let k := fld f.mod 0 3 + 1
    let r := (s.die s.cur.slot).routeOf f.d.toNat
    let size := winSlotBytes ((s.die (routeSlot r)).wincfgOf (routeWindow r))
    let n := (e.val f.x.toNat).toNat
    guarded s e c [e.destOf f.a.toNat, e.destOf f.b.toNat, e.destOf f.x.toNat] []
      [check (!routeValid r) (illOperand f.imm.len 0x080 20 0x0D),
       check (decide (n ≤ (k - 1) * size) || decide (k * size < n)) (illOperand f.imm.len 0x080 38 0x0D)] <|
      if s.unreleased s.cur e c (s.pushScope s.cur r) then .next (holdOne (s.sealMerge s.cur))
      else match s.pushSource s.cur va n with
        | .error m => .next (accessFault s e va m)
        | .ok pa =>
          if s.poisoned pa n then .next (poisonFault s e 3 s.cur.slot)
          else
            let (m, s) := s.newId
            let p : PushReq := ⟨m, s.cur, e.seq, e.team, f.d.toNat, f.cls.toNat, s.ptick, e.pc, cutPieces k size (s.view (.eng s.cur) pa n)⟩
            .next ({ s with pushes := s.pushes ++ [p] }.setEng s.cur (e.advance c f.imm.words f.stall.toNat))

/-- take: waits for the next slot, copies it out, and retires ceil(S / 256) + 2 cycles after its issue at the earliest
(R263); the slot's index reaches d as it retires. -/
def execTake (f : LG) (s : State) : Out :=
  onEngine s fun e c =>
    let w := f.x.toNat
    let d := s.die s.cur.slot
    let cfg := d.wincfgOf w
    let k := (d.window w).takePos
    let size := winSlotBytes cfg
    let moves := f.a.toNat != 63
    let va := e.ea f.a.toNat f.b.toNat f.imm.val
    guarded s e c (if moves then [e.destOf f.a.toNat, e.destOf f.b.toNat] else []) []
      [check (!winValid cfg) (illOperand f.imm.len 0x081 38 0x0D),
       check (winEngine cfg != s.cur.index || winCluster cfg != s.cur.cluster) (illOperand f.imm.len 0x081 38 5)] <|
      if s.acquiring e then .next (holdOne s)
      else if !(d.window w).full.getLsbD k then .next (blockOn s (.take w))
      else
        let r := c + ceilDiv size 256 + 2
        let ends (s : State) : Out :=
          let wr := e.writeTo f.d.toNat (BitVec.ofNat 80 k)
          let e' := (e.land (match wr with | some x => [⟨x, r⟩] | none => [])).advance c f.imm.words f.stall.toNat
          .next (s.setEng s.cur ({ e' with nextIssue := max e'.nextIssue (r + 1) }.parked (.takeEnds w r)))
        if !moves then ends s
        else match misalignedAt 64 [(va, size)], s.ownAperture s.cur va size with
          | some _, _ => .next (accessFault s e va (.misaligned 6))
          | none, none => .next (accessFault s e va (.physical 2))
          | none, some pa =>
            if s.mustWait s.cur pathK f.cls.toNat [(pa, size)] then .next (holdOne s)
            else if s.poisoned (slotPa s.cur.slot w k) size then .next (poisonFault s e 3 s.cur.slot)
            else ends (s.store pa (s.bytes (slotPa s.cur.slot w k) size))

/-! ## Barriers (R264-R267) -/

/-- The address of a barrier operation, and its alignment check (R264, R390). -/
def barEa (e : Engine) (f : LG) : Addr := e.val80 f.a.toNat + BitVec.ofInt 80 f.imm.val

def barAligned (va : Addr) (f : LG) (op : Nat) : Option (Nat × Nat) :=
  check (va.toNat % 32 != 0) (illOperand f.imm.len op 26 0x0B)

/-- The bytes of a barrier (R264). -/
def barrierBytes (pend arr phase ipend iarr ctl : Nat) : List Byte :=
  bytesOf 8 (pend % 2 ^ 56) ++ bytesOf 2 arr ++ bytesOf 1 phase ++ bytesOf 5 0 ++ bytesOf 8 (ipend % 2 ^ 56) ++ bytesOf 2 iarr
    ++ bytesOf 1 ctl ++ bytesOf 5 0

/-- bar.init: writes a whole barrier (R265). -/
def execBarInit (f : LG) (s : State) : Out :=
  onEngine s fun e c =>
    let va := barEa e f
    let iarr := fld (e.val f.b.toNat) 0 16
    let ipend := fld (e.val f.x.toNat) 0 56
    guarded s e c [e.destOf f.a.toNat, e.destOf f.b.toNat, e.destOf f.x.toNat] []
      [check (iarr == 0 && ipend == 0) (illOperand f.imm.len 0x082 32 4), scopeFault f.scope f.imm.len 0x082 44,
       barAligned va f 0x082] <|
      sendAccess s e c f.imm.words f.stall.toNat
        { path := pathK, cls := f.cls.toNat, scope := s.scopeOf e.seq f.scope, vas := [(va, 32)], need := rWrite,
          op := .barInit (barrierBytes ipend iarr 0 ipend iarr (128 + s.scopeOf e.seq f.scope)) }

/-- bar.arr: one arrival, a release, answering the phase before it (R267). -/
def execBarArr (f : LG) (s : State) : Out :=
  onEngine s fun e c =>
    let va := barEa e f
    guarded s e c [e.destOf f.a.toNat] [] [barAligned va f 0x083] <|
      sendAccess s e c f.imm.words f.stall.toNat
        { path := pathK, cls := f.cls.toNat, rel := true, vas := [(va, 32)], need := rAtomic, kind := 2,
          op := .barArr (e.destOf f.d.toNat), dst := e.destOf f.d.toNat }

/-- bar.wait: reads a barrier and sleeps until its phase differs from bit 0 of val(x) (R267). -/
def execBarWait (f : LG) (s : State) : Out :=
  onEngine s fun e c =>
    let va := barEa e f
    let x := e.val f.x.toNat
    guarded s e c [e.destOf f.a.toNat, e.destOf f.x.toNat] [] [barAligned va f 0x084] <|
      match sendAccess s e c f.imm.words f.stall.toNat
        { path := pathK, cls := f.cls.toNat, acq := true, vas := [(va, 32)], need := rRead, op := .barWait x } with
      | .next s' =>
        if (s'.eng s.cur).status = .running ∧ s.accesses.length < s'.accesses.length then
          .next (s'.updEng s.cur fun e => e.parked (.barrier none va f.cls.toNat x))
        else .next s'
      | o => o

/-- The engine whose channel an xwait names (R268). -/
def xwaitEngine (id : EngId) (f : LG) : EngId :=
  if inCluster id then ⟨id.slot, id.cluster, 16⟩ else ⟨id.slot, 0, fld f.mod 2 2⟩

/-- xwait: waits until XDONEn reaches val(x) (R268). -/
def execXwait (f : LG) (s : State) : Out :=
  onEngine s fun e c =>
    let x := e.val f.x.toNat
    let t := xwaitEngine s.cur f
    let ch := fld f.mod 0 2
    guarded s e c [e.destOf f.x.toNat] []
      [check (dieKind s.cur.slot != some .bd && fld f.mod 2 2 != 0) (0x0001, opDetail f.imm.len 0x085 48 4),
       check (dieKind s.cur.slot == some .gd || dieKind s.cur.slot == some .sd) (illOperand f.imm.len 0x085 0xFF 5)] <|
      if s.acquiring e then .next (holdOne s)
      else
        let e' := e.advance c f.imm.words f.stall.toNat
        if x.toNat ≤ (s.eng t).chans[idx4 ch].xdone.toNat then .next (s.setEng s.cur e')
        else .next (s.setEng s.cur (e'.parked (.xwait t ch x)))

/-! ## Atomics and reductions (R269-R273) -/

/-- The low bits of a register that an element holds. -/
def typeOpnd (t : BitVec 3) (v : Word) : Word := BitVec.ofNat 64 (v.toNat % 2 ^ (8 * typeBytes t))

/-- The effective address of an atomic or reduction (R269). -/
def atomicEa (e : Engine) (f : LG) : Addr := e.ea f.a.toNat f.b.toNat (atomicOffset f.imm)

/-- The scope of an atomic, reduction or close: as a release where it is annotated one (R29), else as named (R126; log 65). -/
def State.syncScope (s : State) (seq : Nat) (f : LG) : Nat := if f.mod.getLsbD 1 then s.scopeOf seq f.scope else s.namedScope seq f.scope

/-- An atomic (`fetch`) or reduction (R269): the old value returns to d. -/
def atomicOp (op : AOp) (fetch : Bool) (code : Nat) (f : LG) (s : State) : Out :=
  onEngine s fun e c =>
    let ty := atomicType f.imm
    let d := f.d.toNat
    let ordered := !f.mod.getLsbD 2
    let cas := op == .cas
    let q : AReq := ⟨op, ty, ordered, f.mod.getLsbD 3, fetch, typeOpnd ty (e.val f.x.toNat),
      if cas then typeOpnd ty (e.val d) else 0, opDetail f.imm.len code 0xFF 0x0A⟩
    let dst := if fetch then e.destOf d else .nil
    guarded s e c ([e.destOf f.a.toNat, e.destOf f.b.toNat, e.destOf f.x.toNat] ++ (if cas then [e.destOf d] else [])) []
      [scopeFault f.scope f.imm.len code 44] <|
      sendAccess s e c f.imm.words f.stall.toNat
        { path := pathK, cls := f.cls.toNat, scope := s.syncScope e.seq f, acq := f.mod.getLsbD 0, rel := f.mod.getLsbD 1,
          vas := [(atomicEa e f, typeBytes ty)], need := rAtomic, kind := 2, align := typeBytes ty,
          home := if op = .fadd ∧ ordered then some q.detail else none, op := .atomic q dst, dst := dst }

/-- rclose: closes an ordered epoch and answers the value (R273). -/
def execRclose (f : LG) (s : State) : Out :=
  onEngine s fun e c =>
    let ty := atomicType f.imm
    let det := opDetail f.imm.len 0x086 0xFF 0x0A
    guarded s e c [e.destOf f.a.toNat, e.destOf f.b.toNat] [] [scopeFault f.scope f.imm.len 0x086 44] <|
      sendAccess s e c f.imm.words f.stall.toNat
        { path := pathK, cls := f.cls.toNat, scope := s.syncScope e.seq f, acq := f.mod.getLsbD 0, rel := f.mod.getLsbD 1,
          vas := [(atomicEa e f, typeBytes ty)], need := rAtomic, kind := 2, align := typeBytes ty, home := some det,
          op := .close ty det (e.destOf f.d.toNat), dst := e.destOf f.d.toNat }

/-- amo.add (R270). -/
def execAmoAdd (f : LG) (s : State) : Out := atomicOp .add true 0x088 f s

/-- amo.fadd (R270). -/
def execAmoFadd (f : LG) (s : State) : Out := atomicOp .fadd true 0x089 f s

/-- amo.min (R270). -/
def execAmoMin (f : LG) (s : State) : Out := atomicOp .min true 0x08A f s

/-- amo.max (R270). -/
def execAmoMax (f : LG) (s : State) : Out := atomicOp .max true 0x08B f s

/-- amo.and (R270). -/
def execAmoAnd (f : LG) (s : State) : Out := atomicOp .and true 0x08C f s

/-- amo.or (R270). -/
def execAmoOr (f : LG) (s : State) : Out := atomicOp .or true 0x08D f s

/-- amo.xor (R270). -/
def execAmoXor (f : LG) (s : State) : Out := atomicOp .xor true 0x08E f s

/-- amo.swp (R270). -/
def execAmoSwp (f : LG) (s : State) : Out := atomicOp .swp true 0x08F f s

/-- amo.cas (R270). -/
def execAmoCas (f : LG) (s : State) : Out := atomicOp .cas true 0x090 f s

/-- amo.fmin (R270). -/
def execAmoFmin (f : LG) (s : State) : Out := atomicOp .fmin true 0x091 f s

/-- amo.fmax (R270). -/
def execAmoFmax (f : LG) (s : State) : Out := atomicOp .fmax true 0x092 f s

/-- red.add (R270). -/
def execRedAdd (f : LG) (s : State) : Out := atomicOp .add false 0x098 f s

/-- red.fadd (R270). -/
def execRedFadd (f : LG) (s : State) : Out := atomicOp .fadd false 0x099 f s

/-- red.min (R270). -/
def execRedMin (f : LG) (s : State) : Out := atomicOp .min false 0x09A f s

/-- red.max (R270). -/
def execRedMax (f : LG) (s : State) : Out := atomicOp .max false 0x09B f s

/-- red.and (R270). -/
def execRedAnd (f : LG) (s : State) : Out := atomicOp .and false 0x09C f s

/-- red.or (R270). -/
def execRedOr (f : LG) (s : State) : Out := atomicOp .or false 0x09D f s

/-- red.xor (R270). -/
def execRedXor (f : LG) (s : State) : Out := atomicOp .xor false 0x09E f s

/-- red.fmin (R270). -/
def execRedFmin (f : LG) (s : State) : Out := atomicOp .fmin false 0x09F f s

/-- red.fmax (R270). -/
def execRedFmax (f : LG) (s : State) : Out := atomicOp .fmax false 0x0A0 f s

end Sys2Proof.Machine
end

