-- ==== Sys2Proof/Machine/Num.lean ====
section
/-! DEFINITION. Numbers: exact dyadic values, the formats of 03 R65-R68 and R75, the one rounding of R63 and R67, exact
arithmetic and comparison (R64, R207), MX-delta values (R70-R74), the skein generator (R80-R83), weight pairs (R77-R79)
and the matrix sums (R84-R87). -/

namespace Sys2Proof.Machine

/-! ## Exact values -/

/-- A value: NaN, an infinity, or ± m × 2^e, where m = 0 is a signed zero. -/
inductive FVal
  | nan
  | inf (neg : Bool)
  | fin (neg : Bool) (m : Nat) (e : Int)
  deriving DecidableEq, Repr

/-- The integer of a sign and magnitude. -/
def signed (neg : Bool) (m : Nat) : Int := if neg then -(m : Int) else (m : Int)

/-- The dyadic of a signed integer times 2^e; zero is +0. -/
def FVal.ofInt (n e : Int) : FVal := .fin (decide (n < 0)) n.natAbs e

/-- The significand of a finite value at exponent `e`, not above its own. -/
def alignTo (neg : Bool) (m : Nat) (own e : Int) : Int := signed neg (m * 2 ^ (own - e).toNat)

/-- The exact sum (R64): a zero sum is +0 unless every addend is a negative zero. -/
def FVal.add (x y : FVal) : FVal :=
  match x, y with
  | .nan, _ => .nan
  | _, .nan => .nan
  | .inf a, .inf b => if a = b then .inf a else .nan
  | .inf a, _ => .inf a
  | _, .inf b => .inf b
  | .fin a m e, .fin b n f =>
    if m = 0 ∧ n = 0 then .fin (a && b) 0 0
    else
      let k := min e f
      .ofInt (alignTo a m e k + alignTo b n f k) k

def FVal.neg (x : FVal) : FVal :=
  match x with
  | .nan => .nan
  | .inf a => .inf (!a)
  | .fin a m e => .fin (!a) m e

def FVal.abs (x : FVal) : FVal :=
  match x with
  | .nan => .nan
  | .inf _ => .inf false
  | .fin _ m e => .fin false m e

def FVal.sub (x y : FVal) : FVal := x.add y.neg

/-- The exact product (R64). -/
def FVal.mul (x y : FVal) : FVal :=
  match x, y with
  | .nan, _ => .nan
  | _, .nan => .nan
  | .inf a, .inf b => .inf (a != b)
  | .inf a, .fin b m _ => if m = 0 then .nan else .inf (a != b)
  | .fin a m _, .inf b => if m = 0 then .nan else .inf (a != b)
  | .fin a m e, .fin b n f => .fin (a != b) (m * n) (e + f)

/-- A value times a power of two. -/
def FVal.scale (x : FVal) (k : Int) : FVal :=
  match x with
  | .fin a m e => .fin a m (e + k)
  | v => v

def FVal.isNan (x : FVal) : Bool := x == .nan
def FVal.isFin (x : FVal) : Bool := match x with | .fin _ _ _ => true | _ => false
def FVal.isZero (x : FVal) : Bool := match x with | .fin _ m _ => m == 0 | _ => false

/-- floor(log2 |x|) of a nonzero finite value. -/
def FVal.exponent (x : FVal) : Int := match x with | .fin _ m e => (m.log2 : Int) + e | _ => 0

/-- Less-than of two values that are not NaN, with −0 below +0 when `zeros` is set (R142, R207). -/
def FVal.less (zeros : Bool) (x y : FVal) : Bool :=
  match x, y with
  | .nan, _ => false
  | _, .nan => false
  | .inf a, .inf b => a && !b
  | .inf a, _ => a
  | _, .inf b => !b
  | .fin a m e, .fin b n f =>
    if m = 0 ∧ n = 0 then zeros && a && !b
    else
      let k := min e f
      decide (alignTo a m e k < alignTo b n f k)

/-- Equality of values; −0 equals +0 (R208). -/
def FVal.same (x y : FVal) : Bool := !x.isNan && !y.isNan && !x.less false y && !y.less false x

/-! ## Formats -/

/-- A floating format (R65): width, fraction bits, bias, the code of its largest finite value, the code of its infinity,
whether finite overflow saturates (R67), and its canonical NaN (R64). -/
structure FloatFmt where
  bits : Nat
  frac : Nat
  bias : Nat
  top : Nat
  inf : Option Nat
  sat : Bool
  nan : Nat
  deriving DecidableEq, Repr

def fmt32 : FloatFmt := ⟨32, 23, 127, 0x7F7FFFFF, some 0x7F800000, false, 0x7FC00000⟩
def fmtBf : FloatFmt := ⟨16, 7, 127, 0x7F7F, some 0x7F80, false, 0x7FC0⟩
def fmtE4 : FloatFmt := ⟨8, 3, 7, 0x7E, none, true, 0x7F⟩
def fmtE5 : FloatFmt := ⟨8, 2, 15, 0x7B, some 0x7C, true, 0x7F⟩
/-- E2M1, the element of MXFP4: it has no NaN code (R65). -/
def fmtE2 : FloatFmt := ⟨4, 1, 1, 7, none, true, 7⟩

/-- The value of a bit pattern (R65). -/
def FloatFmt.value (f : FloatFmt) (v : Nat) : FVal :=
  let neg := v.testBit (f.bits - 1)
  let mag := v % 2 ^ (f.bits - 1)
  if f.top < mag then
    if f.inf = some mag then .inf neg else .nan
  else
    let ex := mag / 2 ^ f.frac
    let fr := mag % 2 ^ f.frac
    if ex = 0 then .fin neg fr (1 - (f.bias : Int) - f.frac)
    else .fin neg (2 ^ f.frac + fr) ((ex : Int) - f.bias - f.frac)

/-- m / 2^s to the nearest integer, ties to even (R63). -/
def roundShift (m s : Nat) : Nat :=
  if s = 0 then m
  else
    let q := m / 2 ^ s
    let r := m % 2 ^ s
    if 2 ^ (s - 1) < r ∨ (r = 2 ^ (s - 1) ∧ q % 2 = 1) then q + 1 else q

/-- m × 2^e to the nearest integer, ties to even. -/
def roundInt (m : Nat) (e : Int) : Nat := if 0 ≤ e then m * 2 ^ e.toNat else roundShift m (-e).toNat

/-- The magnitude code of m × 2^e, rounded once; above `top` when it overflows (R63). -/
def FloatFmt.magCode (f : FloatFmt) (m : Nat) (e : Int) : Nat :=
  if m = 0 then 0
  else
    let ex := max ((m.log2 : Int) + e) (1 - (f.bias : Int))
    let n := roundInt m (e - (ex - f.frac))
    (ex + f.bias - 1).toNat * 2 ^ f.frac + n

def FloatFmt.withSign (f : FloatFmt) (neg : Bool) (mag : Nat) : Nat := if neg then 2 ^ (f.bits - 1) + mag else mag

/-- The conversion of a value to a format (R63, R64, R67). -/
def FloatFmt.round (f : FloatFmt) (x : FVal) : Nat :=
  match x with
  | .nan => f.nan
  | .inf neg => match f.inf with
    | some c => f.withSign neg c
    | none => f.nan
  | .fin neg m e =>
    let c := f.magCode m e
    if c ≤ f.top then f.withSign neg c
    else if f.sat then f.withSign neg f.top
    else match f.inf with
      | some i => f.withSign neg i
      | none => f.withSign neg f.top

/-- The conversion of a value to an integer of `w` bits (R67): rounded, clamped, NaN to 0. -/
def toIntFmt (w : Nat) (x : FVal) : Int :=
  let hi : Int := 2 ^ (w - 1) - 1
  let lo : Int := -(2 ^ (w - 1))
  match x with
  | .nan => 0
  | .inf neg => if neg then lo else hi
  | .fin neg m e => max lo (min hi (signed neg (roundInt m e)))

/-- A two's complement number of `w` bits. -/
def sintOf (w v : Nat) : Int := if v.testBit (w - 1) then (v % 2 ^ w : Nat) - (2 : Int) ^ w else (v % 2 ^ w : Nat)

/-- The `w` low bits of an integer. -/
def bitsOf (w : Nat) (i : Int) : Nat := (i % (2 : Int) ^ w).toNat

/-! ## Format codes (R75, R200) -/

/-- The floating format of a code. -/
def floatOf (code : Nat) : Option FloatFmt :=
  match code with
  | 1 => some fmt32 | 2 => some fmtBf | 3 => some fmtE4 | 4 => some fmtE5 | _ => none

/-- The element bits of a code: 4 for the packed formats (R68, R75). Code 0 is one byte (RAW). -/
def elemBits (code : Nat) : Nat :=
  match code with
  | 0 => 8 | 1 => 32 | 2 => 16 | 3 => 8 | 4 => 8 | 5 => 8 | 6 => 4 | 7 => 8 | 8 => 8 | 9 => 4 | 0xA => 8 | 0xB => 24
  | 0xC => 16 | _ => 8

/-- Whether a code is an MX-delta format. -/
def isMx (code : Nat) : Bool := 7 ≤ code && code ≤ 0xA

/-- The width of an integer format, INT8 or INT4. -/
def intBits (code : Nat) : Option Nat := match code with | 5 => some 8 | 6 => some 4 | _ => none

/-- The value of an element of a plain format, 1 to 6 (R65, R66). -/
def plainValue (code v : Nat) : FVal :=
  match floatOf code with
  | some f => f.value v
  | none => match intBits code with
    | some w => .ofInt (sintOf w v) 0
    | none => .ofInt (sintOf 32 v) 0

/-- The conversion to a plain format, 1 to 6 (R67). -/
def plainRound (code : Nat) (x : FVal) : Nat :=
  match floatOf code with
  | some f => f.round x
  | none => match intBits code with
    | some w => bitsOf w (toIntFmt w x)
    | none => bitsOf 32 (toIntFmt 32 x)

/-! ## FP32 operations -/

def val32 (v : Word32) : FVal := fmt32.value v.toNat
def round32 (x : FVal) : Word32 := BitVec.ofNat 32 (fmt32.round x)

/-- ⊕ on FP32 values (R7). -/
def fadd32 (a b : Word32) : Word32 := round32 ((val32 a).add (val32 b))

/-- The lesser and greater by R142 and R207: −0 below +0, and NaN for a NaN operand. -/
def FVal.lesser (x y : FVal) : FVal := if x.isNan || y.isNan then .nan else if y.less true x then y else x
def FVal.greater (x y : FVal) : FVal := if x.isNan || y.isNan then .nan else if x.less true y then y else x

/-! ## Elements in memory (R68) -/

/-- The bits of element `i` in a run of bytes. -/
def elemAt (bits : Nat) (bs : List Byte) (i : Nat) : Nat :=
  if bits = 4 then bytesFld bs (i / 2) 1 / 16 ^ (i % 2) % 16 else bytesFld bs (i * (bits / 8)) (bits / 8)

/-- Pack 4-bit elements two to a byte, the even one low. -/
def packNibbles : List Nat → List Byte
  | [] => []
  | [a] => [BitVec.ofNat 8 (a % 16)]
  | a :: b :: r => BitVec.ofNat 8 (a % 16 + b % 16 * 16) :: packNibbles r

/-- The bytes of elements of `bits` bits (R68). -/
def packElems (bits : Nat) (vs : List Nat) : List Byte :=
  if bits = 4 then packNibbles vs else vs.flatMap fun v => bytesOf (bits / 8) v

/-! ## MX-delta (R69-R74) -/

/-- The value of an MX-delta element before block scaling (R65, R66). -/
def mxElem (code v : Nat) : FVal :=
  match code with
  | 7 => fmtE4.value v
  | 8 => fmtE5.value v
  | 9 => fmtE2.value v
  | _ => .ofInt (sintOf 8 v) (-6)

/-- The value of an MX-delta element under its delta and the tile base (R70, R71). -/
def mxValue (code v d : Nat) (b : Int) : FVal := if d = 15 then .nan else (mxElem code v).scale (b + d)

/-- The exponent of an element type's largest finite value (R73). -/
def emax (code : Nat) : Int := match code with | 9 => 2 | 7 => 8 | 8 => 15 | _ => 0

/-- An element of an MX-delta format from its unscaled value, saturating (R67, R72, R73). -/
def mxRound (code : Nat) (x : FVal) : Nat :=
  match code with
  | 7 => fmtE4.round x
  | 8 => fmtE5.round x
  | 9 => fmtE2.round x
  | _ => bitsOf 8 (toIntFmt 8 (x.scale 6))

/-- The greatest exponent among the nonzero values of a block. -/
def blockExponent (vs : List FVal) : Option Int :=
  vs.foldl (fun m v => if v.isZero then m else some (match m with | none => v.exponent | some x => max x v.exponent)) none

/-- The exponent a block asks for (R73): none when a value is NaN or infinite; `some none` when every value is zero. -/
def blockAsk (code : Nat) (vs : List FVal) : Option (Option Int) :=
  if vs.any fun v => !v.isFin then none
  else match blockExponent vs with
    | none => some none
    | some x => some (some (x - emax code))

/-- The base over the blocks of a command (R73). -/
def mxBase (asks : List (Option (Option Int))) : Int :=
  match asks.foldl (fun m a => match a with | some (some x) => some (match m with | none => x | some y => max x y) | _ => m) (none : Option Int) with
  | none => 0
  | some x => max (x - 14) (-128)

/-- The delta and elements of a block under a base (R73); `top` bounds the delta (R212). -/
def mxBlock (code : Nat) (b : Int) (vs : List FVal) : Nat × List Nat :=
  match blockAsk code vs with
  | none => (15, vs.map fun _ => 0)
  | some none => (0, vs.map fun v => mxRound code (v.scale (-b)))
  | some (some x) =>
    let d := min (max (x - b) 0) 14
    (d.toNat, vs.map fun v => mxRound code (v.scale (-(b + d))))

/-! ## The skein generator (R80-R83) -/

def skeinRound (w : Word32 × Word32 × Word32 × Word32) (k : Word32) : Word32 × Word32 × Word32 × Word32 :=
  let w0 := w.1 + w.2.1 + k
  let w3 := (w.2.2.2 ^^^ w0).rotateLeft 16
  let w2 := w.2.2.1 + w3
  let w1 := (w.2.1 ^^^ w2).rotateLeft 12
  (w0, w1, w2, w3)

/-- The 128 bits of a draw (R80). -/
def skein (seed : Word) (stream member : BitVec 16) (ctr : Word32) : BitVec 128 :=
  let s0 := (seed.extractLsb' 0 32, seed.extractLsb' 32 32, (member ++ stream : BitVec 32), ctr)
  let s := ([0x9E3779B9, 0x3C6EF372, 0xDAA66D2B, 0x78DDE6E4, 0x1715609D, 0xB54CDA56] : List Word32).foldl skeinRound s0
  s.2.2.2 ++ s.2.2.1 ++ s.2.1 ++ s.1

/-- 1,024 times the Gaussian deviate of a draw (R81). -/
def gaussOf (out : BitVec 128) : Int :=
  ((List.range 12).foldl (fun n j => n + fld out (10 * j) 10) 0 : Nat) - (6138 : Int)

/-- Field i of a uniform or dropout draw (R82). -/
def fieldOf (out : BitVec 128) (i : Nat) : Nat := fld out (16 * i) 16

/-! ## Weight pairs (R77-R79) -/

/-- T[i] of R78. -/
def sigmaTable (i : Nat) : Word32 :=
  match i with
  | 0 => 0x3F800000 | 1 => 0x3F85AAC3 | 2 => 0x3F8B95C2 | 3 => 0x3F91C3D3 | 4 => 0x3F9837F0 | 5 => 0x3F9EF532
  | 6 => 0x3FA5FED7 | 7 => 0x3FAD583F | 8 => 0x3FB504F3 | 9 => 0x3FBD08A4 | 10 => 0x3FC5672A | 11 => 0x3FCE248C
  | 12 => 0x3FD744FD | 13 => 0x3FE0CCDF | 14 => 0x3FEAC0C7 | _ => 0x3FF5257D

/-- σ of a log-deviation (R78). -/
def sigmaOf (q : Int) : FVal := (val32 (sigmaTable (q % 16).toNat)).scale (q / 16)

/-- The format of a pair's mean: BF16 in P24, E4M3 in P16 (R77). -/
def pairFmt (code : Nat) : FloatFmt := if code = 0xB then fmtBf else fmtE4

/-- The perturbed operand of a pair (R79), as bits of its operand format. -/
def perturb (code v : Nat) (eps : Int) : Nat :=
  let f := pairFmt code
  let mu := f.value (v % 2 ^ f.bits)
  let q := sintOf 8 (v / 2 ^ f.bits)
  f.round (val32 (round32 (mu.add ((sigmaOf q).mul (.ofInt eps (-10))))))

/-! ## Matrix sums (R84-R87) -/

/-- The sum of a chunk of exact products (R85). -/
def chunkSum (ps : List FVal) : Word32 :=
  if ps.any (·.isNan) || (ps.contains (.inf false) && ps.contains (.inf true)) then BitVec.ofNat 32 fmt32.nan
  else if ps.contains (.inf false) then round32 (.inf false)
  else if ps.contains (.inf true) then round32 (.inf true)
  else match blockExponent ps with
    | none => 0
    | some em =>
      let acc := ps.foldl (fun (acc : Int) p =>
        match p with
        | .fin neg m e =>
          let k := e + 19 - em
          acc + signed neg (if 0 ≤ k then m * 2 ^ k.toNat else m / 2 ^ (-k).toNat)
        | _ => acc) 0
      round32 (.ofInt acc (em - 19))

/-- The compensated update of an accumulator element (R86). -/
def AccElem.update (z : AccElem) (c : Word32) : AccElem :=
  let s1 := fadd32 z.s c
  let t := if (val32 s1).isFin then round32 (((val32 z.s).add (val32 c)).sub (val32 s1)) else 0
  ⟨s1, fadd32 z.e t⟩

/-- The read-out of an accumulator element to a format (R87). -/
def AccElem.out (z : AccElem) (f : FloatFmt) : Nat := f.round ((val32 z.s).add (val32 z.e))

end Sys2Proof.Machine
end

