-- ==== Sys2Proof/Machine/Vector.lean ====
section
/-! DEFINITION. Vector arithmetic on the operand file (08 R199-R214, R217-R219, R222, R224): lanes, operand B, last-use
clearing, elementwise forms, conversions, reductions, scans, random draws and permutes. -/

namespace Sys2Proof.Machine

/-! ## Lanes (R200, R201) -/

/-- The lanes of a register at a lane width. -/
def lanesOf (w : Nat) (v : VReg) : List Nat := (List.range (4096 / w)).map fun i => v.toNat / 2 ^ (w * i) % 2 ^ w

/-- Lanes packed from lane 0 up; what is left of the register is zero. -/
def packLanes (w : Nat) : List Nat → Nat
  | [] => 0
  | x :: xs => x % 2 ^ w + 2 ^ w * packLanes w xs

def vregOf (w : Nat) (xs : List Nat) : VReg := BitVec.ofNat 4096 (packLanes w xs)

/-- Element `i` of a list of numbers, zero past its end. -/
def nth (xs : List Nat) (i : Nat) : Nat := xs.getD i 0

/-- A w register. -/
def Engine.wReg (e : Engine) (n : Nat) : VReg := e.w[idx8 n]

/-- A v register: zero until something lands in it (R199). -/
def Engine.vReg (e : Engine) (n : Nat) : VReg := e.v.getD (n % 128) 0

/-- The elements of a group of `k` w registers from `n` on, in element order (R201). -/
def Engine.groupLanes (e : Engine) (n k w : Nat) : List Nat :=
  let regs := (List.range k).map fun j => lanesOf w (e.wReg (n + j))
  (List.range (k * (4096 / w))).map fun i => nth (regs.getD (i % k) []) (i / k)

/-- The writes of elements to a group of `k` w registers from `n` on (R201). -/
def groupWrites (n k w : Nat) (xs : List Nat) : List Write :=
  (List.range k).map fun j => .w (idx8 (n + j)) (vregOf w ((List.range (4096 / w)).map fun l => nth xs (l * k + j)))

/-! ## Sources (R202, R205) -/

/-- Which sources a form reads: groups of w registers with their last-use bits, and scalar registers. -/
structure VSrc where
  a : Nat := 1
  b : Bool := false
  x : Bool := false
  scal : List Nat := []

def wGroup (n k : Nat) : List (Fin 8) := (List.range k).map fun j => idx8 (n + j)

/-- The registers a form reads. -/
def VSrc.reads (u : VSrc) (e : Engine) (f : LV) : List Dest :=
  (if u.a = 0 then [] else (wGroup f.wa.toNat u.a).map .w) ++ (if u.b then [.w (idx8 f.wb.toNat)] else [])
    ++ (if u.x then [.w (idx8 f.wx.toNat)] else []) ++ u.scal.map e.destOf

/-- The clearing writes of last-use sources: zero, landing at the end of the issue cycle (R202). -/
def VSrc.clears (u : VSrc) (f : LV) (c : Nat) : List Landing :=
  ((if f.lu.getLsbD 0 then wGroup f.wa.toNat u.a else []) ++ (if f.lu.getLsbD 1 && u.b then [idx8 f.wb.toNat] else [])
    ++ (if f.lu.getLsbD 2 && u.x then [idx8 f.wx.toNat] else [])).map fun i => ⟨.w i 0, c⟩

/-- The common course of a layout V instruction (R202, R224). -/
def vecOp (s : State) (f : LV) (lat : Nat) (u : VSrc) (faults : List (Option (Nat × Nat))) (result : Engine → List Write) : Out :=
  onEngine s fun e c =>
    let ws := u.clears f c ++ (result e).map fun w => ⟨w, c + lat - 1⟩
    guarded s e c (u.reads e f) ws faults (finish s e c f.imm.words f.stall.toNat ws)

/-- A result of one register. -/
def toW (f : LV) (v : VReg) : List Write := [.w (idx8 f.wd.toNat) v]

/-- The lanes of operand B (R205). -/
def Engine.bLanes (e : Engine) (f : LV) (w : Nat) : List Nat :=
  match f.bKind with
  | 0 => lanesOf w (e.wReg f.wb.toNat)
  | 1 => List.replicate (4096 / w) ((e.val f.sx.toNat + BitVec.ofInt 64 f.imm.val).toNat % 2 ^ w)
  | _ => List.replicate (4096 / w) ((BitVec.ofInt 64 f.imm.val).toNat % 2 ^ w)

/-- The sources of a form that takes A and B, and X when `x` is set. -/
def srcAB (f : LV) (x : Bool) : VSrc := ⟨1, f.bKind == 0, x, if f.bKind = 1 then [f.sx.toNat] else []⟩

/-! ## Elementwise forms (R206, R207) -/

/-- Apply a lane function of A, B and X. -/
def zip3 (g : Nat → Nat → Nat → Nat) : List Nat → List Nat → List Nat → List Nat
  | a :: as, b :: bs, x :: xs => g a b x :: zip3 g as bs xs
  | _, _, _ => []

/-- Wrap an exact integer to a lane, or clamp it (R207). -/
def laneInt (w : Nat) (sat : Bool) (v : Int) : Nat :=
  if sat then bitsOf w (max (-(2 ^ (w - 1))) (min (2 ^ (w - 1) - 1) v)) else bitsOf w v

/-- An integer lane read signed, or unsigned (R207). -/
def laneVal (w : Nat) (uns : Bool) (v : Nat) : Int := if uns then (v % 2 ^ w : Nat) else sintOf w v

/-- Whether a lane format is floating (R200). -/
def isFloat (code : Nat) : Bool := (floatOf code).isSome

/-- An elementwise form with a floating and an integer meaning. -/
def arithOp (s : State) (f : LV) (x : Bool) (latF latI : Nat) (fl : FVal → FVal → FVal → FVal) (int : Nat → Nat → Nat → Nat → Nat) : Out :=
  let code := f.fd.toNat
  let w := laneBits code
  let g (a b y : Nat) : Nat :=
    if isFloat code then plainRound code (fl (plainValue code a) (plainValue code b) (plainValue code y)) else int w a b y
  vecOp s f (if isFloat code then latF else latI) (srcAB f x) [] fun e =>
    toW f (vregOf w (zip3 g (lanesOf w (e.wReg f.wa.toNat)) (e.bLanes f w)
      (if x then lanesOf w (e.wReg f.wx.toNat) else lanesOf w 0)))

/-- The suffix in mod bit 0: `.sat` or `.uns` (R206). -/
def m0 (f : LV) : Bool := f.mod.getLsbD 0

/-- vadd (R206). -/
def execVadd (f : LV) (s : State) : Out :=
  arithOp s f false 4 2 (fun a b _ => a.add b) fun w a b _ => laneInt w (m0 f) (sintOf w a + sintOf w b)

/-- vsub (R206). -/
def execVsub (f : LV) (s : State) : Out :=
  arithOp s f false 4 2 (fun a b _ => a.sub b) fun w a b _ => laneInt w (m0 f) (sintOf w a - sintOf w b)

/-- vmul (R206). -/
def execVmul (f : LV) (s : State) : Out :=
  arithOp s f false 4 4 (fun a b _ => a.mul b) fun w a b _ => laneInt w (m0 f) (sintOf w a * sintOf w b)

/-- vfma: the exact product and sum, rounded once (R206, R207). -/
def execVfma (f : LV) (s : State) : Out :=
  arithOp s f true 4 4 (fun a b x => (a.mul b).add x) fun w a b x => laneInt w false (sintOf w a * sintOf w b + sintOf w x)

/-- vfms (R206). -/
def execVfms (f : LV) (s : State) : Out :=
  arithOp s f true 4 4 (fun a b x => (a.mul b).sub x) fun w a b x => laneInt w false (sintOf w a * sintOf w b - sintOf w x)

/-- vmin (R206, R142). -/
def execVmin (f : LV) (s : State) : Out :=
  arithOp s f false 4 2 (fun a b _ => a.lesser b) fun w a b _ => if laneVal w (m0 f) b < laneVal w (m0 f) a then b else a

/-- vmax (R206, R142). -/
def execVmax (f : LV) (s : State) : Out :=
  arithOp s f false 4 2 (fun a b _ => a.greater b) fun w a b _ => if laneVal w (m0 f) a < laneVal w (m0 f) b then b else a

/-- A form of A alone. -/
def unaryOp (s : State) (f : LV) (fl : FVal → FVal) (int : Int → Int) : Out :=
  let code := f.fd.toNat
  let w := laneBits code
  let g (a : Nat) : Nat :=
    if isFloat code then plainRound code (fl (plainValue code a)) else laneInt w (m0 f) (int (sintOf w a))
  vecOp s f (if isFloat code then 4 else 2) {} [] fun e => toW f (vregOf w ((lanesOf w (e.wReg f.wa.toNat)).map g))

/-- vabs (R206, R207). -/
def execVabs (f : LV) (s : State) : Out := unaryOp s f FVal.abs fun a => a.natAbs

/-- vneg (R206, R207). -/
def execVneg (f : LV) (s : State) : Out := unaryOp s f FVal.neg fun a => -a

/-- A form on the bits of lanes. -/
def bitsOp (s : State) (f : LV) (x : Bool) (g : Nat → Nat → Nat → Nat → Nat) : Out :=
  let w := laneBits f.fd.toNat
  vecOp s f 2 (srcAB f x) [] fun e =>
    toW f (vregOf w (zip3 (g w) (lanesOf w (e.wReg f.wa.toNat)) (e.bLanes f w)
      (if x then lanesOf w (e.wReg f.wx.toNat) else lanesOf w 0)))

/-- vand (R206). -/
def execVand (f : LV) (s : State) : Out := bitsOp s f false fun _ a b _ => a &&& b
/-- vor (R206). -/
def execVor (f : LV) (s : State) : Out := bitsOp s f false fun _ a b _ => a ||| b
/-- vxor (R206). -/
def execVxor (f : LV) (s : State) : Out := bitsOp s f false fun _ a b _ => a ^^^ b
/-- vshl (R206). -/
def execVshl (f : LV) (s : State) : Out := bitsOp s f false fun w a b _ => a * 2 ^ (b % w) % 2 ^ w
/-- vshr; `.ari` fills with the sign (R206). -/
def execVshr (f : LV) (s : State) : Out :=
  bitsOp s f false fun w a b _ => if m0 f then bitsOf w (sintOf w a / 2 ^ (b % w)) else a / 2 ^ (b % w)
/-- vsel: A where X is not zero, else B (R206). -/
def execVsel (f : LV) (s : State) : Out := bitsOp s f true fun _ a b x => if x = 0 then b else a

/-! ## Comparison (R208) -/

/-- Whether a comparison of kind `k` holds, from less and equal; `nan` makes every kind but .ne false. -/
def cmpKind (k : Nat) (nan lt eq : Bool) : Bool :=
  match k with
  | 0 => !nan && eq
  | 1 => nan || !eq
  | 2 => !nan && lt
  | 3 => !nan && (lt || eq)
  | 4 => !nan && !lt && !eq
  | _ => !nan && !lt

/-- vcmp: all ones where the comparison holds (R208). -/
def execVcmp (f : LV) (s : State) : Out :=
  let code := f.fd.toNat
  let w := laneBits code
  let g (a b _x : Nat) : Nat :=
    let p := plainValue code a
    let q := plainValue code b
    let r := if isFloat code then cmpKind f.wx.toNat (p.isNan || q.isNan) (p.less false q) (p.same q)
      else cmpKind f.wx.toNat false (decide (laneVal w (m0 f) a < laneVal w (m0 f) b)) (a == b)
    if r then 2 ^ w - 1 else 0
  vecOp s f 2 (srcAB f false) [] fun e =>
    toW f (vregOf w (zip3 g (lanesOf w (e.wReg f.wa.toNat)) (e.bLanes f w) (lanesOf w 0)))

/-! ## Splats and conversions (R209-R212) -/

/-- vsplat (R209). -/
def execVsplat (f : LV) (s : State) : Out :=
  let w := laneBits f.fd.toNat
  vecOp s f 2 ⟨0, false, false, [f.sx.toNat]⟩ [] fun e =>
    let lane (i : Nat) : Nat :=
      if m0 f then (e.val f.sx.toNat + BitVec.ofNat 64 i * BitVec.ofInt 64 f.imm.val).toNat % 2 ^ 32
      else (e.val f.sx.toNat + BitVec.ofInt 64 f.imm.val).toNat % 2 ^ w
    toW f (vregOf w ((List.range (4096 / w)).map lane))

/-- The bytes of a register. -/
def vBytes (v : VReg) : List Byte := bytesOf 512 v.toNat

/-- Whether a vcvt or vqmx has an MX-delta side (R210, R212). -/
def baseOf (e : Engine) (f : LV) : Int := sintOf 8 (fld (e.val f.sx.toNat) 0 8)

/-- vcvt (R210). -/
def execVcvt (f : LV) (s : State) : Out :=
  let fs := f.fs.toNat
  let fd := f.fd.toNat
  if isMx fs then
    vecOp s f 4 ⟨1, true, false, [f.sx.toNat]⟩ [] fun e =>
      let bs := vBytes (e.wReg f.wa.toNat)
      let lane (i : Nat) : Nat :=
        (round32 (mxValue fs (elemAt (elemBits fs) bs i) (fld (e.wReg f.wb.toNat) (4 * (i / 32)) 4) (baseOf e f))).toNat
      toW f (vregOf 32 ((List.range 128).map lane))
  else
    vecOp s f 4 {} [] fun e =>
      toW f (vregOf (laneBits fd) ((lanesOf (laneBits fs) (e.wReg f.wa.toNat)).map fun v => plainRound fd (plainValue fs v)))

/-- A group of `k` registers whose first index is not a multiple of k (R201, R390). -/
def groupFault (n k op bit : Nat) (len : Nat) : Option (Nat × Nat) := check (n % k != 0) (illOperand len op bit 1)

/-- vwid (R211). -/
def execVwid (f : LV) (s : State) : Out :=
  let fs := f.fs.toNat
  let fd := f.fd.toNat
  let k := laneBits fd / laneBits fs
  vecOp s f 4 {} [groupFault f.wd.toNat k 0x119 20 f.imm.len] fun e =>
    groupWrites f.wd.toNat k (laneBits fd) ((lanesOf (laneBits fs) (e.wReg f.wa.toNat)).map fun v => plainRound fd (plainValue fs v))

/-- vnar (R211). -/
def execVnar (f : LV) (s : State) : Out :=
  let fs := f.fs.toNat
  let fd := f.fd.toNat
  let k := laneBits fs / laneBits fd
  vecOp s f 4 { a := k } [groupFault f.wa.toNat k 0x11A 23 f.imm.len] fun e =>
    toW f (vregOf (laneBits fd) ((e.groupLanes f.wa.toNat k (laneBits fs)).map fun v => plainRound fd (plainValue fs v)))

/-- The delta and elements of a block of vqmx (R212): a block of zeros gives zero bits. -/
def quantBlock (code : Nat) (b : Int) (vs : List FVal) : Nat × List Nat :=
  if vs.all (·.isZero) then (0, vs.map fun _ => 0) else mxBlock code b vs

/-- vqmx (R212). -/
def execVqmx (f : LV) (s : State) : Out :=
  let fd := f.fd.toNat
  vecOp s f 6 ⟨1, false, false, [f.sx.toNat]⟩ [] fun e =>
    let vs := (lanesOf 32 (e.wReg f.wa.toNat)).map fmt32.value
    let blocks := (List.range 4).map fun j => quantBlock fd (baseOf e f) ((vs.drop (32 * j)).take 32)
    if m0 f then toW f (vregOf 4 (blocks.map (·.1)))
    else toW f (vregOf (elemBits fd) (blocks.flatMap (·.2)))

/-! ## Reductions and scans (R213, R214) -/

/-- One level of the ordered tree. -/
def pairUp : List Word32 → List Word32
  | a :: b :: r => fadd32 a b :: pairUp r
  | r => r

/-- The ordered tree over 2^n lanes (R213). -/
def treeSum : Nat → List Word32 → Word32
  | 0, xs => xs.headD 0
  | n + 1, xs => treeSum n (pairUp xs)

/-- Combine the neighbours at position `p` of a list. -/
def combineAt : Nat → List Word32 → List Word32
  | 0, a :: b :: r => fadd32 a b :: r
  | p + 1, a :: r => a :: combineAt p r
  | _, r => r

/-- Some association of ⊕ over a list, chosen by the free value `k` (R213, R214; log 9). -/
def someSum (k : Nat) : Nat → List Word32 → Word32
  | 0, xs => xs.headD 0
  | n + 1, xs => someSum k n (combineAt (Config.pick k n % (xs.length - 1)) xs)

/-- The lanes of a floating register widened to FP32. -/
def widen32 (code : Nat) (xs : List Nat) : List Word32 := xs.map fun v => round32 (plainValue code v)

/-- Whether a form is unordered: mod bit 2 (R167, R213). -/
def unordered (f : LV) : Bool := f.mod.getLsbD 2

/-- vrsum (R213). -/
def execVrsum (f : LV) (s : State) : Out :=
  let fs := f.fs.toNat
  let w := laneBits fs
  let k := s.fresh
  vecOp { s with fresh := s.fresh + 1 } f (if unordered f then 8 else 10) {} [] fun e =>
    let xs := lanesOf w (e.wReg f.wa.toNat)
    let sum : Nat :=
      if isFloat fs then
        (if unordered f then someSum k (xs.length - 1) (widen32 fs xs) else treeSum (Nat.log2 xs.length) (widen32 fs xs)).toNat
      else bitsOf 32 (xs.foldl (fun (a : Int) v => a + sintOf w v) 0)
    toW f (vregOf 32 [sum])

/-- vrmax and vrmin: the greatest or least lane (R213). -/
def extreme (s : State) (f : LV) (fl : FVal → FVal → FVal) (less : Int → Int → Bool) : Out :=
  let fs := f.fs.toNat
  let w := laneBits fs
  vecOp s f 6 {} [] fun e =>
    let xs := lanesOf w (e.wReg f.wa.toNat)
    let best (a b : Nat) : Nat :=
      if isFloat fs then plainRound fs (fl (plainValue fs a) (plainValue fs b))
      else if less (laneVal w (m0 f) b) (laneVal w (m0 f) a) then b else a
    toW f (vregOf w [xs.tail.foldl best (xs.headD 0)])

/-- vrmax (R213). -/
def execVrmax (f : LV) (s : State) : Out := extreme s f FVal.greater fun b a => decide (a < b)
/-- vrmin (R213). -/
def execVrmin (f : LV) (s : State) : Out := extreme s f FVal.lesser fun b a => decide (b < a)

/-- Prefix sums from an accumulator. -/
def scanSums (g : Nat → Nat → Nat) : Nat → List Nat → List Nat
  | _, [] => []
  | acc, x :: xs => g acc x :: scanSums g (g acc x) xs

/-- The ordered scan: y_0 := x_0 and y_i := g y_i−1 x_i (R214). -/
def scanList (g : Nat → Nat → Nat) (xs : List Nat) : List Nat :=
  match xs with
  | [] => []
  | x :: r => x :: scanSums g x r

/-- vscan (R214). -/
def execVscan (f : LV) (s : State) : Out :=
  let fs := f.fs.toNat
  let k := s.fresh
  vecOp { s with fresh := s.fresh + 128 } f (if unordered f then 10 else 12) {} [] fun e =>
    let xs := lanesOf 32 (e.wReg f.wa.toNat)
    let add32 (a b : Nat) : Nat := (fadd32 (BitVec.ofNat 32 a) (BitVec.ofNat 32 b)).toNat
    let ys :=
      if isFloat fs then
        if unordered f then (List.range 128).map fun i => (someSum (k + i) i ((xs.take (i + 1)).map (BitVec.ofNat 32 ·))).toNat
        else scanList add32 (xs.map fun v => v)
      else scanList (fun a b => (a + b) % 2 ^ 32) xs
    toW f (vregOf 32 ys)

/-! ## Random draws (R217-R219) -/

/-- skein(n) for the scalar group at sx (R217). -/
def Engine.skeinAt (e : Engine) (f : LV) (n : Nat) : BitVec 128 :=
  let sx := f.sx.toNat
  skein (e.val sx) ((e.val (sx + 1)).extractLsb' 0 16) ((e.val (sx + 1)).extractLsb' 16 16) (BitVec.ofNat 32 n)

/-- The scalar group of a draw: `k` registers from sx, which is a multiple of k (R217, R390). -/
def drawGroup (f : LV) (k : Nat) : List Nat := (List.range k).map fun j => f.sx.toNat + j
def drawFault (f : LV) (k op : Nat) : Option (Nat × Nat) := check (f.sx.toNat % k != 0) (illOperand f.imm.len op 35 2)

/-- vskein (R218). -/
def execVskein (f : LV) (s : State) : Out :=
  vecOp s f 6 ⟨1, false, false, drawGroup f 2⟩ [drawFault f 2 0x130] fun e =>
    let ns := (lanesOf 32 (e.wReg f.wa.toNat)).take 32
    toW f (vregOf 128 (ns.map fun n => (e.skeinAt f n).toNat))

/-- vgauss (R218). -/
def execVgauss (f : LV) (s : State) : Out :=
  vecOp s f 8 ⟨1, false, false, drawGroup f 2⟩ [drawFault f 2 0x131] fun e =>
    toW f (vregOf 32 ((lanesOf 32 (e.wReg f.wa.toNat)).map fun n => (round32 (.ofInt (gaussOf (e.skeinAt f n)) (-10))).toNat))

/-- vunif (R218). -/
def execVunif (f : LV) (s : State) : Out :=
  vecOp s f 6 ⟨1, false, false, drawGroup f 2⟩ [drawFault f 2 0x132] fun e =>
    toW f (vregOf 32 ((lanesOf 32 (e.wReg f.wa.toNat)).map fun n =>
      (round32 (.ofInt (fieldOf (e.skeinAt f (n / 8)) (n % 8)) (-16))).toNat))

/-- The value 1 of a format in vdrop.m (R219). -/
def oneOf (code : Nat) : Nat := plainRound code (.ofInt 1 0)

/-- vdrop (R219). -/
def execVdrop (f : LV) (s : State) : Out :=
  let code := f.fd.toNat
  let w := laneBits code
  vecOp s f 6 ⟨0, !m0 f, false, drawGroup f 4⟩ [drawFault f 4 0x133] fun e =>
    let n0 := fld (e.val (f.sx.toNat + 2)) 0 32
    let h := fld (e.val (f.sx.toNat + 3)) 0 16
    let kept := lanesOf w (e.wReg f.wb.toNat)
    let lane (i : Nat) : Nat :=
      let n := (n0 + i) % 2 ^ 32
      if fieldOf (e.skeinAt f (n / 8)) (n % 8) < h then 0 else if m0 f then oneOf code else nth kept i
    toW f (vregOf w ((List.range (4096 / w)).map lane))

/-! ## Permutes and moves (R222, R203) -/

/-- vperm (R222). -/
def execVperm (f : LV) (s : State) : Out :=
  let w := laneBits f.fd.toNat
  let n := 4096 / w
  vecOp s f 4 ⟨1, true, true, []⟩ [] fun e =>
    let table := lanesOf w (e.wReg f.wa.toNat) ++ lanesOf w (e.wReg f.wx.toNat)
    toW f (vregOf w ((lanesOf w (e.wReg f.wb.toNat)).map fun i => nth table (i % (2 * n))))

/-- The group size of a vmov (R203). -/
def movCount (f : LVM) : Nat := match f.cnt.toNat with | 0 => 1 | 1 => 2 | _ => 4

/-- The alignment of both ends of a vmov (R203, R390). -/
def movFaults (f : LVM) (op : Nat) : List (Option (Nat × Nat)) :=
  [groupFault f.wn.toNat (movCount f) op 20 1, groupFault f.vn.toNat (movCount f) op 23 1]

/-- vmov.wv: w from v, latency 2 (R203). -/
def execVmovWv (f : LVM) (s : State) : Out :=
  onEngine s fun e c =>
    let js := List.range (movCount f)
    let ws : List Landing := js.map fun j => ⟨.w (idx8 (f.wn.toNat + j)) (e.vReg (f.vn.toNat + j)), c + 1⟩
    guarded s e c (js.map fun j => .v (idx128 (f.vn.toNat + j))) ws (movFaults f 0x100)
      (finish s e c 2 f.stall.toNat ws)

/-- vmov.vw: v from w, latency 2; the w source may be at its last use (R203). -/
def execVmovVw (f : LVM) (s : State) : Out :=
  onEngine s fun e c =>
    let js := List.range (movCount f)
    let clears : List Landing := if f.lu = 1 then js.map fun j => ⟨.w (idx8 (f.wn.toNat + j)) 0, c⟩ else []
    let ws : List Landing := clears ++ js.map fun j => ⟨.v (idx128 (f.vn.toNat + j)) (e.wReg (f.wn.toNat + j)), c + 1⟩
    guarded s e c (js.map fun j => .w (idx8 (f.wn.toNat + j))) ws (movFaults f 0x101)
      (finish s e c 2 f.stall.toNat ws)

end Sys2Proof.Machine
end

