-- ==== Sys2Proof/Machine/VecMem.lean ====
section
/-! DEFINITION. Vector loads, stores, gathers and scatters (08 R220, R221, R223), and the bank formats of a cluster's
scratchpad (04 R95, R96). -/

namespace Sys2Proof.Machine

/-! ## Banks (R93, R95, R96) -/

/-- Where a virtual address would lie, by the aperture or the tables as they stand: what fixes a bank format at issue, the
walk of a page that misses included (log 15). -/
def State.homePa (s : State) (id : EngId) (e : Engine) (va : Addr) : Option Nat :=
  if isLocal va then (if fld va 28 44 = 0 then some (ownPa id (fld va 0 28)) else none)
  else match s.translate id.slot e.asid va 0 with
    | .pa a => some a
    | .bad _ => none
    | .miss =>
      match s.walk e.homeBd e.asid (va.toNat / 4096) with
      | .page fr _ _ => some (fr * 4096 + va.toNat % 4096)
      | .bad _ => none

/-- The scratchpad banks that `n` bytes at a physical address touch, each with its format; none outside a cluster's
scratchpad (R93, R95). -/
def State.banksAt (s : State) (pa n : Nat) : List (Nat × Nat) :=
  match placeOf pa with
  | .pool slot c off =>
    let cl := s.cluster (clKey slot c)
    let size := fld cl.partw 16 8 * 0x800
    let o := off - scrBase cl.partw
    if off < scrBase cl.partw ∨ size = 0 ∨ scrBase cl.partw + scrSize cl.partw ≤ off then []
    else
      let b0 := o / size
      let b1 := min 31 ((o + (n - 1)) / size)
      (List.range (b1 + 1 - b0)).map fun j => (b0 + j, cl.bankFormat (b0 + j) (s.cycleNow (clKey slot c)))
  | _ => []

/-- The banks that bytes at a physical address touch, numbered across the package. -/
def State.bankKeys (s : State) (p : Nat × Nat) : List Nat :=
  match placeOf p.1 with
  | .pool slot c _ => (s.banksAt p.1 p.2).map fun b => clKey slot c * 32 + b.1
  | _ => []

/-- Whether another access, or a transfer's payload under way, may use a bank of these bytes (R97, R362). -/
def State.banksShared (s : State) (pas : List (Nat × Nat)) : Bool :=
  let mine := pas.flatMap s.bankKeys
  (s.accesses.any fun a => a.pas.any fun p => (s.bankKeys p).any mine.contains)
    || s.engines.any fun p => p.2.transfers.any fun t => t.begun && !t.moved

/-- The cycle by whose end a write of `n` bytes into the own scratchpad that issues in cycle `c` has performed (R362): a bank that
another access uses adds cycles, a free number of them (R97, log 7). -/
def State.writtenBy (s : State) (pas : List (Nat × Nat)) (n c : Nat) : Nat × State :=
  if s.banksShared pas then
    let (k, s) := s.lat
    (c + ceilDiv n 256 + k, s)
  else (c + ceilDiv n 256, s)

/-- The detail of a format mismatch (R388). -/
def fmtDetail (op kind bank found need : Nat) : Nat := op * 2 ^ 16 + kind * 2 ^ 13 + bank * 2 ^ 8 + found * 2 ^ 4 + need

/-- A format mismatch. -/
def fmtFault (op kind bank found need : Nat) : Nat × Nat := (0x0003, fmtDetail op kind bank found need)

/-- Whether touched banks have different formats: the first that differs from the first of all (R96, R388 kind 4). -/
def spanFault (op : Nat) (banks : List (Nat × Nat)) : Option (Nat × Nat) :=
  match banks with
  | [] => none
  | (_, f0) :: r => (r.find? fun p => p.2 != f0).map fun p => fmtFault op 4 p.1 p.2 f0

/-! ## What a vld or vst moves (R220) -/

/-- The memory side of a vld or vst: the format converted with (0: unchanged), the bytes moved, and the format fault. -/
structure VMove where
  conv : Nat
  bytes : Nat
  bad : Option (Nat × Nat)
  deriving DecidableEq, Repr

/-- The scratchpad banks that `n` bytes at a virtual address touch, page by page (R95, R96). -/
def State.banksOf (s : State) (id : EngId) (e : Engine) (va : Addr) (n : Nat) : List (Nat × Nat) :=
  if n = 0 then []
  else (cutPages va (n / 4096 + 2) n).flatMap fun p => match s.homePa id e p.1 with | some pa => s.banksAt pa p.2 | none => []

/-- The move of a register format `f` at an address (R220). -/
def State.vmove (s : State) (id : EngId) (e : Engine) (op f : Nat) (va : Addr) : VMove :=
  if f = 0 then ⟨0, 512, none⟩
  else match s.homePa id e va with
    | none => ⟨0, 512, none⟩
    | some pa =>
      match s.banksAt pa 1 with
      | [] => ⟨0, 512, spanFault op (s.banksOf id e va 512)⟩
      | (b, bf) :: _ =>
        if bf = f ∨ bf = 0 then ⟨0, 512, spanFault op (s.banksOf id e va 512)⟩
        else if bf ≤ 6 then
          let n := 4096 / laneBits f * elemBits bf / 8
          ⟨bf, n, spanFault op (s.banksOf id e va n)⟩
        else ⟨0, 512, some (fmtFault op (if 0xD ≤ bf then 3 else 1) b bf f)⟩

/-- The register a vld writes: the bytes unchanged, or each element converted (R220). -/
def vloadValue (conv f : Nat) (bs : List Byte) : VReg :=
  if conv = 0 then BitVec.ofNat 4096 (natOf bs)
  else vregOf (laneBits f) ((List.range (4096 / laneBits f)).map fun i => plainRound f (plainValue conv (elemAt (elemBits conv) bs i)))

/-- The bytes a vst writes (R220). -/
def vstoreBytes (conv f : Nat) (v : VReg) : List Byte :=
  if conv = 0 then vBytes v
  else packElems (elemBits conv) ((lanesOf (laneBits f) v).map fun x => plainRound conv (plainValue f x))

/-- The alignment of a vld or vst: the bytes of a bank element, 1 for an unchanged move (R220). -/
def vAlign (m : VMove) : Nat := if m.conv = 0 then 1 else max 1 (elemBits m.conv / 8)

/-- vld (R220, R223, R224). -/
def execVld (f : LG) (s : State) : Out :=
  onEngine s fun e c =>
    let fmt := f.mod.toNat
    let va := e.ea f.a.toNat f.b.toNat f.imm.val
    let m := s.vmove s.cur e 0x138 fmt va
    let reads := [e.destOf f.a.toNat, e.destOf f.b.toNat]
    let d := idx8 f.d.toNat
    match isLocal va, misalignedAt (vAlign m) [(va, m.bytes)], s.ownAperture s.cur va m.bytes with
    | true, none, some pa =>
      let ws : List Landing := [⟨.w d (vloadValue m.conv fmt (s.view (.eng s.cur) pa m.bytes)), c + (if m.conv = 0 then 5 else 6)⟩]
      guarded s e c reads ws [m.bad] <|
        if s.acquiring e ∨ s.mustFollow s.cur pathV f.cls.toNat s.nextId [(pa, m.bytes)] then .next (holdOne s)
        else if s.poisoned pa m.bytes then .next (poisonFault s e 1 s.cur.slot)
        else finish s e c f.imm.words f.stall.toNat ws
    | _, _, _ =>
      guarded s e c reads [] [m.bad] <|
        sendAccess s e c f.imm.words f.stall.toNat
          { path := pathV, cls := f.cls.toNat, vas := cutPages va 2 m.bytes, need := rRead, align := vAlign m,
            op := .vload fmt m.conv d, dst := if isLocal va then .nil else .w d }

/-- A write into the own scratchpad, issued in cycle `c`, that has performed by the end of cycle `done` (R362). -/
def Engine.writing (e : Engine) (path cls c done : Nat) : Engine :=
  { e with stores := e.stores.filter (fun p => decide (c ≤ p.2.2)) ++ [(path, cls, done)] }

/-- vst (R220, R223, R362). -/
def execVst (f : LG) (s : State) : Out :=
  onEngine s fun e c =>
    let fmt := f.mod.toNat
    let va := e.ea f.a.toNat f.b.toNat f.imm.val
    let m := s.vmove s.cur e 0x139 fmt va
    let data := vstoreBytes m.conv fmt (e.wReg f.d.toNat)
    guarded s e c [e.destOf f.a.toNat, e.destOf f.b.toNat, .w (idx8 f.d.toNat)] [] [m.bad] <|
      match isLocal va, misalignedAt (vAlign m) [(va, m.bytes)], s.ownAperture s.cur va m.bytes with
      | true, none, some pa =>
        if s.acquiring e ∨ s.mustWait s.cur pathV f.cls.toNat [(pa, m.bytes)] then .next (holdOne s)
        else
          let (done, s1) := s.writtenBy [(pa, m.bytes)] m.bytes c
          finish ((s1.noteOwn s.cur s.nextId pa data).store pa data) (e.writing pathV f.cls.toNat c done) c f.imm.words f.stall.toNat []
      | _, _, _ =>
        sendAccess s e c f.imm.words f.stall.toNat
          { path := pathV, cls := f.cls.toNat, vas := cutPages va 2 m.bytes, need := rWrite, align := vAlign m,
            op := .vstore data }

/-! ## Gathers and scatters (R221) -/

/-- Bytes of an element of a gather or scatter. -/
def gatherSize (f : LG) : Nat := laneBits f.mod.toNat / 8

/-- The address of lane `i` (R221). -/
def laneEa (e : Engine) (f : LG) (index : Nat) : Addr :=
  e.ea f.a.toNat f.b.toNat f.imm.val + BitVec.ofInt 80 (sintOf 32 index) * BitVec.ofNat 80 (gatherSize f)

/-- The 128 element addresses, in lane order. -/
def laneEas (e : Engine) (f : LG) : List (Addr × Nat) :=
  ((lanesOf 32 (e.wReg f.x.toNat)).map fun i => (laneEa e f i, gatherSize f))

/-- vgath: lanes 0 to 127, the others zero (R221). -/
def execVgath (f : LG) (s : State) : Out :=
  onEngine s fun e c =>
    let d := idx8 f.d.toNat
    guarded s e c [e.destOf f.a.toNat, e.destOf f.b.toNat, .w (idx8 f.x.toNat)] [] [] <|
      sendAccess s e c f.imm.words f.stall.toNat
        { path := pathV, cls := f.cls.toNat, vas := laneEas e f, need := rRead, align := gatherSize f,
          op := .gather f.mod.toNat d, dst := .w d }

/-- vscat: lanes 0 to 127 (R221). -/
def execVscat (f : LG) (s : State) : Out :=
  onEngine s fun e c =>
    let size := gatherSize f
    let data := ((lanesOf (8 * size) (e.wReg f.d.toNat)).take 128).map fun v => bytesOf size v
    guarded s e c [e.destOf f.a.toNat, e.destOf f.b.toNat, .w (idx8 f.x.toNat), .w (idx8 f.d.toNat)] [] [] <|
      sendAccess s e c f.imm.words f.stall.toNat
        { path := pathV, cls := f.cls.toNat, vas := laneEas e f, need := rWrite, kind := 1, align := size,
          op := .scatter data }

/-- The register a gather writes (R221). -/
def gatherValue (f : Nat) (elems : List (List Byte)) : VReg := vregOf (laneBits f) (elems.map natOf)

end Sys2Proof.Machine
end

