-- ==== Sys2Proof/Machine/Home.lean ====
section
/-! DEFINITION. What accesses do at their homes (05 R116, R117, 10 R264-R273, 01 R24-R27): when one may perform, its
effect, its reply, merged atomics, ordered partials, barriers, and the walks of missing pages (04 R101, R102). -/

namespace Sys2Proof.Machine

/-! ## Atomics (R270, R271) -/

/-- The floating format of an element type (R269). -/
def typeFmt (t : BitVec 3) : FloatFmt := if t = 5 then fmtBf else fmt32

def typeBits (t : BitVec 3) : Nat := 8 * typeBytes t

/-- The new value of an element (R270). -/
def atomicNew (q : AReq) (old : Word) : Word :=
  let w := typeBits q.ty
  let f := typeFmt q.ty
  let o := old.toNat
  let x := q.opnd.toNat
  let int (v : Nat) : Int := if q.uns then (v : Int) else sintOf w v
  BitVec.ofNat 64 (match q.op with
    | .add => (o + x) % 2 ^ w
    | .fadd => f.round ((f.value o).add (f.value x))
    | .min => if int x < int o then x else o
    | .max => if int o < int x then x else o
    | .and => o &&& x
    | .or => o ||| x
    | .xor => o ^^^ x
    | .swp => x
    | .cas => if o = q.cmp.toNat then x else o
    | .fmin => f.round ((f.value o).lesser (f.value x))
    | .fmax => f.round ((f.value o).greater (f.value x)))

/-- An operand widened exactly to FP32 (R25, R143). -/
def widenOpnd (t : BitVec 3) (v : Word) : Word32 := round32 ((typeFmt t).value v.toNat)

/-- The new value of an element under a merged entry: unordered floating adds combine in FP32 and round once, every other
operation acts one by one (R25, R140). -/
def MergeEntry.result (m : MergeEntry) (old : Word) : Word :=
  if m.req.op = .fadd then
    let sum := (m.parts.tail.map fun p => widenOpnd m.req.ty p.opnd).foldl fadd32
      (match m.parts with | p :: _ => widenOpnd m.req.ty p.opnd | [] => 0)
    let f := typeFmt m.req.ty
    BitVec.ofNat 64 (f.round ((f.value old.toNat).add (val32 sum)))
  else m.parts.foldl (fun v p => atomicNew { m.req with opnd := p.opnd } v) old

/-- The element at a physical address. -/
def State.elem (s : State) (pa : Nat) (t : BitVec 3) : Word := BitVec.ofNat 64 (natOf (s.bytes pa (typeBytes t)))

def State.setElem (s : State) (pa : Nat) (t : BitVec 3) (v : Word) : State := s.store pa (bytesOf (typeBytes t) v.toNat)

/-! ## Ordered epochs (R143, R144) -/

/-- The logical rank of a source as one number: logical die, cluster, engine index (R144). -/
def State.rankOf (s : State) (id : EngId) : Nat := (s.eng id).ldie * 65536 + id.cluster * 256 + id.index

/-- The partials a BD holds for an element: `.f32` and `.bf16` reductions of one location keep an epoch each, of which the rule says
nothing; DESIGN CHOICE (log 69). -/
def Die.epoch (d : Die) (pa : Nat) (ty : BitVec 3) : List Partial := d.partials.filter fun p => p.pa == pa && p.ty == ty

/-- Add an operand to its source's partial: the partial before, or none when the BD holds 8,192 (R143, R411). -/
def State.addPartial (s : State) (id : EngId) (pa : Nat) (ty : BitVec 3) (x : Word32) : Option (State × Word32) :=
  let b := paSlot pa
  let d := s.die b
  match (d.epoch pa ty).find? fun p => p.src == id with
  | some p =>
    let f (q : Partial) : Partial := if q.pa = pa ∧ q.ty = ty ∧ q.src = id then { q with val := fadd32 q.val x } else q
    some (s.setDie b { d with partials := d.partials.map f }, p.val)
  | none =>
    if 8192 ≤ d.partials.length then none
    else some (s.setDie b { d with partials := d.partials ++ [⟨pa, ty, s.rankOf id, id, x⟩] }, 0)

/-- Partials in ascending rank. -/
def insertRank (x : Partial) : List Partial → List Partial
  | [] => [x]
  | y :: ys => if x.rank < y.rank then x :: y :: ys else y :: insertRank x ys

/-- The value an epoch closes at: the home value, and each partial added in ascending logical rank (R143). -/
def closedValue (t : BitVec 3) (home : Word) (ps : List Partial) : Word :=
  let f := typeFmt t
  let v := ((ps.foldl (fun l p => insertRank p l) []).map (·.val)).foldl fadd32 (widenOpnd t home)
  BitVec.ofNat 64 (f.round (val32 v))

/-- Close the epoch of an element: the value written, or the home value when none is open (R143, R273). -/
def State.closeEpoch (s : State) (pa : Nat) (ty : BitVec 3) : State × Word :=
  let b := paSlot pa
  let ps := (s.die b).epoch pa ty
  let old := s.elem pa ty
  if ps = [] then (s, old)
  else
    let v := closedValue ty old ps
    ((s.updDie b fun d => { d with partials := d.partials.filter fun p => !(p.pa == pa && p.ty == ty) }).setElem pa ty v, v)

/-! ## Faults at a home (R400, R402, R403) -/

def State.dropAccess (s : State) (id : Nat) : State := { s with accesses := s.accesses.filter fun a => a.id != id }

/-- The fault event of an access that has left its engine. -/
def accessEv (s : State) (a : Access) (cause detail : Nat) : FaultEv :=
  { faultAt s a.eng cause detail a.pc with seq := a.seq, team := a.team, issue := a.id }

/-- An access faults at its home: it has no effect, and its engine's team will stop (R400, R401). -/
def State.failAccess (s : State) (a : Access) (f : FaultEv) : State :=
  ((s.dropAccess a.id).updEng a.eng fun e => { e with status := .stopped }).fault f

/-- A poisoned read at a home: kind 1 (R372, R403). -/
def State.failPoison (s : State) (a : Access) (pa : Nat) : State := s.failAccess a (accessEv s a 0x0106 (1 + paSlot pa * 256))

/-! ## Barriers (R264, R266, R409) -/

/-- A barrier's fields (R264). -/
structure Barrier where
  pend : Nat
  arr : Nat
  phase : Nat
  ipend : Nat
  iarr : Nat
  ctl : Nat
  deriving DecidableEq, Repr

def barrierOf (bs : List Byte) : Barrier :=
  ⟨bytesFld bs 0 7, bytesFld bs 8 2, bytesFld bs 10 1 % 2, bytesFld bs 16 7, bytesFld bs 24 2, bytesFld bs 26 1⟩

def State.barrier (s : State) (pa : Nat) : Barrier := barrierOf (s.bytes pa 32)

def Barrier.bytes (b : Barrier) : List Byte := barrierBytes b.pend b.arr b.phase b.ipend b.iarr b.ctl

/-- The end of a phase, in the same action (R266). -/
def Barrier.settle (b : Barrier) : Barrier :=
  if b.arr = 0 ∧ b.pend = 0 then { b with phase := 1 - b.phase, pend := b.ipend, arr := b.iarr } else b

/-- The detail of a barrier fault (R403). -/
def Barrier.detail (b : Barrier) (reason : Nat) : Nat :=
  reason + b.phase * 2 ^ 8 + b.arr * 2 ^ 16 + b.pend % 2 ^ 32 * 2 ^ 32

/-- An arrival, or the reason it is not admitted (R266, R409). -/
def Barrier.arrive (b : Barrier) : Except Nat Barrier :=
  if b.ctl < 128 then .error 1 else if b.arr = 0 then .error 2 else .ok { b with arr := b.arr - 1 }.settle

/-- A delivery of `k` bytes, or the reason it is not admitted (R266, R409). -/
def Barrier.deliver (b : Barrier) (k : Nat) : Except Nat Barrier :=
  if b.ctl < 128 then .error 1 else if b.pend < k then .error 3 else .ok { b with pend := b.pend - k }.settle

/-! ## Frozen memory (R416) -/

/-- The clusters and dies a team of a launch runs on in the current course. -/
def Launch.places (l : Launch) (team : Nat) : List (Nat × Nat) :=
  (l.streams.filter fun x => x.team == team).map fun x => (x.eng.slot, x.eng.cluster)

/-- Whether a team's pools or GD scratchpad hold an address (R416). -/
def Launch.holdsPa (l : Launch) (team pa : Nat) : Bool :=
  match placeOf pa with
  | .pool slot c _ => (l.places team).contains (slot, c)
  | .gdScr slot _ => (l.places team).any fun p => p.1 == slot
  | _ => false

/-- Whether a write by a team to an address is dropped: the address is frozen memory of a failed peer (R416). -/
def State.frozen (s : State) (seq team pa : Nat) : Bool :=
  match s.launch seq with
  | none => false
  | some l =>
    let parent := (l.teams.find? fun t => t.index == team).map (·.parent)
    l.teams.any fun t => t.frozen && t.index != team && some t.parent == parent && l.holdsPa t.index pa

/-! ## When an access may perform -/

/-- Whether a slot's die stands ready for requests: it runs, or is to restart and has not become quiet (R422, R423, R437). -/
def State.dieUp (s : State) (slot : Nat) : Bool :=
  match (s.die slot).phase with
  | .up => true
  | .yielding _ => true
  | _ => false

/-- Whether a request for a slot is taken: by its die, or by the fault that a slot which answers no traffic raises (R13,
R423). -/
def State.takes (s : State) (slot : Nat) : Bool := s.dieUp slot || s.slotGone slot

/-- Whether the shutter of a pool's cluster lets in a request that arrived at a tick: one that closes, those that came before (R114). -/
def State.shutterOpen (s : State) (pa arrived : Nat) : Bool :=
  match placeOf pa with
  | .pool slot c _ => s.slotGone slot || match (s.cluster (clKey slot c)).shutter with
    | .opened => true
    | .closing t => decide (arrived < t)
    | _ => false
  | _ => true

/-- A request that finds a cluster gated, or closing, has it wake (R114). -/
def State.knock (s : State) (pas : List (Nat × Nat)) : State :=
  pas.foldl (fun (s : State) p => match placeOf p.1 with
    | .pool slot c _ =>
      if s.dieUp slot && !s.shutterOpen p.1 s.ptick && (match (s.cluster (clKey slot c)).shutter with | .waking _ => false | _ => true) then
        s.updCluster (clKey slot c) fun k => { k with shutter := .waking (s.ptick + 2400) }
      else s
    | _ => s) s

/-- Whether the key slot of an HBM4E line, as a master's accesses find it, is being reloaded (R447). -/
def State.keyReloads (s : State) (master : BitVec 16) (pa : Nat) : Bool :=
  match placeOf pa with
  | .hbm slot off =>
    let d := s.die slot
    match accEntryFor d.acc master (0x10000000000 + off) with
    | some a => match d.keys.find (fld a.key 0 4) with
      | some k => k.reload.isSome
      | none => false
    | none => false
  | _ => false

def State.keyBusy (s : State) (e : EngId) (pa : Nat) : Bool := s.keyReloads (s.eng e).master pa

/-- Whether a BD arbiter admits another request of a domain: its counter is below the grant (R344). A domain that no
evaluation has given a grant is not metered (log 16). -/
def State.budgetOk (s : State) (e : EngId) (pa : Nat) : Bool :=
  match dieKind (paSlot pa) with
  | some .bd => (s.dom e.cl).grant == 0 || decide ((s.die (paSlot pa)).arb.getD e.cl 0 < (s.dom e.cl).grant)
  | _ => true

/-- Count the bytes a BD arbiter serves (R344). -/
def State.serve (s : State) (e : EngId) (pas : List (Nat × Nat)) : State :=
  pas.foldl (fun s p =>
    match dieKind (paSlot p.1) with
    | some .bd => s.updDie (paSlot p.1) fun d => { d with arb := d.arb.put e.cl (d.arb.getD e.cl 0 + p.2) }
    | _ => s) s

/-- Whether the home of every piece lets a request that arrived at a tick in now. A budget holds no request past the time that bounds its response (R453). -/
def State.admits (s : State) (e : EngId) (late : Bool) (arrived : Nat) (pas : List (Nat × Nat)) : Bool :=
  pas.all fun p => s.takes (paSlot p.1) && s.shutterOpen p.1 arrived && !s.keyBusy e p.1 && (late || s.budgetOk e p.1)

/-- Whether an engine has a fault waiting for the fault stop, so that nothing later of it performs (R401). -/
def State.faulted (s : State) (id : EngId) : Bool := s.faults.any fun f => f.eng == some id

/-- Whether an access only reads. -/
def Access.reads (a : Access) : Bool := a.need == rRead

/-- Whether a unit of an access may perform now: nothing of its engine comes before it (R121), its home lets it in, and a write
comes after the writes that its engine has seen (R117). Lanes of one scatter that meet are stored in ascending order. -/
def State.unitReady (s : State) (a : Access) (k : Nat) : Bool :=
  let p := a.pas.getD k (0, 0)
  !s.mustFollow a.eng a.path a.cls a.id [p] && s.admits a.eng (decide (a.born + homeBound ≤ s.ptick)) a.due [p]
    && (a.reads || !s.shadowed a.eng a.id [p] && !(a.left.any fun j => decide (j < k) && sharesByte [a.pas.getD j (0, 0)] [p]))

/-- The units of an access that may perform now, in any order (R135). -/
def State.readyUnits (s : State) (a : Access) : List Nat := a.left.filter (s.unitReady a)

/-- The scope of an access as a release (R127, R267): an arrival's is its barrier's. -/
def State.relScope (s : State) (a : Access) : Nat :=
  match a.op, a.pas with
  | .barArr _, (pa, _) :: _ => (s.barrier pa).ctl % 8
  | _, _ => a.scope

/-- Whether nothing comes before an access, or before a unit of it. -/
def State.mayPerform (s : State) (a : Access) : Bool :=
  !a.pas.isEmpty && !a.merged && s.inTurn a && !s.addsBefore a.eng a.id a.op
    && (!a.rel || s.releasable a.eng a.id [] (s.relScope a)) && !(s.readyUnits a).isEmpty

/-- Whether an access, or a unit of it, may perform now. -/
def State.canPerform (s : State) (a : Access) : Bool := decide (a.due ≤ s.ptick) && !s.faulted a.eng && s.mayPerform a

/-! ## Performing (R117) -/

/-- Send a reply with the writes it makes (R45, R453). -/
def State.reply (s : State) (a : Access) (ws : List Write) : State :=
  let (t, s) := s.legEnd (a.born + replyBound)
  { s with replies := s.replies ++ [⟨a.id, a.eng, a.incarn, ws, t⟩] }

def optWrite (w : Option Write) : List Write := match w with | some w => [w] | none => []

/-- The write of a 64-bit value to an access's destination. -/
def dstWrite (d : Dest) (v : Word) : List Write := optWrite (d.write (zext80 v))

/-- Store a run of bytes over the pieces of an access, but for frozen ones. -/
def State.storePieces (s : State) (seq team : Nat) : List (Nat × Nat) → List Byte → State
  | [], _ => s
  | (pa, n) :: r, bs => State.storePieces (if s.frozen seq team pa then s else s.store pa (bs.take n)) seq team r (bs.drop n)

/-- A wait that has read its word or barrier at a physical address. -/
def Block.readAt (b : Block) (pa : Nat) : Option Block :=
  match b with
  | .wait none va cls k x => some (.wait (some pa) va cls k x)
  | .barrier none va cls x => some (.barrier (some pa) va cls x)
  | _ => none

/-- An engine that waits, its word or barrier once read, goes on or sleeps (R111, R267). -/
def State.wakeOr (s : State) (a : Access) (pa : Nat) (holds : Bool) : State :=
  s.updEng a.eng fun e =>
    match e.status with
    | .blocked why since =>
      match why.readAt pa with
      | some b => if holds then e.resume (s.dom a.eng.cl) s.ptick else { e with status := .blocked b since }
      | none => e
    | .paused (some (why, c)) =>
      match why.readAt pa with
      | some b => { e with status := .paused (if holds then none else some (b, c)) }
      | none => e
    | _ => e

/-- Whether a barrier wait's condition holds (R267). -/
def barrierHolds (b : Barrier) (x : Word) : Bool := b.phase != x.toNat % 2

/-- An ordered or plain atomic on an element (R270, R271): the state after and the value returned, or a fault's cause and
detail. -/
def State.atomicAt (s : State) (id : EngId) (pa : Nat) (q : AReq) : Except (Nat × Nat) (State × Word) :=
  if q.op = .fadd ∧ q.ordered then
    match s.addPartial id pa q.ty (widenOpnd q.ty q.opnd) with
    | none => .error (0x0203, paSlot pa)
    | some (s, before) => .ok (s, BitVec.ofNat 64 ((typeFmt q.ty).round (val32 before)))
  else if s.poisoned pa (typeBytes q.ty) then .error (0x0106, 1 + paSlot pa * 256)
  else
    let old := s.elem pa q.ty
    .ok (s.setElem pa q.ty (atomicNew q old), old)

/-- The writes of a read whose units have all returned their bytes (R183, R225, R227). -/
def Access.results (a : Access) : List Write :=
  let bs := (List.range a.pas.length).map fun k => a.got.getD k []
  match a.op with
  | .load size sx dst => optWrite (dst.write (loadValue size sx bs.flatten))
  | .vload fmt bank dst => [.w dst (vloadValue bank fmt bs.flatten)]
  | .gather fmt dst => [.w dst (gatherValue fmt bs)]
  | _ => []

/-- A unit of an access has performed and others have not: they perform in this tick or later (R135, R453). -/
def State.again (s : State) (a : Access) : State :=
  let (k, s) := s.draw
  let (t, s) := s.legEnd (a.born + homeBound)
  let a' := { a with due := if Config.coin k then a.due else t }
  { s with accesses := s.accesses.map fun (x : Access) => if x.id = a.id then a' else x }

/-- A unit of a read returns its bytes; the last one sends the reply (R116, R135). -/
def State.readUnit (s : State) (a : Access) (k : Nat) : State :=
  let p := a.pas.getD k (0, 0)
  let a' := { a with did := a.did ++ [k], got := a.got.put k (s.view (.eng a.eng) p.1 p.2) }
  if s.poisoned p.1 p.2 then s.failPoison a p.1
  else if a'.left = [] then (s.dropAccess a.id).reply a' a'.results
  else s.again a'

/-- The poison of the units that an access has written whole (R372). -/
def State.cleared (s : State) (a : Access) : State :=
  let wrote (b : Nat) : Bool := a.pas.any fun p => decide (p.1 ≤ b) && decide (b < p.1 + p.2) && !s.frozen a.seq a.team p.1
  { s with poison := s.poison.filter fun u => !(List.range (unitSize u)).all fun i => wrote (u + i) }

/-- A unit of a write is stored (R117, R135). -/
def State.writeUnit (s : State) (a : Access) (k : Nat) : State :=
  let p := a.pas.getD k (0, 0)
  let s1 := (s.noteOwn a.eng a.id p.1 (a.unitData k)).storePieces a.seq a.team [p] (a.unitData k)
  let a' := { a with did := a.did ++ [k] }
  if a'.left = [] then (s1.dropAccess a.id).cleared a else s1.again a'

/-- What unit `k` of an access does at its home, its pieces translated. Of one that would change frozen memory only the read is done, and
its reply has the frozen bytes (R416, log 38). -/
def State.effect (s : State) (a : Access) (k : Nat) : State :=
  match a.pas with
  | [] => s
  | (pa, n) :: _ =>
    let bad := s.poisoned pa n
    let froz := s.frozen a.seq a.team pa
    let done := s.dropAccess a.id
    match a.op with
    | .load _ _ _ => s.readUnit a k
    | .vload _ _ _ => s.readUnit a k
    | .gather _ _ => s.readUnit a k
    | .store _ => s.writeUnit a k
    | .vstore _ => s.writeUnit a k
    | .scatter _ => s.writeUnit a k
    | .atomic q dst =>
      if froz then (if q.fetch then done.reply a (dstWrite dst (s.elem pa q.ty)) else done)
      else match s.atomicAt a.eng pa q with
        | .error f => s.failAccess a (accessEv s a f.1 f.2)
        | .ok (s', old) => if q.fetch then (s'.dropAccess a.id).reply a (dstWrite dst old) else s'.dropAccess a.id
    | .close ty _ dst =>
      if froz then done.reply a (dstWrite dst (s.elem pa ty))
      else if s.poisoned pa (typeBytes ty) then s.failPoison a pa
      else
        let (s', v) := s.closeEpoch pa ty
        (s'.dropAccess a.id).reply a (dstWrite dst v)
    | .barInit data => done.storePieces a.seq a.team a.pas data
    | .barArr dst =>
      if bad then s.failPoison a pa
      else if froz then done.reply a (dstWrite dst (BitVec.ofNat 64 (s.barrier pa).phase))
      else match (s.barrier pa).arrive with
        | .error r => s.failAccess a (accessEv s a 0x0202 ((s.barrier pa).detail r))
        | .ok b => (done.store pa b.bytes).reply a (dstWrite dst (BitVec.ofNat 64 (s.barrier pa).phase))
    | .barWait x =>
      if bad then s.failPoison a pa
      else if (s.barrier pa).ctl < 128 then s.failAccess a (accessEv s a 0x0202 ((s.barrier pa).detail 1))
      else done.wakeOr a pa (barrierHolds (s.barrier pa) x)
    | .wait kind x =>
      if bad then s.failPoison a pa
      else done.wakeOr a pa (waitHolds kind (BitVec.ofNat 64 (natOf (s.view (.eng a.eng) pa 8))) x)
    | .deliver count =>
      if bad then s.failPoison a pa
      else if froz then done
      else match (s.barrier pa).deliver count with
        | .error r => s.failAccess a (accessEv s a 0x0202 ((s.barrier pa).detail r))
        | .ok b => done.store pa b.bytes

/-- The fault of a request for a slot that answers no traffic (R13, R423). -/
def goneEv (s : State) (a : Access) : FaultEv :=
  { accessEv s a 0x0103 1 with addr := (match a.vas with | (va, _) :: _ => va | [] => 0), addrValid := true }

/-- One of several things that may happen next: a free choice. -/
def State.chosen (s : State) (k : Nat) : List Nat → Nat × State
  | [] => (k, s)
  | ks =>
    let (c, s) := s.draw
    ((k :: ks).getD (Config.pick c 0 % (ks.length + 1)) k, s)

/-- A unit of an access performs (R135); a request for a slot that answers no traffic faults in its team (R13, R423). -/
def State.performAccess (s : State) (a : Access) : State :=
  if a.pas.any fun p => s.slotGone (paSlot p.1) then s.failAccess a (goneEv s a)
  else match s.readyUnits a with
    | [] => s
    | k :: ks =>
      let (n, s) := s.chosen k ks
      (s.serve a.eng [a.pas.getD n (0, 0)]).effect a n

/-! ## Merged requests (R24-R27) -/

/-- Whether an older entry of the same buffer for a byte of the same element has not performed (R26, R140). -/
def State.overtakes (s : State) (x : Crossing) : Bool :=
  let older (m : MergeEntry) : Bool := m.before x.entry && m.meets x.entry.pa x.entry.req
  (s.crossings.any fun y => y.slot == x.slot && y.ret.isNone && older y.entry) || (s.die x.slot).merge.any older

/-- Whether a constituent of a merged request may perform now, as its own access would (R140). -/
def State.partReady (s : State) (m : MergeEntry) (a : Access) : Bool :=
  (!a.rel || s.releasable a.eng a.id m.ids a.scope) && !s.keyBusy a.eng m.pa
    && (s.budgetOk a.eng m.pa || decide (a.born + homeBound ≤ s.ptick)) && !s.addsBefore a.eng a.id a.op
    && !s.shadowed a.eng a.id a.pas
    && !(s.accesses.any fun b => b.eng == a.eng && b.path == a.path && b.cls == a.cls && !b.merged
        && decide (b.id < a.id) && (b.pas.isEmpty || sharesByte b.rest a.pas))

/-- Whether a merged request may perform now. -/
def State.canCross (s : State) (x : Crossing) : Bool :=
  x.ret.isNone && decide (x.due ≤ s.ptick) && s.takes (paSlot x.entry.pa) && s.shutterOpen x.entry.pa x.due && !s.overtakes x
    && x.entry.parts.all fun p => match s.accesses.find? fun a => a.id == p.acc with
      | none => true
      | some a => s.partReady x.entry a

/-- The latest tick at which every constituent's response has arrived (R453). -/
def State.partsBy (s : State) (m : MergeEntry) (bound : Nat) : Nat :=
  (s.accesses.filter fun a => m.ids.contains a.id).foldl (fun t a => min t (a.born + bound)) (s.ptick + bound)

/-- Set what a merged request brings back. -/
def State.setRet (s : State) (id : Nat) (v : Word) : State :=
  let by_ := match s.crossings.find? fun y => y.id == id with | some y => s.partsBy y.entry replyBound | none => s.ptick
  let (t, s) := s.legEnd by_
  { s with crossings := s.crossings.map fun (y : Crossing) => if y.id = id then { y with ret := some v, due := t } else y }

/-- The end of a merged request that returns nothing: its parts have performed. -/
def State.endCrossing (s : State) (x : Crossing) : State :=
  { s with
    crossings := s.crossings.filter fun y => y.id != x.id
    accesses := s.accesses.filter fun a => !x.entry.ids.contains a.id }

/-- Every requester of an entry faults. -/
def State.faultAll (s : State) (f : Access → FaultEv) (l : List Access) : State :=
  l.foldl (fun s a => s.failAccess a (f a)) s

/-- A merged request acts at its home (R26, R27). -/
def State.performCrossing (s : State) (x : Crossing) : State :=
  let m := x.entry
  let parts := s.accesses.filter fun a => m.ids.contains a.id
  let fail (f : Nat × Nat) : State := (s.endCrossing x).faultAll (fun a => accessEv s a f.1 f.2) parts
  match parts with
  | [] => s.endCrossing x
  | a :: _ =>
    let s1 := s.serve a.eng [(m.pa, typeBytes m.req.ty)]
    if s.slotGone (paSlot m.pa) then (s.endCrossing x).faultAll (goneEv s) parts
    else if s.frozen a.seq a.team m.pa then
      (if m.req.fetch then s.setRet x.id (s.elem m.pa m.req.ty) else s.endCrossing x)
    else if m.req.op = .fadd ∧ m.req.ordered then
      match s1.atomicAt a.eng m.pa { m.req with opnd := (match m.parts with | p :: _ => p.opnd | [] => 0) } with
      | .error f => fail f
      | .ok (s2, v) => if m.req.fetch then s2.setRet x.id v else s2.endCrossing x
    else if s.poisoned m.pa (typeBytes m.req.ty) then fail (0x0106, 1 + paSlot m.pa * 256)
    else
      let old := s.elem m.pa m.req.ty
      let s2 := s1.setElem m.pa m.req.ty (m.result old)
      if m.req.fetch then s2.setRet x.id old else s2.endCrossing x

end Sys2Proof.Machine
end

