-- ==== Sys2Proof/Machine/Arrivals.lean ====
section
/-! DEFINITION. The events of accesses on their way: performing at home, replies, merged entries and their replies, page
walks (01 R24-R27, 02 R45, 04 R100-R102, 05 R117, 20 R374), pushes and takes (R23, R141, R261-R263), waits that go on
(R111, R267, R268), barrier deliveries, and shutters (R114). An event whose condition does not hold leaves the state. -/

namespace Sys2Proof.Machine

/-- An event: its effect when its condition holds. -/
def event (s : State) (due : Bool) (effect : State) : Out := .next (if due then effect else s)

/-! ## Accesses and replies -/

def State.access (s : State) (id : Nat) : Option Access := s.accesses.find? fun a => a.id == id
def State.crossing (s : State) (id : Nat) : Option Crossing := s.crossings.find? fun x => x.id == id

/-- Whether an access counts bytes into a barrier for a cpym (R254, R266). -/
def Access.isDelivery (a : Access) : Bool := match a.op with | .deliver _ => true | _ => false

/-- ACCESS_PERFORMS_AT_HOME: an access, or a merged request, performs (R117, R140). -/
def execAccessPerformsAtHome (id : Nat) (s : State) : Out :=
  match s.access id, s.crossing id with
  | some a, _ => event s (s.canPerform a && !a.isDelivery) (s.performAccess a)
  | none, some x => event s (s.canCross x) (s.performCrossing x)
  | none, none => .next s

/-- BARRIER_DELIVERY: a byte count reaches a receiver's barrier (R254, R266). -/
def execBarrierDelivery (id : Nat) (s : State) : Out :=
  match s.access id with
  | some a => event s (s.canPerform a && a.isDelivery) (s.performAccess a)
  | none => .next s

/-- Whether an engine has stopped for a time: its pending results keep their distance from its next issue (R48, R385). -/
def Engine.standing (e : Engine) : Bool :=
  match e.status with
  | .paused _ => true
  | .atBrk => true
  | .stopped => true
  | _ => false

/-- A reply's writes land in its engine's registers in the current cycle (R45, R374). -/
def Engine.receive (e : Engine) (c : Nat) (r : Reply) : Engine :=
  let e := r.writes.foldl (fun e w => e.landOne w) (e.settle (if e.standing then min c e.nextIssue else c))
  { e with inter := e.inter.filter fun p => p.2 != r.id }

/-- VARIABLE_LATENCY_RESULT: a reply arrives; one to a die in reset is dropped (R45, R374). -/
def execVariableLatencyResult (id : Nat) (s : State) : Out :=
  match s.replies.find? fun r => r.id == id with
  | none => .next s
  | some r =>
    let rest := { s with replies := s.replies.filter fun x => x.id != id }
    event s (decide (r.due ≤ s.ptick) && (r.incarn == (s.die r.eng.slot).incarn || !s.dieUp r.eng.slot))
      (if s.dieUp r.eng.slot then rest.updEng r.eng fun e => e.receive (s.cycleNow r.eng.cl) r else rest)

/-- A die that has discarded a stale response (R374). -/
def Die.countStale (d : Die) : Die := { d with stale := if d.stale = BitVec.allOnes 32 then d.stale else d.stale + 1 }

/-- STALE_RESPONSE_DISCARD: a response of an earlier incarnation is counted and has no other effect. One that nobody waits for is
counted only when it is stale; a die in reset drops it (R374). -/
def execStaleResponseDiscard (slot : Nat) (incarn : BitVec 16) (s : State) : Out :=
  let stale (r : Reply) : Bool := r.eng.slot == slot && r.incarn == incarn && decide (r.due ≤ s.ptick)
  let d := s.die slot
  let old := incarn != d.incarn && s.dieUp slot
  match s.replies.find? stale, d.strays.find? fun x => x.1 == incarn && decide (x.2 ≤ s.ptick) with
  | some r, _ => event s old ({ s with replies := s.replies.filter fun x => x.id != r.id }.setDie slot d.countStale)
  | none, some x =>
    let rest := { d with strays := d.strays.erase x }
    .next (s.setDie slot (if old then rest.countStale else rest))
  | none, none => .next s

/-! ## Merge buffers (R24-R27) -/

/-- Whether an entry of a die's buffer is sent: 8 ticks without a join, 64 operations, a release behind it, or a buffer of
more than 64 entries of which it is the oldest (R24, R26). -/
def Die.sends (d : Die) (t : Nat) (m : MergeEntry) : Bool :=
  decide (m.last + 8 ≤ t) || decide (64 ≤ m.parts.length) || !m.sealedBy.isEmpty
    || (decide (64 < d.merge.length) && (d.merge.head?.map (·.id)) == some m.id)

/-- MERGE_ENTRY_SEND: an entry leaves its die's buffer (R26). -/
def execMergeEntrySend (slot id : Nat) (s : State) : Out :=
  let d := s.die slot
  match d.merge.find? fun m => m.id == id with
  | none => .next s
  | some m =>
    let (t, s1) := s.legEnd (s.partsBy m homeBound)
    let (k, s2) := s1.newId
    event s (d.sends s.ptick m)
      ({ s2 with crossings := s2.crossings ++ [Crossing.mk k m slot t none] }.setDie slot
        { d with merge := d.merge.filter fun x => x.id != id })

/-- What an entry's requesters see: the k-th the value it would have seen alone (R27). -/
def splitReplies (q : AReq) : Word → List MergePart → List (Nat × Word)
  | _, [] => []
  | v, p :: r => (p.acc, v) :: splitReplies q (atomicNew { q with opnd := p.opnd } v) r

/-- The destination of a fetching atomic. -/
def Access.fetchDst (a : Access) : Dest := match a.op with | .atomic _ d => d | _ => .nil

/-- Whether an access is a fetch-and-op, which a reply answers (R269). -/
def Access.fetches (a : Access) : Bool := match a.op with | .atomic q _ => q.fetch | _ => false

/-- FETCH_REPLY_SPLIT: the old value is back at the link controller and each requester receives its share (R27). -/
def execFetchReplySplit (id : Nat) (s : State) : Out :=
  match s.crossing id with
  | none => .next s
  | some x =>
    match x.ret with
    | none => .next s
    | some v =>
      let shares := splitReplies x.entry.req v x.entry.parts
      let one (p : Nat × Word) : List Reply :=
        match s.access p.1 with
        | some a => if a.fetches then [{ id := a.id, eng := a.eng, incarn := a.incarn, writes := dstWrite a.fetchDst p.2, due := s.ptick }] else []
        | none => []
      event s (decide (x.due ≤ s.ptick)) { s.endCrossing x with replies := s.replies ++ shares.flatMap one }

/-! ## Page walks (R100-R102, R407) -/

/-- The reason an ordered reduction is refused once its home is known (R143, R390). -/
def Access.orderedHome (a : Access) : Option Nat :=
  match a.op with
  | .atomic q _ => if q.op = .fadd ∧ q.ordered then some q.detail else none
  | .close _ d _ => some d
  | _ => none

/-- What the window-fault kind of an access is (R403). -/
def Access.winKind (a : Access) : Nat :=
  match a.op with
  | .scatter _ => 1
  | .atomic _ _ | .close _ _ _ | .barArr _ | .deliver _ => 2
  | _ => 0

/-- The access is translated and goes to its home, or to the merge buffer unless it must wait to enter it (R25, R272). -/
def State.goOn (s : State) (a : Access) (pas : List (Nat × Nat)) : State :=
  let a' := { a with pas := a.op.units pas }
  if (mergesTo a.eng.slot a.op pas).isSome && s.behind a.eng a.cls a.id a.op then s
  else { s with accesses := s.accesses.map fun (x : Access) => if x.id = a.id then a' else x }.route a'

/-- Try the translation of a waiting access again: it goes on, waits for its next page, or faults (R102). -/
def State.retranslate (s : State) (a : Access) : State :=
  let e := s.eng a.eng
  match s.resolveAll a.eng e a.need a.winKind a.vas with
  | .error (va, f) =>
    s.failAccess a (match f with
      | .denied _ _ _ pa _ _ _ => { accessEv s a f.cause f.detail with addr := BitVec.ofNat 80 pa, addrValid := true, addrPhys := true }
      | _ => { accessEv s a f.cause f.detail with addr := va, addrValid := true })
  | .ok (_, some page) => (s.askWalk a.eng.slot e.asid e.homeBd page (a.born + walkBound)).getD s
  | .ok (pas, none) =>
    match a.orderedHome with
    | some d =>
      if pas.all fun p => holdsPartials p.1 then s.goOn a pas else s.failAccess a (accessEv s a 0x0002 d)
    | none => s.goOn a pas

/-- Insert an access by ENGID, then in issue order (R26). -/
def insertAccess (x : Access) : List Access → List Access
  | [] => [x]
  | y :: ys => if x.eng.key < y.eng.key ∨ (x.eng.key = y.eng.key ∧ x.id < y.id) then x :: y :: ys else y :: insertAccess x ys

/-- Accesses in ascending ENGID order, those of one engine in issue order (R26). -/
def byEngine (l : List Access) : List Access := l.foldl (fun l a => insertAccess a l) []

/-- Accesses of a die's engines that wait for a translation. -/
def State.untranslated (s : State) (slot : Nat) : List Access :=
  byEngine (s.accesses.filter fun a => a.eng.slot == slot && a.pas.isEmpty)

/-- The page whose translation an access misses first. -/
def State.missOf (s : State) (a : Access) : Option Nat :=
  match s.resolveAll a.eng (s.eng a.eng) a.need a.winKind a.vas with
  | .ok (_, p) => p
  | .error _ => none

/-- The piece of an access in a page. -/
def Access.pieceIn (a : Access) (page : Nat) : Addr :=
  match a.vas.find? fun p => p.1.toNat / 4096 == page || (p.1.toNat + (p.2 - 1)) / 4096 == page with
  | some p => p.1
  | none => 0

/-- A failed walk faults every access that shares it (R407). -/
def State.failWalk (s : State) (slot page : Nat) (asid : BitVec 16) (f : MemFault) : State :=
  (s.untranslated slot).foldl (fun (s : State) a =>
    if (s.eng a.eng).asid = asid ∧ s.missOf a = some page then
      s.failAccess a { accessEv s a f.cause f.detail with addr := a.pieceIn page, addrValid := true }
    else s) s

/-- PAGE_WALK_COMPLETE: the walk of a page ends; its accesses proceed or fault, and waiting misses find a free slot
(R101, R102, R407). -/
def execPageWalkComplete (slot page : Nat) (s : State) : Out :=
  let d := s.die slot
  match d.walks.find? fun w => w.page == page && decide (w.due ≤ s.ptick) with
  | none => .next s
  | some w =>
    let rest := s.setDie slot { d with walks := d.walks.filter fun x => !(x.page == page && x.asid == w.asid) }
    let found : State :=
      match s.walk w.homeBd w.asid page with
      | .page fr r l => rest.updDie slot fun d =>
          { d with cache := d.cache.filter (fun c => !(c.asid == w.asid && c.page == page)) ++ [⟨w.asid, page, fr, r, l⟩] }
      | .bad f => rest.failWalk slot page w.asid f
    .next ((found.untranslated slot).foldl (fun s a => s.retranslate a) found)

/-! ## Translation-invalidate (R103) -/

/-- Whether a run of virtual addresses of an access meets a range. -/
def Access.meets (a : Access) (base limit : Addr) : Bool :=
  a.vas.any fun p => decide (base.toNat < p.1.toNat + p.2) && decide (p.1.toNat ≤ limit.toNat)

/-- An entry without some of its constituents. -/
def MergeEntry.without (m : MergeEntry) (ids : List Nat) : Option MergeEntry :=
  let ps := m.parts.filter fun p => !ids.contains p.acc
  if ps = [] then none else some { m with parts := ps }

/-- Accesses leave their entries, in the buffers and on the way, to be translated again. -/
def State.leaveEntries (s : State) (ids : List Nat) : State :=
  let left (x : Crossing) : Option Crossing :=
    if x.ret.isSome then some x else (x.entry.without ids).map fun m => { x with entry := m }
  { s with
    dies := s.dies.map fun (p : Nat × Die) => (p.1, { p.2 with merge := p.2.merge.filterMap (·.without ids) })
    crossings := s.crossings.filterMap left }

/-- Whether a merged access has performed, its share on its way back (R27). -/
def State.splitting (s : State) (a : Access) : Bool := s.crossings.any fun x => x.ret.isSome && x.entry.ids.contains a.id

/-- A sleeping wait whose word or barrier lies in a range translates its address anew when it reads again. -/
def Block.unread (b : Block) (base limit : Addr) : Block :=
  let hit (va : Addr) : Bool := !isLocal va && decide (base.toNat ≤ va.toNat) && decide (va.toNat ≤ limit.toNat)
  match b with
  | .wait (some pa) va cls k x => .wait (if hit va then none else some pa) va cls k x
  | .barrier (some pa) va cls x => .barrier (if hit va then none else some pa) va cls x
  | b => b

/-- The engine drops the translation of a sleeping wait. -/
def Engine.unread (e : Engine) (base limit : Addr) : Engine :=
  match e.status with
  | .blocked why since => { e with status := .blocked (why.unread base limit) since }
  | .paused (some (why, c)) => { e with status := .paused (some (why.unread base limit, c)) }
  | _ => e

/-- The range list of the launches of an address space (R100, R311). -/
def State.rangeList (s : State) (image : Nat) (asid : BitVec 16) : List RangeEntry :=
  (List.range (s.lrec image 96 1)).map fun k =>
    let b := s.bytes (s.rangePa image + 32 * k) 32
    { asid := asid, index := k, rights := BitVec.ofNat 8 (bytesFld b 27 1), pa := BitVec.ofNat 56 (bytesFld b 20 7),
      limit := BitVec.ofNat 80 (bytesFld b 10 10), base := BitVec.ofNat 80 (bytesFld b 0 10) }

/-- The range list a die takes for an address space: its launch's, or what it holds when none runs. -/
def State.newRanges (s : State) (asid : BitVec 16) (d : Die) : List RangeEntry :=
  if d.ranges.any fun r => r.asid == asid then
    match s.launches.find? fun l => s.lrAsid l.image == asid.toNat && l.state != .ended with
    | some l => d.ranges.filter (fun r => r.asid != asid) ++ s.rangeList l.image asid
    | none => d.ranges
  else d.ranges

/-- The root table of a BD with a new root for an address space, 128 KiB aligned (R101, R103; log 51). -/
def State.setRoot (s : State) (asid : Nat) (root : Option (Nat × Nat)) : State :=
  match root with
  | some (slot, pa) =>
    if dieKind slot = some .bd then s.updDie slot fun d => { d with roots := d.roots.put (asid % 65536) (pa % 2 ^ 56 / 0x20000 * 0x20000) } else s
  | none => s

/-- TRANSLATION_INVALIDATE: every die of the space drops the named translations and takes the range list anew; accesses
that have not performed, sleeping waits among them, are retranslated (R103). `root` is the space's new root in a BD's root table, if it
gets one (log 51). -/
def execTranslationInvalidate (asid : Nat) (base limit : Addr) (root : Option (Nat × Nat)) (s : State) : Out :=
  let id := BitVec.ofNat 16 asid
  let again (a : Access) : Bool :=
    (s.eng a.eng).asid == id && a.meets base limit && !a.pas.isEmpty && !a.vas.all (fun p => isLocal p.1) && !s.splitting a
  let back := byEngine (s.accesses.filter again)
  let s1 := s.leaveEntries (back.map (·.id))
  let s2 : State := (List.range 37).foldl (fun (s : State) slot =>
    s.updDie slot fun d =>
      { d with
        cache := d.cache.filter fun c => !(c.asid == id && decide (base.toNat / 4096 ≤ c.page) && decide (c.page ≤ limit.toNat / 4096))
        ranges := s1.newRanges id d }) (s1.setRoot asid root)
  let fresh (a : Access) : Access := { a with pas := [], merged := false }
  let s3 : State := { s2 with
    accesses := s2.accesses.map fun a => if again a then fresh a else a
    engines := s2.engines.map fun (p : Nat × Engine) => (p.1, if p.2.asid = id then p.2.unread base limit else p.2) }
  .next (back.foldl (fun (s : State) a => s.retranslate (fresh a)) s3)

/-! ## Pushes and takes (R23, R40, R141, R261-R263) -/

/-- The path latency L between two slots (R23). -/
def pathLatency (src dst : Nat) : Nat :=
  if src = dst then 8
  else if src = 36 ∨ dst = 36 then
    (if dieKind src = some .sd ∨ dieKind dst = some .sd then 24 else 40)
  else if src / 9 ≠ dst / 9 then 64
  else if dieKind src = some .md ∧ dieKind dst = some .md then 40
  else 24

/-- The first of a die's pushes on a route, in order of issue tick and then ENGID (R141). -/
def State.firstPush (s : State) (slot route : Nat) : Option PushReq :=
  (s.pushes.filter fun p => p.eng.slot == slot && p.route == route).foldl (fun (best : Option PushReq) p =>
    match best with
    | none => some p
    | some q => if p.issue < q.issue ∨ (p.issue = q.issue ∧ p.eng.key < q.eng.key) then some p else some q) none

/-- The pieces of a push sent from tick `u` (R23, R261). -/
def pushPieces (p : PushReq) (dst win m lat size u : Nat) (first : Nat) : List Piece :=
  let n := (p.pieces.map (·.length)).sum
  (List.range p.pieces.length).map fun k =>
    { id := first + k, eng := p.eng, seq := p.seq, team := p.team, cls := p.cls, dst := dst, win := win, pc := p.pc,
      data := p.pieces.getD k [], land := u + lat + ceilDiv (min n ((k + 1) * size)) (384 * m) - 1 }

/-- PUSH_SEND_START: the first push of a route is sent once the previous one has stopped sending (R141). -/
def execPushSendStart (slot route : Nat) (s : State) : Out :=
  match s.firstPush slot route with
  | none => .next s
  | some p =>
    let d := s.die slot
    let r := d.routeOf route
    let dst := routeSlot r
    let win := routeWindow r
    let m := max 1 (routeModules r)
    let size := winSlotBytes ((s.die dst).wincfgOf win)
    let u := max p.issue (d.routeFree.getD route 0)
    let n := (p.pieces.map (·.length)).sum
    let s1 := { s with
      pushes := s.pushes.filter fun q => q.id != p.id
      pieces := s.pieces ++ pushPieces p dst win m (pathLatency slot dst) size u s.nextId
      nextId := s.nextId + p.pieces.length }
    event s (decide (u ≤ s.ptick) && decide (p.issue < s.ptick))
      (s1.setDie slot { d with routeFree := d.routeFree.put route (u + ceilDiv n (384 * m)) })

/-- A schedule violation by a push piece (R403, R408). -/
def pieceFault (s : State) (p : Piece) (slot : Nat) : FaultEv :=
  { faultAt s p.eng 0x0201 (1 + p.win * 2 ^ 8 + slot * 2 ^ 16 + p.eng.slot * 2 ^ 24) p.pc with seq := p.seq, team := p.team }

/-- PUSH_PIECE_LAND: a piece takes the next slot of its window in ring order and sets its full bit; on a full slot it is
not written and its team stops (R261, R262, R408). A slot that answers no traffic takes none (R13). -/
def execPushPieceLand (id : Nat) (s : State) : Out :=
  match s.pieces.find? fun p => p.id == id with
  | none => .next s
  | some p =>
    let d := s.die p.dst
    let w := d.window p.win
    let k := w.fillPos
    let s1 := { s with pieces := s.pieces.filter fun q => q.id != id }
    let w' : Window := { w with full := w.full ||| ((1 : BitVec 64) <<< k), fillPos := (k + 1) % max 1 (winDepth (d.wincfgOf p.win)) }
    event s (decide (p.land ≤ s.ptick))
      (if s.slotGone p.dst then s1
       else if w.full.getLsbD k then s1.fault (pieceFault s p k)
       else (s1.store (slotPa p.dst p.win k) p.data).updDie p.dst fun d => { d with windows := d.windows.put p.win w' })

/-- The window take at whose slot an engine waits, its slot now full (R40). -/
def State.takeReady (s : State) (id : EngId) (e : Engine) : Bool :=
  match e.status with
  | .blocked (.take w) _ =>
    let win := (s.die id.slot).window w
    win.full.getLsbD win.takePos
  | _ => false

/-- TAKE_RETIRE: an engine at an empty slot that has filled goes on with its take; a take whose copy has performed and
whose least time has passed retires and clears the full bit (R40, R263). -/
def execTakeRetire (id : EngId) (s : State) : Out :=
  let e := s.eng id
  match e.status with
  | .blocked (.take _) _ => event s (s.takeReady id e) (s.setEng id (e.resume (s.dom id.cl) s.ptick))
  | .blocked (.takeEnds w r) _ =>
    let d := s.die id.slot
    let win := d.window w
    let k := win.takePos
    let win' : Window := { win with
      full := win.full &&& ~~~((1 : BitVec 64) <<< k), takePos := (k + 1) % max 1 (winDepth (d.wincfgOf w)) }
    event s (decide ((s.dom id.cl).tickOf r ≤ s.ptick))
      ((s.setEng id { e.resume (s.dom id.cl) s.ptick with consumed := true }).updDie id.slot
        fun d => { d with windows := d.windows.put w win' })
  | _ => .next s

/-! ## Waits that go on -/

/-- A poisoned word or barrier read again by a sleeping engine (R372). -/
def State.sleepPoison (s : State) (id : EngId) (e : Engine) (pa : Nat) : State :=
  (s.setEng id { e with status := .stopped }).fault (faultAt s id 0x0106 (1 + paSlot pa * 256) e.pc)

/-- The home of a word or barrier at which an engine sleeps has gone (R13, R423). -/
def State.sleepGone (s : State) (id : EngId) (e : Engine) (va : Addr) : State :=
  (s.setEng id { e with status := .stopped }).fault (memFaultEv s id e.pc va (.physical 1))

/-- The read of a wait whose translation was dropped, or whose engine has moved, is issued again (R62, R103). -/
def State.readAgain (s : State) (id : EngId) (path cls n : Nat) (va : Addr) (op : AccOp) : State :=
  if s.accesses.any fun a => a.eng == id && a.op == op then s
  else
    let (s1, k, e) := ({ s with cur := id } : State).launchAccess (s.eng id)
      { path := path, cls := cls, acq := true, vas := [(va, n)], need := rRead, op := op } []
    let s2 := s1.setEng id e
    match s2.access k with
    | some a => { s2 with cur := s.cur }.retranslate a
    | none => s

/-- WAIT_REREAD: a sleeping wait reads its word again, unless its home restarts (R111, R423). -/
def execWaitReread (id : EngId) (s : State) : Out :=
  let e := s.eng id
  match e.status with
  | .blocked (.wait none va cls kind x) _ => .next (s.readAgain id pathS cls 8 va (.wait kind x))
  | .blocked (.wait (some pa) va _ kind x) _ =>
    if s.slotGone (paSlot pa) then .next (s.sleepGone id e va)
    else if s.poisoned pa 8 then .next (s.sleepPoison id e pa)
    else event s (s.dieUp (paSlot pa) && waitHolds kind (BitVec.ofNat 64 (natOf (s.view (.eng id) pa 8))) x) (s.setEng id (e.resume (s.dom id.cl) s.ptick))
  | _ => .next s

/-- BAR_WAIT_REREAD: a sleeping barrier wait reads its barrier again, unless its home restarts (R267, R423). -/
def execBarWaitReread (id : EngId) (s : State) : Out :=
  let e := s.eng id
  match e.status with
  | .blocked (.barrier none va cls x) _ => .next (s.readAgain id pathK cls 32 va (.barWait x))
  | .blocked (.barrier (some pa) va _ x) _ =>
    if s.slotGone (paSlot pa) then .next (s.sleepGone id e va)
    else if s.poisoned pa 32 then .next (s.sleepPoison id e pa)
    else event s (s.dieUp (paSlot pa) && barrierHolds (s.barrier pa) x) (s.setEng id (e.resume (s.dom id.cl) s.ptick))
  | _ => .next s

/-- XWAIT_RETIRE: the channel has completed every transfer the xwait names (R268). -/
def execXwaitRetire (id : EngId) (s : State) : Out :=
  let e := s.eng id
  match e.status with
  | .blocked (.xwait t ch x) _ =>
    event s (decide (x.toNat ≤ (s.eng t).chans[idx4 ch].xdone.toNat)) (s.setEng id (e.resume (s.dom id.cl) s.ptick))
  | _ => .next s

/-- Go on in the cycle after the current one (R39). -/
def Engine.resumeAfter (e : Engine) (d : Domain) (t : Nat) : Engine :=
  match e.status with
  | .blocked why since =>
    let c := max (d.cycleOf t + 1) since
    { e with status := .running, nextIssue := c, fbNow := countWait e.fbNow why (c - since) }
  | _ => e

/-- CHANNEL_SLOT_RESUME: the channel has room and walks no chain (R245, R258). -/
def execChannelSlotResume (id : EngId) (s : State) : Out :=
  let e := s.eng id
  match e.status with
  | .blocked (.channel ch) _ =>
    let k := e.chans[idx4 ch]
    event s (decide (k.out.length < 16) && k.chain == .idle) (s.setEng id (e.resume (s.dom id.cl) s.ptick))
  | _ => .next s

/-! ## Byte budgets (R344) -/

/-- A domain takes its new grant at the first interval from its tick on (R344). -/
def Domain.takeGrant (d : Domain) (t : Nat) : Domain :=
  match d.nextGrant with
  | some (at_, g) => if at_ ≤ t then { d with grant := g, nextGrant := none } else d
  | none => d

/-- BYTE_BUDGET_INTERVAL: new grants apply, and every arbiter counter falls by its domain's grant (R344). The first interval
ends at tick 1,200. -/
def execByteBudgetInterval (s : State) : Out :=
  let s1 : State := { s with clusters := s.clusters.map fun (p : Nat × Cluster) => (p.1, { p.2 with dom := p.2.dom.takeGrant s.ptick }) }
  let lower (d : Die) : Die := { d with arb := d.arb.map fun p => (p.1, p.2 - (s1.dom p.1).grant) }
  event s (s.ptick % 1200 == 0 && s.ptick != 0 && s.gov.lastInterval != some s.ptick)
    { s1 with dies := s1.dies.map fun p => (p.1, lower p.2), gov := { s1.gov with lastInterval := some s.ptick } }

end Sys2Proof.Machine
end

