-- ==== Sys2Proof/Machine/Fetch.lean ====
section
/-! DEFINITION. Fetching: the framing of a stream by its sections (02 R35, 21 R395, R397), what an engine finds at its pc,
and which engine issues next (05 R115; log 1). -/

namespace Sys2Proof.Machine

/-- What an engine finds where it expects its next instruction. -/
inductive Found
  | header
  | fault (va : Addr) (f : MemFault)
  | bad (cause detail : Nat)
  | inst (i : Instr)
  deriving DecidableEq, Repr

/-- The detail of a section-length mismatch (R395): the section number expected next, and the reason. -/
def secDetail (e : Engine) (reason : Nat) : Nat := nextSection e.secNum.toNat % 65536 * 65536 + reason

/-- The words of an instruction of `n` words at a pc. -/
def State.words (s : State) (id : EngId) (e : Engine) (pc : Nat) : Nat → Except MemFault (List Word32)
  | 0 => .ok []
  | n + 1 =>
    match s.codeWord id e pc, State.words s id e (pc + 1) n with
    | .ok w, .ok ws => .ok (w :: ws)
    | .error f, _ => .error f
    | _, .error f => .error f

/-- What stands at an engine's pc (R148, R397). -/
def State.found (s : State) (id : EngId) (k : EngKind) (e : Engine) : Found :=
  let b := s.bounds id e
  let pc := e.pc.toNat
  if !e.started || pc == b.2 then .header
  else match s.codeWord id e pc with
    | .error f => .fault (e.codeVa + BitVec.ofNat 80 (4 * pc)) f
    | .ok w =>
      if isHeader w then .bad 0x000A (secDetail e 1)
      else if b.2 < pc + lengthOf w then .bad 0x000A (secDetail e 5)
      else match s.words id e pc (lengthOf w) with
        | .error f => .fault (e.codeVa + BitVec.ofNat 80 (4 * pc)) f
        | .ok ws =>
          match decodeFor k ws with
          | .ok i => .inst i
          | .error r =>
            .bad 0x0001 (opDetail (w.toNat % 4) (if w.toNat % 4 = 0 then op32 w else op10 w) r.bit r.reason)

/-- The engine with its own registers and place, when it runs a sibling's group with the sibling's (R55). -/
def Engine.own (e : Engine) : Engine :=
  match e.lend with
  | none => e
  | some l =>
    { e with
      glob := l.own.glob, win := l.own.win, a := l.own.a, c := l.own.c, lc := l.own.lc, depth := l.own.depth,
      resident := l.own.resident, pc := l.pc, codeVa := l.codeVa, secStart := l.secStart, secEnd := l.secEnd, lend := none }

/-- A stealer past its group, whose result has landed and whose accumulator is clear, goes back to its notify, and the owner's
section can retire (R55). -/
def State.endLend (s : State) (id : EngId) : Option State :=
  let e := s.eng id
  match e.lend with
  | none => none
  | some l =>
    if e.pc ≠ l.past then none
    else if e.nextIssue < max (e.zLand.toList.foldl max 0) (e.storesDone fun _ _ => true) then some (s.updEng id Engine.holdCycle)
    else
      let mark (x : Group) : Group := if x.past = l.past then { x with done := true } else x
      some ((s.updEng l.owner fun o => { o with groups := o.groups.map mark }).setEng id { (e.settle e.nextIssue).own with pend := [] })

/-- Run the engine that issues now: pass a header, raise what the words raise, or give the instruction to `ex`. -/
def runEngine (ex : Instr → State → Out) (s : State) : Out :=
  match s.cur.kind with
  | none => .refused .noSuchEngine
  | some k =>
    match s.endLend s.cur, s.found s.cur k (s.eng s.cur) with
    | some s', _ => .next s'
    | none, .header => ex (.sectionHeaderPass s.cur) s
    | none, .fault va f => onEngine s fun e _ => .next (accessFault s e va f)
    | none, .bad cause detail => onEngine s fun e c => raise s e c (cause, detail)
    | none, .inst i => ex i s

/-- Whether an engine's next issue cycle has begun; a follow-on goes ahead of its own stream (R257). -/
def State.engineDue (s : State) (id : EngId) (e : Engine) : Bool :=
  e.status == .running && e.follow.isEmpty && decide ((s.dom id.cl).tickOf e.nextIssue ≤ s.ptick)

/-- The first engine, in ascending ENGID order, that is due (log 1). -/
def State.dueEngine (s : State) : Option EngId :=
  (s.engines.find? fun p => s.engineDue (EngId.ofKey p.1) p.2).map fun p => EngId.ofKey p.1

/-- The end of a tick. -/
def State.nextTick (s : State) : State := { s with ptick := s.ptick + 1 }

/-! ## The host's probe -/

/-- An engine that executes an opcode-table row's instruction: one that has its subset (R165). -/
def probeEngine (w : Nat) : EngId :=
  if w % 4 = 0 then ⟨0, 0, 0⟩
  else match subsetOf (w / 64 % 1024) with
    | .vector => ⟨4, 0, 0⟩
    | .transfer => ⟨0, 0, 16⟩
    | .lattice => ⟨5, 0, 0⟩
    | .home => ⟨6, 0, 0⟩
    | .message => ⟨8, 0, 0⟩
    | _ => ⟨0, 0, 0⟩

/-- The bytes of three words. -/
def probeBytes (nbits w : Nat) : List Byte := bytesOf 12 (w % 2 ^ nbits)

/-- The engine placed at the start of a section of three words whose code lies at virtual address 0. -/
def Engine.probe (e : Engine) (tick : Nat) : Engine :=
  { e with
    status := .running, codeVa := 0, pc := 0, started := true, secNum := 1, secStart := 0, secEnd := 3, aspace := 0,
    nextIssue := tick }

/-- The instruction in a BD's SRAM, reached through a range entry and an access-table entry; the governor has evaluated in this tick
(R337). -/
def State.probe (s : State) (nbits w : Nat) : State :=
  let id := probeEngine w
  let pa := paOf 6 0
  let s1 := s.updDie id.slot fun d => { d with ranges := ⟨0, 0, 0x0F, BitVec.ofNat 56 pa, 0xFFF, 0⟩ :: d.ranges }
  let s2 := s1.updDie 6 fun d => { d with acc := ⟨0, 0x0F, 0, 0xFFF, 0⟩ :: d.acc }
  let s3 := s2.updEng id fun e => e.probe ((s.dom id.cl).cycleFrom s.ptick)
  { s3 with cur := id, inbox := [], gov := { s3.gov with lastEval := some s.ptick }, mem := writeBytes s3.mem pa (probeBytes nbits w) }

end Sys2Proof.Machine
end

