-- ==== Sys2Proof/Machine/Sections.lean ====
section
/-! DEFINITION. Sections: passing a header (02 R35-R38, 21 R390, R395), retirement (R37), the end of a notify (R52), and
resuming an engine stopped at brk (21 R385). -/

namespace Sys2Proof.Machine

/-- The partner a SECPART field names (R36). -/
def partnerOf (e : Engine) (id : EngId) (i : Nat) : Option EngId :=
  let f := fld e.secpart (16 * i) 16
  if f / 2 ^ 15 = 0 then none else some ⟨id.slot, f / 32 % 16, f % 32⟩

/-- The section of a partner that a header of section `h` names by its low eight bits: the one in h − 128 … h + 127 (R38). -/
def dependency (h after : Nat) : Int := (h : Int) - 128 + ((after : Int) - ((h : Int) - 128)) % 256

/-- Whether every dependency of a header is met (R38). -/
def State.depsMet (s : State) (id : EngId) (e : Engine) (h : Header) : Bool :=
  (List.range 4).all fun i =>
    let after := h.after.getD i 0
    match partnerOf e id i with
    | none => true
    | some p => after == 0 || decide (dependency h.number after ≤ (s.eng p).sret.toNat)

/-- What an engine finds where a header is due: the header, or the fault that stands there (R395, R402). -/
inductive HeaderCheck
  | ok (h : Header)
  | fault (va : Addr) (f : MemFault)
  | bad (cause detail : Nat)
  deriving DecidableEq, Repr

def State.headerAt (s : State) (id : EngId) (e : Engine) : HeaderCheck :=
  let pc := e.pc.toNat
  match s.codeWord id e pc, s.codeWord id e (pc + 1) with
  | .error f, _ => .fault (e.codeVa + BitVec.ofNat 80 (4 * pc)) f
  | .ok w0, w1 =>
    if e.region.isSome then .bad 0x0002 (opDetail 3 0 0xFF 7)
    else if chkInh e.chksb ∧ pc ≠ e.secEnd then .bad 0x000A (secDetail e 1)
    else if e.secNum.toNat = 16383 then .bad 0x000A (secDetail e 4)
    else if !isHeader w0 then .bad 0x000A (secDetail e 2)
    else match w1 with
      | .error f => .fault (e.codeVa + BitVec.ofNat 80 (4 * (pc + 1))) f
      | .ok w1 =>
        let h := headerOf w0 w1
        if h.number ≠ nextSection e.secNum.toNat then .bad 0x000A (secDetail e 3) else .ok h

/-- Whether an engine stands where a header is due. -/
def State.atHeader (s : State) (id : EngId) (e : Engine) : Bool := !e.started || e.pc.toNat == (s.bounds id e).2

/-- Whether an engine may attempt a header now: it runs and its cycle has begun, or it waits there. -/
def State.headerDue (s : State) (id : EngId) (e : Engine) : Bool :=
  s.atHeader id e && (s.engineDue id e || match e.status with | .blocked .header _ => true | _ => false)

/-- Whether a team that drains stops an engine at this header: its section has retired, or it has begun none (R60). -/
def State.drainStops (s : State) (e : Engine) : Bool :=
  match s.teamStateOf e with
  | some (.stopping _ 1 _) => e.sret == e.secNum
  | _ => false

/-- Whether an engine's team drains. -/
def State.draining (s : State) (e : Engine) : Bool :=
  match s.teamStateOf e with
  | some (.stopping _ 1 _) => true
  | _ => false

/-- The entry of a section's counters is opened where the engine stands at its header, the cycles it is blocked there among them
(R56). -/
def Engine.openEntry (e : Engine) (n : BitVec 14) : Engine :=
  if e.fbNow.secNum = n then e
  else { e with fbDone := if e.started then e.fbDone ++ [e.fbNow] else e.fbDone, fbNow := { FbEntry.reset with secNum := n } }

/-- The engine past its header: in section `h` (R35, R56, R334). -/
def Engine.enterSection (e : Engine) (h : Header) (stamp : Nat) : Engine :=
  { e.openEntry (BitVec.ofNat 14 h.number) with
    started := true
    secNum := BitVec.ofNat 14 h.number
    secStart := e.pc.toNat + 2
    secEnd := e.pc.toNat + 2 + h.length
    pc := e.pc + 2
    hdrCycle := e.nextIssue
    progBase := 0
    hdrStamp := stamp }

/-- An engine waits at its header. -/
def Engine.waitHeader (e : Engine) (h : Header) : Engine :=
  match e.status with
  | .blocked .header _ => e
  | _ => { e.openEntry (BitVec.ofNat 14 h.number) with status := .blocked .header e.nextIssue }

/-- SECTION_HEADER_PASS: at a header the engine's section can retire; it passes once every dependency is met, and issues
nothing past it before (R37, R38). The passage takes no cycle. -/
def execSectionHeaderPass (id : EngId) (s : State) : Out :=
  let e := s.reachEnd id (s.eng id)
  let s := { s with cur := id }
  if !s.headerDue id e then .next s
  else match s.headerAt id e with
    | .fault va f => .next (accessFault s e va f)
    | .bad cause detail => raise s ((e.replayAt e.nextIssue).settle e.nextIssue) e.nextIssue (cause, detail)
    | .ok h =>
      if s.peerStops e then .next (s.setEng id { e with status := .stopped })
      else if s.drainStops e then .next (s.setEng id { e with status := .paused none })
      else if !s.draining e && s.depsMet id e h then .next (s.setEng id ((e.resume (s.dom id.cl) s.ptick).enterSection h s.nextId))
      else .next (s.setEng id (e.waitHeader h))

/-- Whether an engine has issued its notify (R193). -/
def Engine.notifies (e : Engine) : Bool :=
  match e.status with
  | .notifying _ => true
  | .finished => true
  | _ => false

/-- Whether a section's results have landed and its stores performed (R37), and no group stolen from it is still running
(R55). -/
def State.sectionDone (s : State) (id : EngId) (e : Engine) (p : SecPend) : Bool :=
  decide (p.landBy ≤ s.cycleNow id.cl)
    && p.accs.all (fun n => !s.accesses.any (fun a => a.id == n && !s.performedAt a 1) && !(s.replies.any fun r => r.id == n)
        && !((s.cluster id.cl).fills.any fun x => x.id == n) && !e.transfers.any fun t => t.uid == n)
    && !e.groups.any fun g => g.taken && !g.done

/-- Whether an engine's notify retires: its release has performed at its scope, nothing is on its way back, and every follow-on
handed to it has landed (R193, R257). -/
def State.notifyDone (s : State) (id : EngId) (e : Engine) (scope : Nat) : Bool :=
  s.releasable id s.nextId [] scope && !(s.replies.any fun r => r.eng == id) && e.follow.isEmpty
    && decide (e.mtxUntil ≤ s.cycleNow id.cl) && e.zLand.toList.all fun c => decide (c ≤ s.cycleNow id.cl)

/-- The saves of a section are seen by every section that passes its header later (R239). -/
def State.retireSaves (s : State) (id : EngId) (h : BitVec 14) : State :=
  let mark (x : SaveLayer) : SaveLayer := if x.eng = id ∧ x.secNum = h ∧ x.retired = none then { x with retired := some s.nextId } else x
  { s with nextId := s.nextId + 1 }.updCluster id.cl fun cl => { cl with saves := cl.saves.map mark }

/-- SECTION_RETIRE: the oldest section an engine has left retires, and SRET becomes its number; a deadline declared in it
lapses. With none left, a notify whose release has performed retires (R37, R52, R335). -/
def execSectionRetire (id : EngId) (s : State) : Out :=
  let e := s.eng id
  match e.secPend with
  | p :: rest =>
    event s (s.sectionDone id e p) ((s.retireSaves id p.secNum).setEng id { e with
      sret := p.secNum
      secPend := rest
      groups := e.groups.filter fun g => !g.done
      deadl := e.deadl.filter fun d => d.secNum != p.secNum })
  | [] =>
    match e.status with
    | .notifying scope => event s (s.notifyDone id e scope) (s.setEng id { e with status := .finished })
    | _ => .next s

/-- A stopped engine of a cluster goes on at EPC, its captured results replayed (R385). -/
def State.resumeBrk (s : State) (id : EngId) : State :=
  s.updEng id fun e =>
    if e.status = .atBrk then { e.rebase ((s.dom id.cl).cycleFrom s.ptick) with status := .running, pc := BitVec.ofNat 32 (fld e.epc 0 32) } else e

/-- ENGSTOP_RESUME: a write of ones to ENGSTOP resumes the engines named (R385). -/
def execEngstopResume (cl : Nat) (v : Word) (s : State) : Out :=
  let k := s.cluster cl
  let named := (List.range 17).filter fun i => v.getLsbD i && k.engstop.getLsbD i
  .next (named.foldl (fun (s : State) i => s.resumeBrk ⟨cl / 16, cl % 16, i⟩)
    (s.setCluster cl { k with engstop := k.engstop &&& ~~~(v.extractLsb' 0 17) }))

end Sys2Proof.Machine
end

