-- ==== Sys2Proof/Machine/Matrix.lean ====
section
/-! DEFINITION. Tile registers (09 R226-R229, 02 R39), the multiply forms (R230-R236), the broadcast bus (R237, R238, 21
R394), accumulators and save slots (R239, R240), follow-ons (10 R257) and relocatable groups (02 R54, R55, R243). -/

namespace Sys2Proof.Machine

/-! ## Tiles (R227) -/

/-- Bytes of a tile row of a format. -/
def rowBytes (f : Nat) : Nat := match f with | 0xB => 192 | 0xC => 256 | _ => 128

/-- Bytes of block deltas of a format. -/
def deltaBytes (f : Nat) : Nat := match f with | 7 => 128 | 8 => 128 | 0xA => 128 | 9 => 256 | _ => 0

/-- Elements of an operand row: K(f), with the pair formats of mmp. -/
def rowElems (f : Nat) : Nat := match f with | 0xB => 64 | 0xC => 128 | _ => tileK f

/-- The raw elements of row `r` of a tile. -/
def Tile.raw (t : Tile) (f r : Nat) : List Nat :=
  let bs := (t.elems.drop (r * rowBytes f)).take (rowBytes f)
  (List.range (rowElems f)).map fun k => elemAt (elemBits f) bs k

/-- The values of row `r` of an operand tile under a tile base (R65, R66, R70, R71). -/
def Tile.row (t : Tile) (f : Nat) (b : Int) (r : Nat) : List FVal :=
  if isMx f then
    ((t.raw f r).zip (List.range (rowElems f))).map fun p =>
      mxValue f p.1 (elemAt 4 t.deltas (r * (rowElems f / 32) + p.2 / 32)) b
  else (t.raw f r).map (plainValue f)

/-- The 64 rows of an operand tile. -/
def Tile.rows (t : Tile) (f : Nat) (b : Int) : List (List FVal) := (List.range 64).map (t.row f b)

/-- The tile base a scalar register gives (R70). -/
def Engine.tileBase (e : Engine) (code : Nat) : Int := sintOf 8 (fld (e.val code) 0 8)

def State.tile (s : State) (id : EngId) (t : Nat) : Tile := (s.cluster id.cl).tiles[idx16 t]
def State.setTile (s : State) (cl t : Nat) (v : Tile) : State :=
  s.updCluster cl fun k => { k with tiles := k.tiles.set (idx16 t) v }

/-- A tile read consumingly in cycle `c` of a domain: it takes a write from the end of that cycle on (R39, R241). -/
def Tile.read (t : Tile) (d : Domain) (c : Nat) : Tile := { t with full := false, emptied := d.tickOf (c + 1), given := none }

/-- A consuming read in cycle `c` empties a tile (R39), which keeps a region from being run again (R405). -/
def State.consumeTile (s : State) (id : EngId) (c t : Nat) : State :=
  (s.setTile id.cl t ((s.tile id t).read (s.dom id.cl) c)).updEng id fun e => { e with consumed := true }

/-! ## The own scratchpad (R91, R399) -/

/-- The physical address of `n` bytes in the engine's own scratchpad (R228, R399). -/
def State.ownScratch (s : State) (id : EngId) (va : Addr) (n : Nat) : Option Nat :=
  if isLocal va then match s.localAccess id va n with | .pa a => some a | _ => none
  else none

/-- The first of some pieces outside the own scratchpad. -/
def State.outsideScratch (s : State) (id : EngId) (vas : List (Addr × Nat)) : Option Addr :=
  (vas.find? fun p => (s.ownScratch id p.1 p.2).isNone).map (·.1)

/-- The physical pieces of addresses in the own scratchpad. -/
def State.scratchPas (s : State) (id : EngId) (vas : List (Addr × Nat)) : List (Nat × Nat) :=
  vas.filterMap fun p => (s.ownScratch id p.1 p.2).map fun a => (a, p.2)

/-- The first bank touched that is neither of format `f` nor RAW (R388 kinds 1 and 3). -/
def State.bankFault (s : State) (op f : Nat) (pas : List (Nat × Nat)) : Option (Nat × Nat) :=
  let banks := (pas.flatMap fun p => s.banksAt p.1 p.2).filter fun b => b.2 != 0 && b.2 != f
  match banks.find? fun b => decide (b.2 < 0xD), banks with
  | some b, _ => some (fmtFault op 1 b.1 b.2 f)
  | none, b :: _ => some (fmtFault op 3 b.1 b.2 f)
  | none, [] => none

/-- Where the rows and deltas of a tile lie (R228): row r at EA + r × P, the deltas at EA + 64 × row bytes. -/
def tilePlaces (va : Addr) (pitch row delta : Nat) : List (Addr × Nat) :=
  ((List.range 64).map fun r => (va + BitVec.ofNat 80 (r * pitch), row))
    ++ (if delta = 0 then [] else [(va + BitVec.ofNat 80 (64 * row), delta)])

/-- Write a run of bytes over physical pieces. -/
def State.writePieces (s : State) : List (Nat × Nat) → List Byte → State
  | [], _ => s
  | (pa, n) :: r, bs => State.writePieces (s.store pa (bs.take n)) r (bs.drop n)

/-- What an access of rows meets: an engine-level fault of its pitch or banks, or a memory fault (R244, R399). -/
structure RowCheck where
  pitch : Nat
  vas : List (Addr × Nat)
  early : List (Option (Nat × Nat))
  mem : Option (Addr × MemFault)

/-- The checks of tld, tst and zout, whose format is `f` with `row` bytes and `delta` delta bytes (R228, R229, R239, R244). -/
def rowCheck (s : State) (e : Engine) (f : LG) (op fmt row delta : Nat) : RowCheck :=
  let va := e.ea f.a.toNat f.b.toNat f.imm.val
  let pitch := if f.x = 63 then row else (e.val f.x.toNat).toNat
  let vas := tilePlaces va pitch row delta
  { pitch := pitch
    vas := vas
    early := [check (pitch % 64 != 0) (illOperand f.imm.len op 38 4),
      s.bankFault op fmt (s.scratchPas s.cur vas),
      check (isMx fmt && f.x != 63) (fmtFault op 5 0x1F fmt 0xF)]
    mem := if va.toNat % 64 ≠ 0 then some (va, .misaligned 6)
      else (s.outsideScratch s.cur vas).map fun a => (a, .physical 3) }

/-- Registers an address operand with a pitch reads. -/
def rowReads (e : Engine) (f : LG) : List Dest := [e.destOf f.a.toNat, e.destOf f.b.toNat, e.destOf f.x.toNat]

/-- tld: fills a tile from the own scratchpad, blocking while the tile is full at issue (R228, R241). -/
def execTld (f : LG) (s : State) : Out :=
  onEngine s fun e c =>
    let fmt := f.mod.toNat
    let k := rowCheck s e f 0x200 fmt (rowBytes fmt) (deltaBytes fmt)
    let t := f.d.toNat % 16
    guarded s e c (rowReads e f) [] k.early <|
      match k.mem with
      | some (va, m) => .next (accessFault s e va m)
      | none =>
        let pas := s.scratchPas s.cur k.vas
        if (s.tile s.cur t).full then .next (blockOn s (.tile t false))
        else if s.acquiring e then .next (holdOne s)
        else if pas.any fun p => s.poisoned p.1 p.2 then .next (poisonFault s e 1 s.cur.slot)
        else
          let bs := (s.viewAll (.eng s.cur) pas).flatten
          let (l, s) := s.lat
          let (n, s) := s.newId
          let ready := (s.dom s.cur.cl).tickOf (max (c + 16) (e.storesDone fun _ _ => true))
          let fill : Fill := ⟨n, t, ⟨true, BitVec.ofNat 4 fmt, bs.take (64 * rowBytes fmt), bs.drop (64 * rowBytes fmt), 0, 0, none⟩,
            max ready (s.ptick + l), s.cur, none⟩
          finish (s.updCluster s.cur.cl fun cl => { cl with fills := cl.fills ++ [fill] }) e c f.imm.words f.stall.toNat []

/-- tst: writes a full tile back to the own scratchpad (R229). -/
def execTst (f : LG) (s : State) : Out :=
  onEngine s fun e c =>
    let t := f.d.toNat % 16
    let v := s.tile s.cur t
    let fmt := v.tag.toNat
    let k := rowCheck s e f 0x201 fmt (rowBytes fmt) (deltaBytes fmt)
    if e.awaits (rowReads e f) then .next (holdOne s)
    else if !v.full then .next (blockOn s (.tile t true))
    else guarded s e c (rowReads e f) [] k.early <|
      match k.mem with
      | some (va, m) => .next (accessFault s e va m)
      | none =>
        if s.acquiring e ∨ s.shadowed s.cur s.nextId (s.scratchPas s.cur k.vas) then .next (holdOne s)
        else
          let bytes := 64 * rowBytes fmt + deltaBytes fmt
          let (done, s0) := s.writtenBy (s.scratchPas s.cur k.vas) bytes c
          let s1 := s0.writePieces (s.scratchPas s.cur k.vas) (v.elems ++ v.deltas)
          let keep := f.mod.getLsbD 0
          let s2 := if keep then s1 else s1.setTile s.cur.cl t (v.read (s.dom s.cur.cl) c)
          finish s2 ({ e with consumed := e.consumed || !keep }.writing pathM f.cls.toNat c done) c f.imm.words f.stall.toNat []

/-! ## Fills (R39, R228, R256) -/

/-- Whether every access an engine made before a fill has performed at die scope, at which the fill releases them (R128, R132). -/
def State.fillFree (s : State) (x : Fill) : Bool :=
  s.earlierDone x.by_ x.id (((s.eng x.by_).transfers.filter (·.moved)).map (·.uid)) 2 && !s.passesOn x.by_ 2

/-- The engines of a cluster blocked on a full tile that they would fill (R39). -/
def State.tileWriters (s : State) (cl tile : Nat) : List EngId :=
  ((List.range 17).map fun i => (⟨cl / 16, cl % 16, i⟩ : EngId)).filter fun id =>
    match (s.eng id).status with
    | .blocked (.tile t false) _ => t == tile
    | _ => false

/-- The engine that an emptying of a tile lets go on, while it stands at its write or its write is on its way (R39). -/
def State.givenTo (s : State) (cl tile : Nat) : Option EngId :=
  match (s.cluster cl).tiles[idx16 tile].given with
  | some (id, pc) =>
    if ((s.eng id).status = .running ∧ (s.eng id).pc = pc) ∨ ((s.cluster cl).fills.any fun x => x.by_ == id && x.tile == tile) then some id
    else none
  | none => none

/-- Whether a ready write of a tile may land now: the tile is empty, and of the writers that were blocked on it the lowest engine goes
first, one for each emptying (R39, R241). -/
def State.fillAdmitted (s : State) (x : Fill) : Bool :=
  let cl := x.by_.cl
  let t := (s.cluster cl).tiles[idx16 x.tile]
  !t.full && decide (t.emptied ≤ s.ptick) && match s.givenTo cl x.tile with
    | some _ => decide (t.emptied ≤ x.ready)
    | none => (s.tileWriters cl x.tile).all fun id => decide (x.by_.key ≤ id.key)

/-- The fill of a tile that comes next: the ready one of the lowest engine (R39). -/
def State.nextFill (s : State) (cl tile : Nat) : Option Fill :=
  ((s.cluster cl).fills.filter fun x => x.tile == tile && decide (x.ready ≤ s.ptick) && s.fillFree x).foldl
    (fun (best : Option Fill) x => match best with
      | none => some x
      | some y => if x.by_.key < y.by_.key ∨ (x.by_.key = y.by_.key ∧ x.id < y.id) then some x else some y) none

/-- TILE_FILL: a tile write lands in an empty tile (R39); a release, it comes after what its engine did before (R132). -/
def execTileFill (cl tile : Nat) (s : State) : Out :=
  match s.nextFill cl tile with
  | none => .next s
  | some x =>
    let k := s.cluster cl
    event s (s.fillAdmitted x)
      (s.setCluster cl { k with
        tiles := k.tiles.set (idx16 tile) { x.data with full := true, since := s.ptick }
        fills := k.fills.filter fun y => y.id != x.id })

/-- Whether a blocked writer is the one that a tile's emptying lets go on (R39). -/
def State.writerNext (s : State) (id : EngId) (tile : Nat) : Bool :=
  let t := s.tile id tile
  !t.full && decide (t.emptied ≤ s.ptick) && (s.givenTo id.cl tile).isNone
    && (s.tileWriters id.cl tile).all (fun w => decide (id.key ≤ w.key))
    && match s.nextFill id.cl tile with
      | some x => decide (id.key < x.by_.key)
      | none => true

/-- TILE_WAIT_RESUME: the tile has become full, or has emptied and lets this writer go on; the engine proceeds in the next cycle
(R39). -/
def execTileWaitResume (id : EngId) (s : State) : Out :=
  let e := s.eng id
  match e.status with
  | .blocked (.tile t true) _ => event s (s.tile id t).full (s.setEng id (e.resumeAfter (s.dom id.cl) s.ptick))
  | .blocked (.tile t false) _ =>
    event s (s.writerNext id t)
      ((s.setEng id (e.resumeAfter (s.dom id.cl) s.ptick)).setTile id.cl t { s.tile id t with given := some (id, e.pc) })
  | _ => .next s

/-! ## Multiply forms (R230-R236) -/

/-- The multiply forms. -/
inductive MForm
  | mma | mmp | mmg | mmw | mmdm | mmdq
  deriving DecidableEq, Repr

def MForm.op (m : MForm) : Nat :=
  match m with | .mma => 0x208 | .mmp => 0x209 | .mmg => 0x20A | .mmw => 0x20B | .mmdm => 0x20C | .mmdq => 0x20D

/-- mod bits of R230. -/
def keepA (f : LM) : Bool := f.mod.getLsbD 0
def keepB (f : LM) : Bool := f.mod.getLsbD 1
def upper (f : LM) : Bool := f.mod.getLsbD 2
def bcast (f : LM) : Bool := f.mod.getLsbD 3
def bcMask (f : LM) : BitVec 4 := f.mod.extractLsb' 4 4

/-- Whether a form reads a tile ta. -/
def MForm.readsA (m : MForm) : Bool := m != .mmw

/-- The scalar registers a form reads (R231-R236). -/
def MForm.regs (m : MForm) (f : LM) : List Nat :=
  (if isMx f.fa.toNat && (m == .mma || m == .mmp) then [f.sba.toNat] else [])
    ++ (if isMx f.fb.toNat && (m == .mma || m == .mmg || m == .mmw) then [f.sbb.toNat] else [])
    ++ (match m with
      | .mmp | .mmdq => (List.range 4).map fun j => f.sx.toNat + j
      | .mmg | .mmw => [f.sx.toNat]
      | _ => [])

/-- The row pitch of mmg (R235). -/
def gatherPitch (v : Word) : Nat := if fld v 32 16 = 0 then 128 else fld v 32 16

/-- The illegal operands of a form (R244, R390). -/
def MForm.operandFaults (m : MForm) (f : LM) (e : Engine) (me : Nat) : List (Option (Nat × Nat)) :=
  let v := e.val f.sx.toNat
  [check ((m == .mmp || m == .mmdq) && f.sx.toNat % 4 != 0) (illOperand 1 m.op 41 2),
   check ((m == .mmdm || m == .mmdq) && upper f && f.fa == 2) (illOperand 1 m.op 56 3),
   check (bcast f && !(bcMask f).getLsbD me) (illOperand 1 m.op 58 3),
   check (m == .mmg && gatherPitch v % 64 != 0) (illOperand 1 m.op 41 4),
   check (m == .mmw && (fld v 40 8 == 0 || fld v 32 8 == 0)) (illOperand 1 m.op 41 4)]

/-- A tile tag unequal to the field that names it (R388 kind 0). -/
def tagFault (op : Nat) (t : Tile) (need : Nat) : Option (Nat × Nat) :=
  check (t.tag.toNat != need) (fmtFault op 0 0x1F t.tag.toNat need)

/-- The pool offset of row `r` of A in mmg and mmw; none is a row of zeros (R235, R236). -/
def MForm.rowOff (m : MForm) (v : Word) (idx : List Byte) (r : Nat) : Option Int :=
  match m with
  | .mmg =>
    let i := bytesFld idx (2 * r) 2
    if i = 0xFFFF then none else some ((fld v 0 28 + i * gatherPitch v : Nat) : Int)
  | _ =>
    let tw := fld v 40 8
    some (fld v 0 28 + (((r / tw : Nat) + sintOf 8 (fld v 56 8)) * (fld v 32 8 : Nat) + ((r % tw : Nat) : Int) + sintOf 8 (fld v 48 8)) * 128)

/-- The address of a pool offset as R399 reports it, and whether it can be one of the aperture. -/
def offVa (o : Int) : Addr := localVa (o % 2 ^ 28).toNat
def offOk (o : Int) : Bool := decide (0 ≤ o) && decide (o < 2 ^ 28)

/-- The rows of A that mmg and mmw read: their addresses, in row order. -/
def MForm.rowVas (m : MForm) (v : Word) (idx : List Byte) : List (Option Int) := (List.range 64).map (m.rowOff v idx)

/-- The first row outside the scratchpad (R399). -/
def State.rowOutside (s : State) (id : EngId) (offs : List (Option Int)) : Option Addr :=
  offs.findSome? fun o => match o with
    | some o => if offOk o && (s.ownScratch id (offVa o) 128).isSome then none else some (offVa o)
    | none => none

def State.rowPas (s : State) (id : EngId) (offs : List (Option Int)) : List (Nat × Nat) :=
  offs.filterMap fun o => match o with
    | some o => if offOk o then (s.ownScratch id (offVa o) 128).map fun a => (a, 128) else none
    | none => none

/-- The values of the rows read (R235, R236). -/
def State.rowValues (s : State) (id : EngId) (f : Nat) (offs : List (Option Int)) : List (List FVal) :=
  offs.map fun o => match o with
    | none => List.replicate (rowElems f) (.fin false 0 0)
    | some o => match s.ownScratch id (offVa o) 128 with
      | some a => (List.range (rowElems f)).map fun k => plainValue f (elemAt (elemBits f) (s.view (.eng id) a 128) k)
      | none => []

/-- Chunks of sixteen products (R85). -/
def chunks16 : Nat → List FVal → List (List FVal)
  | 0, _ => []
  | n + 1, l => if l.isEmpty then [] else l.take 16 :: chunks16 n (l.drop 16)

/-- The compensated sum of exact products into an element, chunk by chunk (R84-R86). -/
def accumulate (z : AccElem) (ps : List FVal) : AccElem := (chunks16 16 ps).foldl (fun z c => z.update (chunkSum c)) z

def AccElem.zero : AccElem := ⟨0, 0⟩

/-- The tile of accumulator elements of a function of row and column; (+0, +0) is not listed. -/
def accTile (f : Nat → Nat → AccElem) : AMap AccElem :=
  (List.range 4096).filterMap fun n => let v := f (n / 64) (n % 64); if v = .zero then none else some (n, v)

/-- Column `k` of rows. -/
def column (rows : List (List FVal)) (k : Nat) : List FVal := rows.map fun r => r.getD k (.fin false 0 0)

/-- The deviate's value times 1,024 for the quad at sx (R232). -/
def Engine.deviate (e : Engine) (sx n : Nat) : Int :=
  gaussOf (skein (e.val sx) ((e.val (sx + 1)).extractLsb' 0 16) ((e.val (sx + 1)).extractLsb' 16 16) (BitVec.ofNat 32 n))

/-- The counter of element (j, k) for the quad at sx (R232). -/
def Engine.pairCtr (e : Engine) (sx j k : Nat) : Nat :=
  (fld (e.val (sx + 2)) 0 32 + j * fld (e.val (sx + 3)) 0 32 + k) % 2 ^ 32

/-- Row `j` of the perturbed operand of mmp (R232). -/
def Engine.weightRow (e : Engine) (f : LM) (b : Tile) (j : Nat) : List FVal :=
  let code := f.fb.toNat
  ((b.raw code j).zip (List.range (rowElems code))).map fun p =>
    plainValue (if code = 0xB then 2 else 3) (perturb code p.1 (e.deviate f.sx.toNat (e.pairCtr f.sx.toNat j p.2)))

/-- The accumulator after a multiply: `a` the rows of A, `b` the tile read from tb or the bus (R231-R236). -/
def Engine.product (e : Engine) (m : MForm) (f : LM) (a : List (List FVal)) (b : Tile) (z : AMap AccElem) : AMap AccElem :=
  let old (n : Nat) : AccElem := z.getD n .zero
  let h := if upper f then 64 else 0
  let eps (j k : Nat) : FVal := .ofInt (e.deviate f.sx.toNat (e.pairCtr f.sx.toNat j k)) (-10)
  match m with
  | .mmdm =>
    let g := b.rows 2 0
    accTile fun j k => accumulate (old (64 * j + k)) (List.zipWith FVal.mul (column g j) (column a (h + k)))
  | .mmdq =>
    let g := b.rows 2 0
    accTile fun j k => accumulate (old (64 * j + k))
      ((List.zipWith FVal.mul (column g j) (column a (h + k))).map fun p => p.mul (eps j (h + k)))
  | _ =>
    let bs := match m with
      | .mmp => (List.range 64).map (e.weightRow f b)
      | _ => b.rows f.fb.toNat (e.tileBase f.sbb.toNat)
    accTile fun i j => accumulate (old (64 * i + j)) (List.zipWith FVal.mul (a.getD i []) (bs.getD j []))

/-- What a multiply reads at its issue: A's tile, its row offsets, and B's tile. -/
structure MRead where
  ta : Tile
  offs : List (Option Int)
  tb : Tile

def State.mread (s : State) (id : EngId) (e : Engine) (m : MForm) (f : LM) (tb : Tile) : MRead :=
  let ta := s.tile id f.ta.toNat
  { ta := ta
    offs := if m == .mmg || m == .mmw then m.rowVas (e.val f.sx.toNat) ta.elems else []
    tb := tb }

/-- The format mismatches of a multiply, kind 0 first (R388). -/
def State.mfmtFaults (s : State) (id : EngId) (m : MForm) (f : LM) (r : MRead) : List (Option (Nat × Nat)) :=
  [if m.readsA && m != .mmg then tagFault m.op r.ta f.fa.toNat else none,
   tagFault m.op r.tb f.fb.toNat,
   s.bankFault m.op f.fa.toNat (s.rowPas id r.offs)]

/-- A multiply issues at cycle `c` on engine `id`: its accumulator and when its last update lands (R231-R241). -/
def State.multiplied (s : State) (id : EngId) (e : Engine) (c : Nat) (m : MForm) (f : LM) (r : MRead) : Engine :=
  let a := if m == .mmg || m == .mmw then s.rowValues id f.fa.toNat r.offs else r.ta.rows f.fa.toNat (e.tileBase f.sba.toNat)
  let i := idx8 f.zd.toNat
  { e with
    z := e.z.set i (e.product m f a r.tb e.z[i])
    zLand := e.zLand.set i (c + 20)
    mtxUntil := c + 8 }

/-- The tiles a multiply empties (R230): a tile named twice is emptied unless both reads keep it. -/
def consumedTiles (m : MForm) (f : LM) (ownB : Bool) : List Nat :=
  (if m.readsA && !keepA f then [f.ta.toNat] else []) ++ (if ownB && !keepB f then [f.tb.toNat] else [])

def State.consumeAll (s : State) (id : EngId) (c : Nat) (l : List Nat) : State := l.foldl (fun (s : State) t => s.consumeTile id c t) s

/-- The memory fault of a multiply's row reads: outside the scratchpad, or poisoned (R399, R403). -/
def State.mrowFault (s : State) (id : EngId) (r : MRead) : Option (Addr × MemFault) :=
  (s.rowOutside id r.offs).map fun a => (a, .physical 3)

def State.mpoison (s : State) (id : EngId) (r : MRead) : Bool := (s.rowPas id r.offs).any fun p => s.poisoned p.1 p.2

/-- The first tile a multiply reads that is empty (R39). -/
def State.emptyTile (s : State) (id : EngId) (m : MForm) (f : LM) (ownB : Bool) : Option Nat :=
  if m.readsA && !(s.tile id f.ta.toNat).full then some f.ta.toNat
  else if ownB && !(s.tile id f.tb.toNat).full then some f.tb.toNat
  else none

/-- A multiply at its engine (R231-R241): without `.bc` it reads its tiles and issues for eight cycles; with it, it is held
until its group starts (R238). -/
def multiply (m : MForm) (f : LM) (s : State) : Out :=
  onEngine s fun e c =>
    let reads := (m.regs f).map e.destOf
    let early := m.operandFaults f e s.cur.index
    if bcast f then
      guarded s e c reads [] early <|
        if s.acquiring e then .next (holdOne s)
        else .next ((blockOn s .group).updEng s.cur fun e => { e with bc := some ⟨e.bcCount, bcMask f, f.fb, c, none⟩ })
    else if e.awaits reads then .next (holdOne s)
    else match firstFault early, s.emptyTile s.cur m f true with
      | none, some t => .next (blockOn s (.tile t true))
      | _, _ =>
        let r := s.mread s.cur e m f (s.tile s.cur f.tb.toNat)
        guarded s e c reads [] (early ++ s.mfmtFaults s.cur m f r) <|
          match s.mrowFault s.cur r with
          | some (va, x) => .next (accessFault s e va x)
          | none =>
            if s.acquiring e then .next (holdOne s)
            else if s.mpoison s.cur r then .next (poisonFault s e 4 s.cur.slot)
            else .next ((s.setEng s.cur ((s.multiplied s.cur e c m f r).advance c 2 (f.stall.toNat + 7))).consumeAll s.cur c
              (consumedTiles m f true))

/-- mma (R231). -/
def execMma (f : LM) (s : State) : Out := multiply .mma f s

/-- mmp (R232). -/
def execMmp (f : LM) (s : State) : Out := multiply .mmp f s

/-- mmg (R235). -/
def execMmg (f : LM) (s : State) : Out := multiply .mmg f s

/-- mmw (R236). -/
def execMmw (f : LM) (s : State) : Out := multiply .mmw f s

/-- mmdm (R233). -/
def execMmdm (f : LM) (s : State) : Out := multiply .mmdm f s

/-- mmdq (R234). -/
def execMmdq (f : LM) (s : State) : Out := multiply .mmdq f s

/-- The multiply that an instruction is. -/
def multiplyOf (i : Instr) : Option (MForm × LM) :=
  match i with
  | .mma f => some (.mma, f)
  | .mmp f => some (.mmp, f)
  | .mmg f => some (.mmg, f)
  | .mmw f => some (.mmw, f)
  | .mmdm f => some (.mmdm, f)
  | .mmdq f => some (.mmdq, f)
  | _ => none

/-- The multiply an engine stands at. -/
def State.multiplyAt (s : State) (id : EngId) : Option (MForm × LM) :=
  match s.found id .me (s.eng id) with
  | .inst i => multiplyOf i
  | _ => none

/-! ## The broadcast bus (R237, R238, R394) -/

/-- The matrix engines of a cluster that a mask names. -/
def bcMembers (cl : Nat) (mask : BitVec 4) : List EngId :=
  ((List.range 4).filter fun i => mask.getLsbD i).map fun i => ⟨cl / 16, cl % 16, i⟩

/-- The `.bc` instruction at which an engine is held. -/
def State.heldBc (s : State) (id : EngId) : Option BcHold :=
  match (s.eng id).status with
  | .blocked .group _ => (s.eng id).bc
  | _ => none

/-- The engines named by a mask, and by every mask of an engine named, of the n-th `.bc` instructions. -/
def State.bcNames (s : State) (cl n : Nat) : Nat → BitVec 4 → BitVec 4
  | 0, m => m
  | fuel + 1, m =>
    State.bcNames s cl n fuel ((bcMembers cl 15).foldl (fun m id =>
      match s.heldBc id with
      | some h => if h.n = n ∧ h.mask &&& m ≠ 0 then m ||| h.mask else m
      | none => m) m)

/-- Held cycles end: the engine stands at cycle `c` (R56, R238). -/
def Engine.leaveGroup (e : Engine) (c : Nat) : Engine :=
  match e.status with
  | .blocked w since => { e with status := .running, nextIssue := c, bc := none, fbNow := countWait e.fbNow w (c - since) }
  | _ => e

/-- The engine as it stands at cycle `c`, every result that lands before it landed. -/
def State.engineAt (s : State) (id : EngId) (c : Nat) : Engine := (((s.eng id).leaveGroup c).replayAt c).settle c

/-- The broadcast mismatch of a member (R394). -/
def bcMismatch (held : List (EngId × BcHold)) (h : BcHold) : Nat × Nat :=
  let diff := held.foldl (fun n p => if p.2.mask = h.mask ∧ p.2.fb = h.fb then n else n + 2 ^ p.1.index) 0
  (0x0009, h.fb.toNat * 2 ^ 8 + diff * 2 ^ 4 + h.mask.toNat)

/-- One member's multiply once its group has started at cycle `c` with B from the bus. -/
def State.bcRun (s : State) (id : EngId) (c : Nat) (src : Bool) (tb : Tile) : State :=
  match s.multiplyAt id with
  | none => s
  | some (m, f) =>
    let e := s.engineAt id c
    let r := s.mread id e m f tb
    let s' := { s with cur := id }
    match s.mrowFault id r with
    | some (va, x) => accessFault s' e va x
    | none =>
      if s.mpoison id r then poisonFault s' e 4 id.slot
      else
        let e' := (s.multiplied id { e with bcCount := e.bcCount + 1 } c m f r).advance c 2 (f.stall.toNat + 7)
        (s.setEng id e').consumeAll id c (consumedTiles m f src)

/-- The tag faults of a member (R244), which leave it at its instruction. -/
def State.bcFault (s : State) (id : EngId) (c : Nat) (tb : Tile) : Option (Nat × Nat) :=
  match s.multiplyAt id with
  | none => none
  | some (m, f) => firstFault (s.mfmtFaults id m f (s.mread id (s.engineAt id c) m f tb))

/-- The cycle in which a group can start: after its last member has issued and every tile it reads has become full. -/
def State.bcStart (s : State) (cl : Nat) (held : List (EngId × BcHold)) : Nat :=
  let d := s.dom cl
  held.foldl (fun c p =>
    match s.multiplyAt p.1 with
    | none => max c (p.2.cycle + 1)
    | some (m, f) =>
      max (max c (p.2.cycle + 1)) (if m.readsA then d.cycleOf (s.tile p.1 f.ta.toNat).since + 1 else 0)) (s.cycleNow cl)

/-- Whether no engine of the cluster with a lower number has an instruction of its own to issue now: reads of one cycle are served in
ascending ENGID order (R226). -/
def State.lowestNow (s : State) (id : EngId) : Bool :=
  (List.range id.index).all fun i => !s.engineDue ⟨id.slot, id.cluster, i⟩ (s.eng ⟨id.slot, id.cluster, i⟩)

/-- The first member of a started group that has not run, and its place on the bus. -/
def State.bcWaiting (s : State) (cl : Nat) (mask : BitVec 4) : Option (EngId × BcHold × Bus) :=
  (bcMembers cl mask).findSome? fun id => match s.heldBc id with
    | some h => h.bus.map fun b => (id, h, b)
    | none => none

/-- The cycle in which a member of a started group runs: the group's, or the one after its tile, consumed by another member, has
filled again (R226). -/
def State.bcCycle (s : State) (id : EngId) (b : Bus) (m : MForm) (f : LM) : Nat :=
  if m.readsA then max b.cycle ((s.dom id.cl).cycleOf (s.tile id f.ta.toNat).since + 1) else b.cycle

/-- A member of a started group runs: the first whose tile is full and whose turn it is (R226, R237). -/
def State.bcMember (s : State) (cl : Nat) (mask : BitVec 4) : Option State :=
  (bcMembers cl mask).findSome? fun id =>
    match s.heldBc id, s.multiplyAt id with
    | some h, some (m, f) =>
      match h.bus with
      | none => none
      | some b =>
        let c := s.bcCycle id b m f
        let src := (bcMembers cl h.mask).head? == some id
        if (m.readsA && !(s.tile id f.ta.toNat).full) || !s.lowestNow id || decide (s.ptick < (s.dom cl).tickOf c) then none
        else match s.bcFault id c b.tile with
          | some x => let e := s.engineAt id c; some (takeException s id e c x.1 x.2 e.pc)
          | none => some (s.bcRun id c src b.tile)
    | _, _ => none

/-- BROADCAST_GROUP_START: the n-th `.bc` instructions of a mask's members, all reached, start together with the tile that
the lowest engine reads, or each raises a broadcast mismatch; the members then run in ENGID order (R226, R237, R238, R394). -/
def execBroadcastGroupStart (cl : Nat) (mask : BitVec 4) (s : State) : Out :=
  match s.bcWaiting cl mask, (bcMembers cl mask).findSome? s.heldBc with
  | some _, _ => .next ((s.bcMember cl mask).getD s)
  | none, none => .next s
  | none, some h0 =>
    let names := s.bcNames cl h0.n 4 mask
    let held := (bcMembers cl names).filterMap fun id => (s.heldBc id).map fun h => (id, h)
    let all := (bcMembers cl names).all fun id => match s.heldBc id with | some h => h.n == h0.n | none => false
    let agree := held.all fun p => p.2.mask == h0.mask && p.2.fb == h0.fb
    match bcMembers cl names with
    | [] => .next s
    | src :: _ =>
      let tbn := match s.multiplyAt src with | some (_, f) => f.tb.toNat | none => 0
      let tb := s.tile src tbn
      let c := max (s.bcStart cl held) ((s.dom cl).cycleOf tb.since + 1)
      let full := tb.full && held.all fun p => match s.multiplyAt p.1 with
        | some (m, f) => !m.readsA || (s.tile p.1 f.ta.toNat).full
        | none => false
      let now := decide ((s.dom cl).tickOf c ≤ s.ptick) && s.lowestNow src
      let raiseAll (s : State) (l : List (EngId × (Nat × Nat))) : State :=
        l.foldl (fun (s : State) p => let e := s.engineAt p.1 c; takeException s p.1 e c p.2.1 p.2.2 e.pc) s
      let bad := held.filterMap fun p => (s.bcFault p.1 c tb).map fun x => (p.1, x)
      let start (s : State) (p : EngId × BcHold) : State := s.updEng p.1 fun e => { e with bc := some { p.2 with bus := some ⟨c, tb⟩ } }
      if !agree then
        event s (all && decide ((s.dom cl).tickOf (s.bcStart cl held) ≤ s.ptick)) (raiseAll s (held.map fun p => (p.1, bcMismatch held p.2)))
      else if !bad.isEmpty then event s (all && full && now) (raiseAll s bad)
      else event s (all && full && now) (held.foldl start s)

/-! ## Accumulators (R239, R240) -/

/-- An accumulator instruction waits for every earlier update to land (R45, R240). -/
def onAcc (f : LG) (s : State) (k : Engine → Nat → Fin 8 → Out) : Out :=
  onEngine s fun e c =>
    let i := idx8 f.d.toNat
    if c < e.zLand[i] then .next (holdOne s) else k e c i

/-- The engine with an accumulator replaced at the end of cycle `c`. -/
def Engine.setAcc (e : Engine) (i : Fin 8) (z : AMap AccElem) (c : Nat) : Engine :=
  { e with z := e.z.set i z, zLand := e.zLand.set i (c + 1) }

/-- zclr (R239). -/
def execZclr (f : LG) (s : State) : Out :=
  onAcc f s fun e c i => guarded s e c [] [] [] (finish s (e.setAcc i [] c) c f.imm.words f.stall.toNat [])

/-- The format zout reads out to (R239). -/
def zoutFmt (f : LG) : Nat := f.mod.toNat % 4 + 1

/-- The bytes zout writes, row by row (R87). -/
def accBytes (z : AMap AccElem) (fmt : Nat) : List Byte :=
  match floatOf fmt with
  | some g => (List.range 4096).flatMap fun n => bytesOf (elemBits fmt / 8) ((z.getD n .zero).out g)
  | none => []

/-- zout: reads an accumulator out to the own scratchpad (R239). -/
def execZout (f : LG) (s : State) : Out :=
  onAcc f s fun e c i =>
    let fmt := zoutFmt f
    let row := 64 * (elemBits fmt / 8)
    let k := rowCheck s e f 0x211 fmt row 0
    guarded s e c (rowReads e f) [] k.early <|
      match k.mem with
      | some (va, m) => .next (accessFault s e va m)
      | none =>
        if s.acquiring e ∨ s.shadowed s.cur s.nextId (s.scratchPas s.cur k.vas) then .next (holdOne s)
        else
          let (done, s0) := s.writtenBy (s.scratchPas s.cur k.vas) (64 * row) c
          let s1 := s0.writePieces (s.scratchPas s.cur k.vas) (accBytes e.z[i] fmt)
          let e1 := e.writing pathM f.cls.toNat c done
          finish s1 (if f.mod.getLsbD 2 then e1.setAcc i [] c else e1) c f.imm.words f.stall.toNat []

/-- Save slots of a cluster: 2 × (PARTW.acc − 16) (R239). -/
def saveSlots (partw : Word) : Nat := 2 * (fld partw 24 8 - 16)

/-- The physical address of a save slot of a cluster (R93, R94, R239). -/
def State.savePa (s : State) (id : EngId) (j : Nat) : Nat :=
  let p := (s.cluster id.cl).partw
  paOf id.slot (id.cluster * 0x1000000 + scrBase p + scrSize p + 0x100000 + j * 0x8000)

/-- A save slot beyond the last (R244). -/
def slotFault (s : State) (f : LG) (op : Nat) : Option (Nat × Nat) :=
  check (decide (saveSlots (s.cluster s.cur.cl).partw ≤ f.imm.bits % 4096)) (illOperand f.imm.len op 52 4)

/-- zsave: an accumulator to a save slot, bit for bit (R239), whose lines it writes whole (R32, R372). -/
def execZsave (f : LG) (s : State) : Out :=
  onAcc f s fun e c i =>
    let j := f.imm.bits % 4096
    guarded s e c [] [] [slotFault s f 0x212] <|
      let pa := s.savePa s.cur j
      let s1 := { s with
        poison := s.poison.filter fun u => !(decide (pa ≤ u) && decide (u < pa + 0x8000))
        written := s.writtenWith pa 0x8000 }
      finish (s1.updCluster s.cur.cl fun k => { k with
          saves := k.saves ++ [SaveLayer.mk j s.cur e.secNum none e.z[i]] })
        e c f.imm.words f.stall.toNat []

/-- Whether an engine sees a save for certain: its own, or one whose section retired before its own section's header passed
(R239). -/
def SaveLayer.seenBy (x : SaveLayer) (id : EngId) (e : Engine) : Bool :=
  x.eng == id || match x.retired with | some n => decide (n < e.hdrStamp) | none => false

/-- The elements of a save slot as an engine loads them; of each save it need not see, every element pair is the slot's earlier one or
the new one, by a choice of its own (R239). -/
def loadSlot (id : EngId) (e : Engine) (slot k : Nat) (l : List SaveLayer) : AMap AccElem :=
  (l.foldl (fun (z : AMap AccElem × Nat) x =>
    if x.slot ≠ slot then z
    else if x.seenBy id e then (x.elems, z.2 + 4096)
    else (accTile fun i j =>
      let n := 64 * i + j
      if Config.coin (z.2 + n) then x.elems.getD n .zero else z.1.getD n .zero, z.2 + 4096)) ([], k)).1

/-- zload: a save slot to an accumulator, bit for bit (R239). -/
def execZload (f : LG) (s : State) : Out :=
  onAcc f s fun e c i =>
    let j := f.imm.bits % 4096
    let k := s.cluster s.cur.cl
    guarded s e c [] [] [slotFault s f 0x213] <|
      if s.poisoned (s.savePa s.cur j) 0x8000 then .next (poisonFault s e 6 s.cur.slot)
      else
        finish { s with fresh := s.fresh + 4096 * k.saves.length } (e.setAcc i (loadSlot s.cur e j s.fresh k.saves) c) c f.imm.words f.stall.toNat []

/-! ## Follow-ons (R257, R408) -/

/-- The cycle at which the oldest follow-on handed to an engine can issue. -/
def State.followCycle (s : State) (id : EngId) (e : Engine) (h : Follow) : Nat :=
  max (max e.mtxUntil ((s.dom id.cl).cycleFrom h.handed)) (s.cycleNow id.cl)

/-- A follow-on that faults stops its target's team; it has no pc (R257, R383). -/
def State.followFault (s : State) (id : EngId) (e : Engine) (x : Nat × Nat) : State :=
  (s.setEng id { e with status := .stopped, follow := e.follow.tail, cause := causeWord x.1 x.2 }).fault
    (faultAt s id x.1 x.2 (BitVec.allOnes 32))

/-- A follow-on issues at cycle `c`: the stream is held for its eight cycles and those it waited for a tile (R56, R257). It reads the
target's own registers (R55, R257). -/
def State.followRun (s : State) (id : EngId) (c : Nat) (m : MForm) (f : LM) : State :=
  let e := (s.eng id).settle c
  let r := s.mread id e.own m f (s.tile id f.tb.toNat)
  let rest := { e with follow := e.follow.tail }
  match firstFault (m.operandFaults f e.own id.index ++ s.mfmtFaults id m f r ++ [e.scoreboard c ((m.regs f).map e.own.destOf) []]),
      s.mrowFault id r with
  | some x, _ => s.followFault id e x
  | none, some (va, x) => (s.setEng id { rest with status := .stopped }).fault (memFaultEv s id (BitVec.allOnes 32) va x)
  | none, none =>
    if s.mpoison id r then
      (s.setEng id { rest with status := .stopped }).fault (faultAt s id 0x0106 (4 + id.slot * 256) (BitVec.allOnes 32))
    else
      let x := s.multiplied id e.own c m f r
      let e1 := { rest with z := x.z, zLand := x.zLand, mtxUntil := x.mtxUntil }
      let e2 := if e.status = .running then
          { e1 with
            nextIssue := max e.nextIssue (c + 8)
            fbNow := { e1.fbNow with
              waitTile := e1.fbNow.waitTile + (c - max e.nextIssue ((s.dom id.cl).cycleFrom (match e.follow with | h :: _ => h.handed | [] => 0)))
              waitOther := e1.fbNow.waitOther + 8 } }
        else e1
      (s.setEng id e2).consumeAll id c (consumedTiles m f true)

/-- FOLLOW_ON_ISSUE: the oldest follow-on handed to a matrix engine issues once the engine is not in the middle of a
multiply, the tiles it reads are full, and it is its turn among the cluster's reads of the cycle (R226, R257). -/
def execFollowOnIssue (id : EngId) (s : State) : Out :=
  let e := s.eng id
  match e.follow with
  | [] => .next s
  | h :: _ =>
    match decodeFor .me [h.word.extractLsb' 0 32, h.word.extractLsb' 32 32] with
    | .error _ => .next s
    | .ok i =>
      match multiplyOf i with
      | none => .next s
      | some (m, f) =>
        let c := s.followCycle id e h
        let ready := (s.emptyTile id m f true).isNone && !e.awaits ((m.regs f).map e.own.destOf)
        event s (ready && decide (e.status ≠ .stopped) && decide ((s.dom id.cl).tickOf c ≤ s.ptick) && s.lowestNow id) (s.followRun id c m f)

/-! ## Relocatable groups (R54, R55, R243) -/

/-- The stealer set to run a group from its next issue on, with the owner's registers and the results on their way to them (R55). -/
def Engine.borrow (e owner : Engine) (id : EngId) (g : Group) : Engine :=
  { e with
    glob := owner.glob, win := owner.win, a := owner.a, c := owner.c, lc := owner.lc, depth := owner.depth,
    resident := owner.resident, pc := g.first, codeVa := owner.codeVa, secStart := owner.secStart, secEnd := owner.secEnd,
    pend := owner.pend.map fun p => { p with land := e.nextIssue + (p.land - owner.nextIssue) }
    lend := some ⟨id, g.past, e.pc, e.codeVa, e.secStart, e.secEnd, ⟨e.glob, e.win, e.a, e.c, e.lc, e.depth, e.resident, e.pc, 0⟩⟩ }

/-- STEAL_RELOCATABLE_GROUP: a matrix engine at its notify takes the first group its sibling has not begun, at the point
where the sibling would have begun it, with no result of either outstanding that has no fixed latency (R55). The group counts as
stolen in the owner's section (R56). -/
def execStealRelocatableGroup (stealer owner : EngId) (s : State) : Out :=
  let e := (s.eng stealer).settle (s.eng stealer).nextIssue
  let o := s.engineAt owner (s.eng owner).nextIssue
  match o.groupsLeft with
  | [] => .next s
  | g :: _ =>
    let atNotify := match s.found stealer .me e with | .inst (.notify _) => true | _ => false
    let mark (x : Group) : Group := if x.first = g.first then { x with taken := true } else x
    event s (s.engineDue stealer e && e.lend.isNone && atNotify && s.victim stealer == some owner && o.status == .running && o.pc == g.first
        && e.pend.isEmpty && e.inter.isEmpty && o.inter.isEmpty)
      ((s.setEng owner { o with pc := g.past, groups := o.groups.map mark, fbNow := { o.fbNow with stolen := o.fbNow.stolen + 1 } }).setEng
        stealer (e.borrow o owner g))

end Sys2Proof.Machine
end

