-- ==== Sys2Proof/Machine/Shapes.lean ====
section
/-! DEFINITION. Shape records (04 R104-R106, R454, 21 R389), the boxes of transfers (10 R247-R256), the bytes they touch
(03 R68, R69) and the conversion of elements on the way (R72, R73, R76). -/

namespace Sys2Proof.Machine

/-! ## Shape records (R105) -/

/-- A shape record. -/
structure Shape where
  va : Addr
  fmt : Nat
  rank : Nat
  bank : Nat
  rights : Nat
  tenant : Nat
  x : List Nat
  st : List Nat
  deriving DecidableEq, Repr

def shapeOf (b : List Byte) : Shape where
  va := BitVec.ofNat 80 (bytesFld b 0 10)
  fmt := bytesFld b 10 1
  rank := bytesFld b 11 1
  bank := bytesFld b 12 2
  rights := bytesFld b 14 2
  tenant := bytesFld b 16 2
  x := (List.range 4).map fun d => bytesFld b (24 + 4 * d) 4
  st := (List.range 3).map fun d => bytesFld b (40 + 8 * d) 8

/-- The physical address of an entry of the shape table (R104). -/
def State.shapePa (s : State) (n : Nat) : Nat := fld s.mgmt.shapebase 6 50 * 64 + 64 * (n % 65536)

def State.shape (s : State) (n : Nat) : Shape := shapeOf (s.bytes (s.shapePa n) 64)

/-- The element offset of an element (R105). -/
def Shape.elem (r : Shape) (i0 i1 i2 i3 : Nat) : Nat := i0 + i1 * r.st.getD 0 0 + i2 * r.st.getD 1 0 + i3 * r.st.getD 2 0

/-- Elements of a tensor. -/
def Shape.count (r : Shape) : Nat := r.x.foldl (· * ·) 1

/-- Round up to a 64-byte boundary (R69). -/
def up64 (n : Nat) : Nat := ceilDiv n 64 * 64

/-- Bytes of `n` elements of a format. -/
def elemBytes (code n : Nat) : Nat := ceilDiv (n * elemBits code) 8

/-- The addresses of a tensor's delta array and base word under a format code (R69, R249). -/
def Shape.deltaVa (r : Shape) (code : Nat) : Nat := up64 (r.va.toNat + elemBytes code r.count)
def Shape.baseVa (r : Shape) (code : Nat) : Nat := up64 (r.deltaVa code + ceilDiv (r.count / 32) 2)

/-! ## Descriptors (R247) -/

/-- An origin word. -/
def orgOf (w : Word) : Nat × Nat × Nat × Nat := (fld w 0 24, fld w 24 24, fld w 48 8, fld w 56 8)

def Transfer.rows (t : Transfer) : Nat := fld t.d0 48 16
def Transfer.cols (t : Transfer) : Nat := fld t.d0 32 16
def Transfer.srcIx (t : Transfer) : Nat := fld t.d0 0 16
def Transfer.dstIx (t : Transfer) : Nat := fld t.d0 16 16
/-- Width and height of a cpyh box (R253). -/
def Transfer.wid (t : Transfer) : Nat := fld t.d0 48 8
def Transfer.hgt (t : Transfer) : Nat := fld t.d0 56 8
/-- The tile specification (R256). -/
def Transfer.tileFmt (t : Transfer) : Nat := fld t.d0 20 4
def Transfer.tileNo (t : Transfer) : Nat := fld t.d0 16 4
/-- The mask and barrier offset of a cpym (R254). -/
def Transfer.mask (t : Transfer) : BitVec 16 := t.d2.extractLsb' 32 16
def Transfer.barOff (t : Transfer) : Nat := fld t.d2 0 28

/-- Whether a form has a source box, and a destination box. -/
def TForm.hasSrc (f : TForm) : Bool :=
  match f with | .cpy | .cpyt | .cpyh | .cpym | .cpyi | .cpyf | .ckput => true | _ => false
def Transfer.hasDst (t : Transfer) : Bool :=
  !t.tile && (match t.form with | .cpy | .cpyt | .cpyh | .cpym | .cpyi => true | _ => false)

/-- The exchange of cpyt. -/
def Transfer.isT (t : Transfer) : Bool := t.form == .cpyt

/-- A run of elements along dimension 0: its first element, how many are read or written, and how many zeros follow. -/
structure Run where
  n : Nat
  cnt : Nat
  pad : Nat
  deriving DecidableEq, Repr

/-- The runs of the source box, in box order (R248, R253). -/
def Transfer.srcRuns (t : Transfer) (r : Shape) : List Run :=
  let o := orgOf t.d1
  if t.form = .cpyh then
    let y0 := sintOf 24 o.2.1
    let z0 := sintOf 16 (fld t.d1 48 16)
    (List.range t.hgt).flatMap fun (y : Nat) => (List.range t.wid).map fun (x : Nat) =>
      let i1 := y0 + (x : Int)
      let i2 := z0 + (y : Int)
      let inside := decide (0 ≤ i1) && decide (i1 < (r.x.getD 1 0 : Nat)) && decide (0 ≤ i2) && decide (i2 < (r.x.getD 2 0 : Nat))
      let k := if inside then min t.cols (r.x.getD 0 0 - o.1) else 0
      ⟨r.elem o.1 i1.toNat i2.toNat 0, k, t.cols - k⟩
  else (List.range t.rows).map fun j => ⟨r.elem o.1 (o.2.1 + j) o.2.2.1 o.2.2.2, t.cols, 0⟩

/-- The destination origin: (0, 0, 0, 0) in cpym (R254). -/
def Transfer.dstOrg (t : Transfer) : Nat × Nat × Nat × Nat := if t.form = .cpym then (0, 0, 0, 0) else orgOf t.d2

/-- The elements of the box. -/
def Transfer.boxSize (t : Transfer) : Nat := if t.form = .cpyh then t.cols * t.wid * t.hgt else t.cols * t.rows

/-- The runs of the destination box, in the order in which it is written (R248, R252, R253). -/
def Transfer.dstRuns (t : Transfer) (r : Shape) : List Run :=
  let o := t.dstOrg
  match t.form with
  | .cpyh => [⟨o.1, t.boxSize, 0⟩]
  | .cpyt => (List.range t.cols).map fun c => ⟨r.elem o.1 (o.2.1 + c) o.2.2.1 o.2.2.2, t.rows, 0⟩
  | _ => (List.range t.rows).map fun j => ⟨r.elem o.1 (o.2.1 + j) o.2.2.1 o.2.2.2, t.cols, 0⟩

/-- The greatest index along each dimension of a box. -/
def boxTop (o : Nat × Nat × Nat × Nat) (n0 n1 : Nat) : List Nat := [o.1 + n0 - 1, o.2.1 + n1 - 1, o.2.2.1, o.2.2.2]

/-! ## Formats of the two sides (R76) -/

/-- One side of a copy: its record, its code, the code its elements are addressed with, and its runs. -/
structure Side where
  rcd : Shape
  code : Nat
  acode : Nat
  runs : List Run
  ocp : Bool
  deriving DecidableEq, Repr

def Transfer.dstCode (t : Transfer) (d : Shape) : Nat := if t.tile then t.tileFmt else d.fmt % 16

/-- The code a side is addressed with: the other's when it alone is RAW (R76). -/
def sideCode (own other : Nat) : Nat := if own = 0 then other else own

def State.srcSide (s : State) (t : Transfer) : Side :=
  let r := s.shape t.srcIx
  let other := if t.form = .ckput then 0 else t.dstCode (s.shape t.dstIx)
  ⟨r, r.fmt % 16, sideCode (r.fmt % 16) other, t.srcRuns r, t.form == .cpyi⟩

def State.dstSide (s : State) (t : Transfer) : Side :=
  let r := s.shape t.dstIx
  ⟨r, r.fmt % 16, sideCode (r.fmt % 16) ((s.shape t.srcIx).fmt % 16), t.dstRuns r, false⟩

/-! ## Bytes of a side (R68, R69) -/

/-- The first byte and the length of a run of elements at an address; one of no elements has no bytes. -/
def runBytes (base bits : Nat) (r : Run) : Addr × Nat :=
  (BitVec.ofNat 80 (base + r.n * bits / 8), if r.cnt = 0 then 0 else ceilDiv (r.n * bits % 8 + r.cnt * bits) 8)

/-- The bytes of each run's elements. -/
def Side.elemVas (d : Side) : List (Addr × Nat) := d.runs.map (runBytes d.rcd.va.toNat (elemBits d.acode))

/-- The run of blocks of a run of elements (R69). A RAW side opposite an MX-delta side need not start on a block, nor be dense: the spec
does not say where its deltas lie, and here they are those of block floor(offset / 32) on; DESIGN CHOICE (log 56). -/
def blocksOf (r : Run) : Run := ⟨r.n / 32, r.cnt / 32, r.pad / 32⟩

/-- The bytes of each run's deltas, or of its E8M0 codes in an OCP MX source (R69, R255). -/
def Side.deltaVas (d : Side) : List (Addr × Nat) :=
  if isMx d.acode then d.runs.map fun r => runBytes (d.rcd.deltaVa d.acode) (if d.ocp then 8 else 4) (blocksOf r) else []

/-- The base word (R249); an OCP MX source has none. -/
def Side.baseVas (d : Side) : List (Addr × Nat) :=
  if isMx d.acode && !d.ocp then [(BitVec.ofNat 80 (d.rcd.baseVa d.acode), 8)] else []

/-- Every run of bytes of a side. -/
def Side.vas (d : Side) : List (Addr × Nat) := (d.elemVas ++ d.deltaVas ++ d.baseVas).filter fun p => p.2 != 0

/-! ## Checks at issue -/

/-- The illegal operand of a transfer by its descriptor words and engine: the reason and the bit (R247, R252-R256, R390).
`wrong` says the engine or die has no such form, `bit` where an instruction shows it. -/
def State.xferIllegal (s : State) (id : EngId) (t : Transfer) : Option (Nat × Nat) :=
  let src := s.shape t.srcIx
  let code := t.dstCode (s.shape t.dstIx)
  let rows := if t.isT then t.cols else t.rows
  let cols := if t.isT then t.rows else t.cols
  let raw := sideCode code (src.fmt % 16)
  let badTile := t.tile && (decide (fld t.d0 24 8 ≠ 0) || !(([0, 2, 3, 4, 7, 8, 9, 10, 11, 12] : List Nat).contains t.tileFmt) || decide (64 < rows)
    || decide (8 * rowBytes code < cols * elemBits raw) || t.d2 != 0)
  let badBox := match t.form with
    | .cpyh => t.cols == 0 || t.wid == 0 || t.hgt == 0
    | _ => t.form.hasSrc && (t.cols == 0 || t.rows == 0)
  let bigT := t.isT && decide (8192 < elemBytes (sideCode (src.fmt % 16) code) (t.rows * t.cols))
  let badM := t.form == .cpym && (t.mask == 0 || fld t.d2 28 4 != 0 || fld t.d2 48 16 != 0 || !isLocal (s.shape t.dstIx).va)
  if badBox || bigT || badTile || badM then some (4, 0xFF)
  else if t.tile && (dieKind id.slot != some .md) then some (5, if t.form == .cpyf then 0xFF else 48)
  else if t.form == .cpym && !inCluster id then some (5, 0xFF)
  else if t.form == .cpym && t.barOff % 32 != 0 then some (0x0B, 0xFF)
  else none

/-- The first dimension along which a box leaves its record (R389). -/
def Shape.outside (r : Shape) (top : List Nat) : Option Nat := (List.range 4).find? fun d => decide (r.x.getD d 0 ≤ top.getD d 0)

/-- The checks 0 to 4 of one record (R106, R389): the check and dimension that fails. -/
def Shape.checks (r : Shape) (e : Engine) (right : Nat) (top : List Nat) (halo : Bool) (o0 cols : Nat) : List (Option (Nat × Nat)) :=
  [if r.rank = 0 ∨ 4 < r.rank ∨ 0xD ≤ r.fmt then some (0, 0) else none,
   if r.tenant ≠ e.master.toNat then some (1, 0) else none,
   if r.rights.testBit right then none else some (2, 0),
   if halo then none else (r.outside top).map fun d => (3, d),
   if isMx r.fmt ∧ (o0 % 32 ≠ 0 ∨ cols % 32 ≠ 0) then some (4, 0) else none]

/-- Which cluster's pool a piece of a cpym lies in: the receiver's (R254). -/
def receivers (id : EngId) (t : Transfer) : List EngId :=
  if t.form = .cpym then ((List.range 16).filter fun k => t.mask.getLsbD k).map fun k => ⟨id.slot, k, 16⟩ else [id]

/-- The banks a set of runs touches, page by page, peeked at issue (R95, log 15). -/
def State.peekBanks (s : State) (id : EngId) (e : Engine) (vas : List (Addr × Nat)) : List (Nat × Nat) :=
  vas.flatMap fun p => s.banksOf id e p.1 p.2

/-- A destination byte in a scratchpad outside the record's affinity banks (R106 check 5). -/
def State.affinityBad (s : State) (id : EngId) (e : Engine) (t : Transfer) (d : Side) : Bool :=
  let b0 := d.rcd.bank % 32
  let b1 := b0 + d.rcd.bank / 64 % 32
  decide (d.rcd.bank < 0x8000) && (receivers id t).any fun r => (s.peekBanks r e d.vas).any fun b => decide (b.1 < b0) || decide (b1 < b.1)

/-- The shape-record fault of a transfer (R106, R248, R389): its detail. -/
def State.xferShape (s : State) (id : EngId) (e : Engine) (t : Transfer) : Option Nat :=
  let src := s.shape t.srcIx
  let dst := s.shape t.dstIx
  let o := orgOf t.d1
  let p := t.dstOrg
  let a := if t.form.hasSrc then src.checks e 0 (boxTop o t.cols t.rows) (t.form == .cpyh) o.1 t.cols else List.replicate 5 none
  let top := if t.form = .cpyh then [p.1 + t.boxSize - 1, 0, 0, 0] else if t.isT then boxTop p t.rows t.cols else boxTop p t.cols t.rows
  let b := if t.hasDst then dst.checks e 1 top false p.1 t.cols else List.replicate 5 none
  let det (side ix : Nat) (c : Nat × Nat) : Nat := side * 2 ^ 23 + c.2 * 2 ^ 21 + c.1 * 2 ^ 16 + ix
  let first (x : Option (Nat × Nat) × Option (Nat × Nat)) : Option Nat :=
    match x with
    | (some c, some d) => some (if d.2 < c.2 then det 1 t.dstIx d else det 0 t.srcIx c)
    | (some c, none) => some (det 0 t.srcIx c)
    | (none, d) => d.map (det 1 t.dstIx)
  match (a.zip b).findSome? first with
  | some d => some d
  | none => if t.hasDst && s.affinityBad id e t (s.dstSide t) then some (det 1 t.dstIx (5, 0)) else none

/-- Whether R76, R252, R255 and R256 admit a pair of formats. -/
def Transfer.pairOk (t : Transfer) (sc dc : Nat) : Bool :=
  let pair (c : Nat) : Bool := c == 0xB || c == 0xC
  match t.form with
  | .ckput => true
  | .cpyi => sc == dc && isMx sc
  | .cpyt => sc ≤ 6 && dc ≤ 6
  | _ => if t.tile && isMx dc then sc == dc else sc == dc || sc == 0 || dc == 0 || !pair dc || pair sc

/-- The format mismatch of a transfer (R388): its detail; `op` is the opcode. A typed side's scratchpad banks hold its format or RAW, and
one format only, whether or not elements are converted (R96, R280). -/
def State.xferFormat (s : State) (id : EngId) (e : Engine) (op : Nat) (t : Transfer) : Option Nat :=
  if !t.form.hasSrc ∨ t.form = .ckput then none
  else
    let a := s.srcSide t
    let sc := a.code
    let dc := t.dstCode (s.shape t.dstIx)
    let aBanks := if sc = 0 then [] else s.peekBanks id e a.vas
    let bBanks := if t.hasDst ∧ dc ≠ 0 then (receivers id t).map fun r => s.peekBanks r e (s.dstSide t).vas else []
    let wrong (kind need : Nat) (banks : List (Nat × Nat)) : Option Nat :=
      (banks.find? fun b => b.2 != 0 && b.2 != need && decide (0xD ≤ b.2) == (kind == 3)).map fun b => fmtDetail op kind b.1 b.2 need
    let odd (banks : List (Nat × Nat)) : Option Nat := (spanFault op banks).map (·.2)
    [wrong 1 sc aBanks, wrong 1 dc bBanks.flatten, if t.pairOk sc dc then none else some (fmtDetail op 2 0x1F sc dc), wrong 3 sc aBanks,
     wrong 3 dc bBanks.flatten, odd aBanks, bBanks.findSome? odd].findSome? fun o => o

/-! ## Conversion (R76) -/

/-- What a side holds: raw elements, a delta for each block, and the base word. -/
structure Payload where
  elems : List Nat
  deltas : List Nat
  base : Nat
  deriving DecidableEq, Repr

/-- Split a list into blocks of 32. -/
def blocks32 {α : Type} : Nat → List α → List (List α)
  | 0, _ => []
  | n + 1, l => if l.isEmpty then [] else l.take 32 :: blocks32 n (l.drop 32)

def blocksOf32 {α : Type} (l : List α) : List (List α) := blocks32 (l.length / 32 + 1) l

/-- The signed base of a base word. -/
def wordBase (w : Nat) : Int := sintOf 8 w

/-- Values of the elements of a payload (R65, R66, R70, R71, R77). -/
def Payload.values (p : Payload) (code : Nat) : List FVal :=
  if isMx code then ((blocksOf32 p.elems).zip p.deltas).flatMap fun b => b.1.map fun x => mxValue code x b.2 (wordBase p.base)
  else if code = 0xB ∨ code = 0xC then p.elems.map fun x => (pairFmt code).value (x % 2 ^ (pairFmt code).bits)
  else p.elems.map (plainValue code)

/-- Quantise values into an MX-delta code (R73). R73 gives the base no upper clamp while R70 makes it a signed 8-bit integer: the whole
integer is written to the base word, and a reader takes bits 7:0 of it; DESIGN CHOICE (log 57). -/
def quantise (code : Nat) (vs : List FVal) : Payload :=
  let bs := blocksOf32 vs
  let b := mxBase (bs.map (blockAsk code))
  let out := bs.map (mxBlock code b)
  ⟨out.flatMap (·.2), out.map (·.1), bitsOf 64 b⟩

/-- Import from OCP MX (R72): `deltas` holds the E8M0 codes. -/
def importMx (code : Nat) (p : Payload) : Payload :=
  let ebs : List Int := (p.deltas.filter (· != 255)).map fun (x : Nat) => (x : Int) - 127
  let b : Int := match ebs with | [] => 0 | x :: xs => max ((xs.foldl max x) - 14) (-128)
  let one (bx : List Nat × Nat) : Nat × List Nat :=
    let k := (bx.2 : Int) - 127
    if bx.2 = 255 then (15, bx.1.map fun _ => 0)
    else if b ≤ k then ((k - b).toNat, bx.1)
    else (0, bx.1.map fun v => mxRound code ((mxElem code v).scale (k - b)))
  let out := ((blocksOf32 p.elems).zip p.deltas).map one
  ⟨out.flatMap (·.2), out.map (·.1), bitsOf 64 b⟩

/-- The conversion of a payload, first matching row (R76). `sc` and `dc` are the codes of the two sides. -/
def convertPayload (ocp : Bool) (sc dc : Nat) (p : Payload) : Payload :=
  if ocp then importMx dc p
  else if sc = dc ∨ sc = 0 ∨ dc = 0 then p
  else if isMx dc then quantise dc (p.values sc)
  else if (sc = 0xB ∨ sc = 0xC) ∧ (dc = 0xB ∨ dc = 0xC) then
    ⟨p.elems.map fun x => (pairFmt dc).round ((pairFmt sc).value (x % 2 ^ (pairFmt sc).bits)) + x / 2 ^ (pairFmt sc).bits * 2 ^ (pairFmt dc).bits, [], 0⟩
  else ⟨(p.values sc).map (plainRound dc), [], 0⟩

/-! ## Reading and writing runs -/

/-- The elements of a run in its bytes, then its zeros. -/
def runElems (bits : Nat) (r : Run) (bs : List Byte) : List Nat :=
  ((List.range r.cnt).map fun i => elemAt bits bs (r.n * bits % 8 / 4 + i)) ++ List.replicate r.pad 0

/-- The bytes of a run with its elements replaced; a nibble it shares with another element is kept (R68). -/
def runWrite (bits : Nat) (r : Run) (old : List Byte) (vs : List Nat) : List Byte :=
  if bits = 4 then
    let nib := old.flatMap fun b => [b.toNat % 16, b.toNat / 16]
    let k := r.n % 2
    packNibbles (nib.take k ++ vs ++ nib.drop (k + r.cnt))
  else packElems bits vs

/-- Exchange the two dimensions of a box of `rows` rows (R252). -/
def exchange (rows cols : Nat) (vs : List Nat) : List Nat :=
  (List.range cols).flatMap fun c => (List.range rows).map fun r => vs.getD (r * cols + c) 0

/-- The rows of a tile: `n` rows of `m` elements, packed and filled with zero bits (R227, R256). -/
def tileBytes (row bits n m : Nat) (vs : List Nat) : List Byte :=
  (List.range 64).flatMap fun r =>
    let bs := if r < n then packElems bits ((vs.drop (r * m)).take m) else []
    bs ++ List.replicate (row - bs.length) 0

/-- The deltas of a tile (R227, R256). -/
def tileDeltas (code n m : Nat) (ds : List Nat) : List Byte :=
  if isMx code then
    let k := rowElems code / 32
    packNibbles ((List.range 64).flatMap fun r => (List.range k).map fun j =>
      if r < n ∧ j < m / 32 then ds.getD (r * (m / 32) + j) 0 else 0)
  else []

end Sys2Proof.Machine
end

