-- ==== Sys2Proof/Machine/Transfer.lean ====
section
/-! DEFINITION. Transfers (10 R245-R259): the copy instructions, chained records (04 R112, R113), the checkpoint store
(R274), and the events that carry them on: payloads, completions, chains (22 R412). -/

namespace Sys2Proof.Machine

/-! ## Reaching memory (R100, R102, R137) -/

/-- The physical address of a piece, a missing page walked at once (log 7), or the fault. -/
def State.reach (s : State) (id : EngId) (e : Engine) (need : Rights) (p : Addr × Nat) : Except (Addr × MemFault) (Nat × Nat) :=
  match s.resolve id e p.1 p.2 need 3 with
  | .pa a => .ok (a, p.2)
  | .bad f => .error (p.1, f)
  | .miss =>
    match s.walk e.homeBd e.asid (p.1.toNat / 4096) with
    | .bad f => .error (p.1, f)
    | .page fr r l =>
      let pa := fr * 4096 + p.1.toNat % 4096
      if !rightsOk need r then .error (p.1, .rights need.toNat (foundRights r) true l)
      else if s.slotGone (paSlot pa) then .error (p.1, .physical 1)
      else match s.judge id e.master pa p.2 need 3 with
        | some f => .error (p.1, f)
        | none => .ok (pa, p.2)

/-- The physical pieces of a list of pieces. -/
def reachAll (f : Addr × Nat → Except (Addr × MemFault) (Nat × Nat)) : List (Addr × Nat) → Except (Addr × MemFault) (List (Nat × Nat))
  | [] => .ok []
  | p :: r =>
    match f p, reachAll f r with
    | .error x, _ => .error x
    | .ok _, .error x => .error x
    | .ok a, .ok l => .ok (a :: l)

/-- The physical pieces of one run of bytes. -/
def State.reachRun (s : State) (id : EngId) (e : Engine) (need : Rights) (p : Addr × Nat) : Except (Addr × MemFault) (List (Nat × Nat)) :=
  if p.2 = 0 then .ok [] else reachAll (s.reach id e need) (cutPages p.1 (p.2 / 4096 + 2) p.2)

/-- The physical pieces of many runs, run by run. -/
def State.reachRuns (s : State) (id : EngId) (e : Engine) (need : Rights) : List (Addr × Nat) → Except (Addr × MemFault) (List (List (Nat × Nat)))
  | [] => .ok []
  | p :: r =>
    match s.reachRun id e need p, State.reachRuns s id e need r with
    | .error x, _ => .error x
    | .ok _, .error x => .error x
    | .ok a, .ok l => .ok (a :: l)

/-- The pieces of a side: elements, deltas, base word. -/
structure Pieces where
  elems : List (List (Nat × Nat))
  deltas : List (List (Nat × Nat))
  base : List (List (Nat × Nat))

def Pieces.all (p : Pieces) : List (Nat × Nat) := (p.elems ++ p.deltas ++ p.base).flatten

def State.reachSide (s : State) (id : EngId) (e : Engine) (need : Rights) (d : Side) : Except (Addr × MemFault) Pieces :=
  match s.reachRuns id e need d.elemVas, s.reachRuns id e need d.deltaVas, s.reachRuns id e need d.baseVas with
  | .error x, _, _ => .error x
  | .ok _, .error x, _ => .error x
  | .ok _, .ok _, .error x => .error x
  | .ok a, .ok b, .ok c => .ok ⟨a, b, c⟩

/-! ## The units of a payload (R135, R137) -/

/-- A unit of a transfer's payload: the run of its side, where it lies among the run's bytes, and its physical bytes. -/
structure TUnit where
  run : Nat
  off : Nat
  pa : Nat
  n : Nat
  deriving DecidableEq, Repr

def TUnit.bytes (u : TUnit) : Nat × Nat := (u.pa, u.n)

/-- The units of a run from an offset on. -/
def runUnits (run : Nat) : Nat → List (Nat × Nat) → List TUnit
  | _, [] => []
  | off, (pa, n) :: r => ((cutUnits pa (n / 8 + 2) n).map fun q => ⟨run, off + (q.1 - pa), q.1, q.2⟩) ++ runUnits run (off + n) r

/-- The runs of a side: of its elements, of its deltas, its base word. -/
def Pieces.runs (p : Pieces) : List (List (Nat × Nat)) := p.elems ++ p.deltas ++ p.base

def Pieces.units (p : Pieces) : List TUnit := (List.range p.runs.length).flatMap fun i => runUnits i 0 (p.runs.getD i [])

/-- The bytes read of a run of the source. -/
def Transfer.runRead (t : Transfer) (p : Pieces) (i : Nat) : List Byte :=
  ((List.range p.units.length).zip p.units).flatMap fun q => if q.2.run = i then t.got.getD q.1 (List.replicate q.2.n 0) else []

/-- The payload as far as it has been read. -/
def Transfer.payload (t : Transfer) (d : Side) (p : Pieces) : Payload where
  elems := ((List.range d.runs.length).zip d.runs).flatMap fun x => runElems (elemBits d.acode) x.2 (t.runRead p x.1)
  deltas := if isMx d.acode then
      ((List.range d.runs.length).zip d.runs).flatMap fun x => runElems (if d.ocp then 8 else 4) (blocksOf x.2) (t.runRead p (p.elems.length + x.1))
    else []
  base := natOf (t.runRead p (p.elems.length + p.deltas.length))

/-- The values of run `i`, of a list that holds those of all runs. -/
def runSlice (runs : List Run) (i : Nat) (vs : List Nat) : List Nat :=
  (vs.drop ((runs.take i).map (·.cnt)).sum).take (runs.getD i ⟨0, 0, 0⟩).cnt

/-- The bytes of run `i` of a destination as the transfer leaves them; a nibble that is not its own is kept (R68). -/
def State.runWritten (s : State) (d : Side) (p : Pieces) (v : Payload) (i : Nat) : List Byte :=
  let n := p.elems.length
  let k := i - n
  let old := ((p.runs.getD i []).map fun q => s.bytes q.1 q.2).flatten
  if i < n then runWrite (elemBits d.acode) (d.runs.getD i ⟨0, 0, 0⟩) old (runSlice d.runs i v.elems)
  else if k < p.deltas.length then runWrite 4 (blocksOf (d.runs.getD k ⟨0, 0, 0⟩)) old (runSlice (d.runs.map blocksOf) k v.deltas)
  else bytesOf 8 v.base

/-- Whether a run of a destination takes something from a run of the source, which so must be read first; `n` runs of the source hold
elements (R76). -/
def Transfer.feeds (t : Transfer) (a : Side) (dc n src dst : Nat) : Bool :=
  if (t.form == .cpy || t.form == .cpym) && !a.ocp then
    if a.code = dc ∨ a.code = 0 ∨ dc = 0 then src == dst
    else isMx dc || src == dst || isMx a.code && (src == n + dst || src == 2 * n)
  else true

/-- What the payload of a transfer reads and writes: the pieces of its source, those of its destination for each receiver,
and the physical runs of a ckget. -/
structure Moves where
  src : Option Pieces
  dst : List (EngId × Pieces)
  exts : List (Nat × List Byte)

/-- The source's units. -/
def Moves.units (m : Moves) : List TUnit := match m.src with | some p => p.units | none => []

/-- The destination's units, each with its receiver's place in the list. -/
def Moves.puts (m : Moves) : List (Nat × TUnit) :=
  ((List.range m.dst.length).zip m.dst).flatMap fun r => r.2.2.units.map fun u => (r.1, u)

/-- The checkpoint set of a die (R274). -/
def Die.ckSet (d : Die) (n : Nat) : CkSet := d.ckpt.getD n CkSet.reset
def CkSet.extents (k : CkSet) : List (Nat × List Byte) := match k.current with | some g => g.extents | none => []

/-- The first piece in a receiver's pool that its access table does not let an engine touch (R264, R353). -/
def State.deniedAt (s : State) (id : EngId) (e : Engine) (need : Rights) (kind : Nat) (pas : List (Nat × Nat)) : Option (Addr × MemFault) :=
  pas.findSome? fun q => (s.judge id e.master q.1 q.2 need kind).map fun f => (BitVec.ofNat 80 q.1, f)

/-- The destination of each receiver: the engine's own, or the same addresses in another cluster's pool (R254). -/
def State.reachDsts (s : State) (id : EngId) (e : Engine) (d : Side) : List EngId → Except (Addr × MemFault) (List (EngId × Pieces))
  | [] => .ok []
  | r :: l =>
    match s.reachSide r e rWrite d, State.reachDsts s id e d l with
    | .error x, _ => .error x
    | .ok _, .error x => .error x
    | .ok p, .ok ps =>
      match if r = id then none else s.deniedAt id e rWrite 3 p.all with
      | some x => .error x
      | none => .ok ((r, p) :: ps)

/-- The first extent of a ckget whose write is not admitted. -/
def State.extentFault (s : State) (id : EngId) (e : Engine) (l : List (Nat × List Byte)) : Option (Addr × MemFault) :=
  l.findSome? fun x => (s.judge id e.master x.1 x.2.length rWrite 3).map fun f => (BitVec.ofNat 80 x.1, f)

def State.moves (s : State) (id : EngId) (e : Engine) (t : Transfer) : Except (Addr × MemFault) Moves :=
  let src : Except (Addr × MemFault) (Option Pieces) :=
    if t.form.hasSrc then (match s.reachSide id e rRead (s.srcSide t) with | .ok p => .ok (some p) | .error x => .error x) else .ok none
  let dst := if t.hasDst then s.reachDsts id e (s.dstSide t) (receivers id t) else .ok []
  let exts := if t.form = .ckget then ((s.die id.slot).ckSet t.ckset).extents else []
  match src, dst, s.extentFault id e exts with
  | .error x, _, _ => .error x
  | .ok _, .error x, _ => .error x
  | .ok _, .ok _, some x => .error x
  | .ok p, .ok q, none => .ok ⟨p, q, exts⟩

/-! ## Faults of transfers (R400, R412) -/

/-- Why a transfer stops: cause, detail, status of its record, and the address, physical or virtual. -/
structure XFault where
  cause : Nat
  detail : Nat
  status : Nat
  addr : Option (Addr × Bool)

def memXFault (x : Addr × MemFault) (status : Nat) : XFault :=
  match x.2 with
  | .denied _ _ _ pa _ _ _ => ⟨x.2.cause, x.2.detail, status, some (BitVec.ofNat 80 pa, true)⟩
  | _ => ⟨x.2.cause, x.2.detail, status, some (x.1, false)⟩

/-- A fault of a copy or buffer engine at a transfer's pc: the team stops. -/
def State.xferStop (s : State) (id : EngId) (pc : BitVec 32) (x : XFault) : State :=
  let base := faultAt s id x.cause x.detail pc
  let ev := match x.addr with
    | some (a, phys) => { base with addr := a, addrValid := true, addrPhys := phys }
    | none => base
  (s.updEng id fun e => { e with status := .stopped }).fault ev

/-- The chain of a channel ends. -/
def Engine.setChain (e : Engine) (ch : Nat) (c : Chain) : Engine :=
  { e with chans := e.chans.set (idx4 ch) { e.chans[idx4 ch] with chain := c } }

/-- The flags of a record, written by the channel (R112, R412). -/
def State.recordFlags (s : State) (id : EngId) (p : Addr) (bs : List Byte) : State :=
  let e := s.eng id
  match s.reachRun id e rWrite (p + 10, bs.length) with
  | .ok pas => s.storePieces e.seq e.team pas bs
  | .error _ => s

/-- A fault at a record of a chain: its status, the end of the walk, and cause 0x0107 (R412). -/
def State.chainFault (s : State) (id : EngId) (ch : Nat) (p : Addr) (pc : BitVec 32) (status : Nat) : State :=
  let s1 := if status = 0xF then s else s.recordFlags id p (bytesOf 1 (status * 16 + 1))
  (s1.updEng id fun e => e.setChain ch .idle).xferStop id pc ⟨0x0107, status + ch * 16, status, none⟩

/-- A transfer meets a fault (R400, R412). -/
def State.xferFail (s : State) (id : EngId) (ch : Nat) (t : Transfer) (x : XFault) : State :=
  match t.record with
  | some p => s.chainFault id ch p t.pc x.status
  | none => s.xferStop id t.pc x

/-! ## Issuing -/

/-- The transfer a copy instruction issues, before it is numbered (R246, R247). -/
def Engine.copyOf (e : Engine) (f : LG) (form : TForm) (s : State) (cword : Option Addr) : Transfer where
  id := 0
  form := form
  d0 := e.val f.b.toNat
  d1 := e.val (f.b.toNat + 1)
  d2 := e.val (f.b.toNat + 2)
  tile := form == .cpyf || ((form == .cpy || form == .cpyt) && f.mod.getLsbD 2)
  cword := cword
  cval := e.val f.x.toNat
  cls := f.cls.toNat
  scope := s.scopeOf e.seq f.scope
  ckset := f.imm.bits % 256
  base := 0
  len := 0
  follow := if form = .cpyf then e.val f.x.toNat else 0
  target := fld f.mod 2 2
  record := none
  due := 0
  uid := 0
  pc := e.pc
  begun := false
  got := []
  wrote := []
  counts := []
  exts := []
  moved := false
  waits := []

/-- The completion word's address (R246). -/
def Engine.cwordOf (e : Engine) (f : LG) (off : Int) : Option Addr :=
  if f.a = 63 then none else some (e.val80 f.a.toNat + BitVec.ofInt 80 off)

/-- The registers a transfer reads: its address and completion value, x being unused where a is zr but for cpyf and hflush; its
descriptor words, or the index of hflush (R246, R259, R274). -/
def xferReads (e : Engine) (f : LG) (form : TForm) : List Dest :=
  [e.destOf f.a.toNat] ++ (if f.a = 63 ∧ form ≠ .cpyf ∧ form ≠ .hflush then [] else [e.destOf f.x.toNat])
    ++ (match form with
        | .cwr => []
        | .ckget => []
        | .hflush => [e.destOf f.b.toNat]
        | _ => (List.range 3).map fun k => e.destOf (f.b.toNat + k))

/-- Whether a channel takes no more transfers now (R245, R258). -/
def Channel.stuck (k : Channel) : Bool := decide (16 ≤ k.out.length) || k.chain != .idle

/-- Number a transfer and put it on its channel (R109); when it starts is free (R453). -/
def State.addTransfer (s : State) (e : Engine) (ch : Nat) (t : Transfer) : State × Engine :=
  let (l, s) := s.lat
  let (n, s) := s.newId
  let k := e.chans[idx4 ch]
  let t' := { t with
    id := k.xnext.toNat, uid := n, due := s.ptick + l, cval := if t.form = .cpyf then BitVec.ofNat 64 k.xnext.toNat else t.cval }
  (s, { e with chans := e.chans.set (idx4 ch) { k with xnext := k.xnext + 1, out := k.out ++ [t'] } })

/-- Whether a shape record that a transfer names is poisoned: the first one's slot (R372, R403). -/
def State.shapePoison (s : State) (t : Transfer) : Option Nat :=
  if t.form.hasSrc ∧ s.poisoned (s.shapePa t.srcIx) 64 then some (paSlot (s.shapePa t.srcIx))
  else if t.hasDst ∧ s.poisoned (s.shapePa t.dstIx) 64 then some (paSlot (s.shapePa t.dstIx))
  else none

/-- Issue a transfer once its channel has room: its checks, then its ID, which lands with latency 2 (R245, R246, R250). -/
def issueTransfer (f : LG) (form : TForm) (mk : Engine → Transfer) (faults : Engine → Transfer → List (Option (Nat × Nat)))
    (s : State) : Out :=
  onEngine s fun e c =>
    let ch := fld f.mod 0 2
    let t := mk e
    let k := e.chans[idx4 ch]
    let reads := xferReads e f form
    let ws := landing c 2 (e.writeTo f.d.toNat (BitVec.ofNat 80 k.xnext.toNat))
    if e.awaits reads then .next (holdOne s)
    else if k.stuck then .next (blockOn s (.channel ch))
    else guarded s e c reads ws (faults e t) <|
      match misalignedAt 8 (match t.cword with | some a => [(a, 8)] | none => []) with
      | some va => .next (accessFault s e va (.misaligned 3))
      | none =>
        if s.acquiring e then .next (holdOne s)
        else match s.shapePoison t with
          | some slot => .next (poisonFault s e 2 slot)
          | none =>
            let (s, e) := s.addTransfer e ch t
            finish s e c f.imm.words f.stall.toNat ws

/-- The follow-on word of a cpyf: a permitted multiply without `.bc` (R257). -/
def followOk (w : Word) : Bool :=
  match decodeFor .me [w.extractLsb' 0 32, w.extractLsb' 32 32] with
  | .ok i =>
    match multiplyOf i with
    | some (m, f) => !bcast f && (m == .mma || m == .mmp || m == .mmg || m == .mmw)
    | none => false
  | .error _ => false

/-- The checks of a copy, in the order of R377: reason 0x09 stands among the descriptor's. A poisoned shape record has no value to judge
(R372). -/
def State.copyFaults (s : State) (op : Nat) (f : LG) (e : Engine) (t : Transfer) : List (Option (Nat × Nat)) :=
  let len := f.imm.len
  let ill := (s.xferIllegal s.cur t).map fun x => illOperand len op x.2 x.1
  let late := match s.xferIllegal s.cur t with | some x => decide (9 < x.1) | none => false
  [if late then none else ill, scopeFault f.scope len op 44, ill,
   check (t.form == .cpyf && !followOk t.follow) (illOperand len op 0xFF 0x0E)]
    ++ if (s.shapePoison t).isSome then []
       else [(s.xferShape s.cur e t).map fun d => (0x0004, d), (s.xferFormat s.cur e op t).map fun d => (0x0003, d)]

/-- A copy instruction. -/
def copyOp (op : Nat) (form : TForm) (f : LG) (s : State) : Out :=
  issueTransfer f form (fun e => e.copyOf f form s (e.cwordOf f f.imm.val))
    (s.copyFaults op f) s

/-- cpy (R248). -/
def execCpy (f : LG) (s : State) : Out := copyOp 0x280 .cpy f s

/-- cpyt (R252). -/
def execCpyt (f : LG) (s : State) : Out := copyOp 0x281 .cpyt f s

/-- cpyh (R253). -/
def execCpyh (f : LG) (s : State) : Out := copyOp 0x282 .cpyh f s

/-- cpym (R254). -/
def execCpym (f : LG) (s : State) : Out := copyOp 0x283 .cpym f s

/-- cpyi (R255). -/
def execCpyi (f : LG) (s : State) : Out := copyOp 0x284 .cpyi f s

/-- cpyf (R257). -/
def execCpyf (f : LG) (s : State) : Out := copyOp 0x285 .cpyf f s

/-- cwr: a transfer with no payload that completes after every transfer of its channel with a lower ID (R259). -/
def execCwr (f : LG) (s : State) : Out :=
  issueTransfer f .cwr (fun e => e.copyOf f .cwr s (e.cwordOf f f.imm.val))
    (fun _ _ => [scopeFault f.scope f.imm.len 0x287 44]) s

/-- chst: starts a chain walk (R258). -/
def execChst (f : LG) (s : State) : Out :=
  onEngine s fun e c =>
    let ch := fld f.mod 0 2
    let k := e.chans[idx4 ch]
    let head : Addr := match e.cwordOf f f.imm.val with | some a => a | none => k.head
    let reads := [e.destOf f.a.toNat]
    if e.awaits reads then .next (holdOne s)
    else if k.chain ≠ .idle then .next (blockOn s (.channel ch))
    else guarded s e c reads [] [scopeFault f.scope f.imm.len 0x286 44] <|
      if head.toNat % 64 ≠ 0 then .next (accessFault s e head (.misaligned 6))
      else if s.acquiring e then .next (holdOne s)
      else
        let k' := { k with
          head := head, chain := .waitOwn head, chainCls := f.cls.toNat, chainScope := s.scopeOf e.seq f.scope, chainPc := e.pc }
        finish s { e with chans := e.chans.set (idx4 ch) k' } c f.imm.words f.stall.toNat []

/-! ## Home instructions (R274) -/

/-- An interlocked result of an instruction that acts on its own die (R279). -/
def lateResult (s : State) (e : Engine) (c words stall d : Nat) (v : Word) : Out :=
  let (l, s) := s.lat
  let (n, s) := s.newId
  let dst := e.destOf d
  let e' := { e with inter := if dst = .nil then e.inter else e.inter ++ [(dst, n)] }
  let r : Reply := ⟨n, s.cur, (s.die s.cur.slot).incarn, optWrite (dst.write (zext80 v)), s.ptick + l⟩
  finish { s with replies := s.replies ++ [r] } e' c words stall []

/-- ckopen: a new building generation of a set (R274). -/
def execCkopen (f : LG) (s : State) : Out :=
  onEngine s fun e c =>
    let n := f.imm.bits % 256
    guarded s e c [] [] [] <|
      let k := (s.die s.cur.slot).ckSet n
      let g := k.last + 1
      lateResult (s.updDie s.cur.slot fun d => { d with ckpt := d.ckpt.put n { k with last := g, building := some ⟨g, [], 0⟩ } })
        e c f.imm.words f.stall.toNat f.d.toNat (BitVec.ofNat 64 g)

/-- Whether a ckput of a set on a die has not completed (R274). -/
def State.putting (s : State) (slot n : Nat) : Bool :=
  (List.range 4).any fun i => (s.eng ⟨slot, 0, i⟩).transfers.any fun t => t.form == .ckput && t.ckset == n

/-- ckseal: the building generation becomes current, as a release, once its ckputs have completed (R274). With none
building nothing changes, and the spec states no result. -/
def execCkseal (f : LG) (s : State) : Out :=
  onEngine s fun e c =>
    let n := f.imm.bits % 256
    guarded s e c [] [] [scopeFault f.scope f.imm.len 0x342 44] <|
      if s.acquiring e ∨ s.putting s.cur.slot n ∨ s.unreleased s.cur e c (max 4 (s.scopeOf e.seq f.scope)) then .next (holdOne s)
      else
        let k := (s.die s.cur.slot).ckSet n
        match k.building with
        | none =>
          let (i, s) := s.draw
          lateResult s e c f.imm.words f.stall.toNat f.d.toNat (Config.freeWord i)
        | some g =>
          lateResult (s.updDie s.cur.slot fun d =>
              { d with ckpt := d.ckpt.put n { k with current := some { g with sealTick := s.ptick }, building := none } })
            e c f.imm.words f.stall.toNat f.d.toNat (BitVec.ofNat 64 g.number)

/-- ckput: appends the source box to the building generation (R274). -/
def execCkput (f : LG) (s : State) : Out :=
  issueTransfer f .ckput (fun e => e.copyOf f .ckput s (e.cwordOf f 0))
    (s.copyFaults 0x341 f) s

/-- ckget: writes the current generation back (R274). -/
def execCkget (f : LG) (s : State) : Out :=
  issueTransfer f .ckget (fun e => e.copyOf f .ckget s (e.cwordOf f 0)) (fun _ _ => [scopeFault f.scope f.imm.len 0x343 44]) s

/-- hflush: writes back cached lines, which changes no value (R99, R274). -/
def execHflush (f : LG) (s : State) : Out :=
  issueTransfer f .hflush (fun e => { e.copyOf f .hflush s none with
      base := e.ea f.a.toNat f.b.toNat f.imm.val, len := (e.val f.x.toNat).toNat })
    (fun _ _ => [scopeFault f.scope f.imm.len 0x344 44]) s

/-! ## Payloads (R248-R257, R274) -/

/-- What is left of a numbered list without some numbers, both ascending. -/
def without {α : Type} : List Nat → List (Nat × α) → List (Nat × α)
  | _, [] => []
  | [], x :: xs => x :: xs
  | k :: ks, x :: xs => if k = x.1 then without ks xs else x :: without (k :: ks) xs

/-- A number put among ascending numbers. -/
def insertNat (n : Nat) : List Nat → List Nat
  | [] => [n]
  | k :: ks => if n < k then n :: k :: ks else k :: insertNat n ks

/-- The source units a transfer has not read, with their numbers. -/
def Moves.unread (m : Moves) (t : Transfer) : List (Nat × TUnit) :=
  without (t.got.map (·.1)) ((List.range m.units.length).zip m.units)

/-- The destination units a transfer has not written, with their numbers and receivers. -/
def Moves.unwritten (m : Moves) (t : Transfer) : List (Nat × Nat × TUnit) :=
  without t.wrote ((List.range m.puts.length).zip m.puts)

/-- What a ckget has to write back: the units of the generation that is current when it starts (R274). -/
def Moves.back (m : Moves) (t : Transfer) : List (Nat × List Byte) :=
  if t.begun then t.exts
  else m.exts.flatMap fun x => (cutUnits x.1 (x.2.length / 8 + 2) x.2.length).map fun q => (q.1, (x.2.drop (q.1 - x.1)).take q.2)

/-- What a transfer has still to read, and to write, its completion word included; none when that is not known. -/
def State.remains (s : State) (id : EngId) (e : Engine) (t : Transfer) : Option (List (Nat × Nat) × List (Nat × Nat)) :=
  match if t.moved then .ok ⟨none, [], []⟩ else s.moves id e t, match t.cword with | some a => s.reachRun id e rWrite (a, 8) | none => .ok [] with
  | .ok m, .ok word =>
    let left := if t.moved then [] else (m.unwritten t).map (·.2.2.bytes) ++ (m.back t).map fun x => (x.1, x.2.length)
    some (if t.moved then [] else (m.unread t).map (·.2.bytes), left ++ word)
  | _, _ => none

/-- What the earlier transfers of the engine in the same class have still to read and to write. -/
def State.earlierLeft (s : State) (id : EngId) (e : Engine) (t : Transfer) : List (Option (List (Nat × Nat) × List (Nat × Nat))) :=
  (e.transfers.filter fun u => decide (u.uid < t.uid) && u.cls == t.cls).map (s.remains id e)

/-- Whether one of them comes before a read, or a write, of these bytes (R121, R137). -/
def followsLeft (before : List (Option (List (Nat × Nat) × List (Nat × Nat)))) (write : Bool) (pas : List (Nat × Nat)) : Bool :=
  before.any fun x => match x with
    | some (r, w) => sharesByte w pas || write && sharesByte r pas
    | none => true

/-- Whether an earlier transfer of the engine in the same class comes before a read, or a write, of these bytes (R121, R137). -/
def State.xferFollows (s : State) (id : EngId) (e : Engine) (t : Transfer) (write : Bool) (pas : List (Nat × Nat)) : Bool :=
  followsLeft (s.earlierLeft id e t) write pas

/-- Replace a transfer on its channel. -/
def Engine.setTransfer (e : Engine) (ch : Nat) (t : Transfer) : Engine :=
  let k := e.chans[idx4 ch]
  { e with chans := e.chans.set (idx4 ch) { k with out := k.out.map fun u => if u.uid = t.uid then t else u } }

/-- The count of bytes that have performed in a receiver's pool goes to its barrier (R254, R266), or the fault of an address outside
the receiver's scratchpad, or of an access its table does not admit (R91, R353). -/
def State.deliver (s : State) (id : EngId) (t : Transfer) (r : EngId) (count : Nat) : Except (Addr × MemFault) (State × Nat) :=
  let e := s.eng id
  let va := localVa t.barOff
  match s.localAccess r va 32 with
  | .pa pa =>
    match if r = id then none else s.deniedAt id e rAtomic 2 [(pa, 32)] with
    | some x => .error x
    | none =>
      let (l, s) := s.lat
      let (n, s) := s.newId
      let a : Access :=
        { id := n, eng := id, seq := e.seq, team := e.team, incarn := (s.die id.slot).incarn, pc := t.pc, path := pathK, cls := t.cls,
          scope := t.scope, acq := false, rel := false, vas := [(va, 32)], pas := [(pa, 32)], need := rAtomic,
          op := .deliver count, born := s.ptick, due := s.ptick + l, early := none, did := [], got := [], merged := false }
      .ok ({ s with accesses := s.accesses ++ [a] }, n)
  | _ => .error (va, .physical 2)

/-- The tile a tile-destination transfer fills (R256). -/
def Transfer.tileData (t : Transfer) (sc : Nat) (v : Payload) : Tile :=
  let code := t.tileFmt
  let bits := elemBits (sideCode code sc)
  let n := if t.isT then t.cols else t.rows
  let m := if t.isT then t.rows else t.cols
  ⟨true, BitVec.ofNat 4 code, tileBytes (rowBytes code) bits n m v.elems, tileDeltas code n m v.deltas, 0, 0, none⟩

/-- Bytes in a die's checkpoint store. -/
def Die.ckBytes (d : Die) : Nat :=
  let gen (g : Option Generation) : Nat := match g with | some g => (g.extents.map fun x => x.2.length).sum | none => 0
  (d.ckpt.map fun p => gen p.2.current + gen p.2.building).sum

/-- Append bytes to a building generation (R274, R411). -/
def State.appendCk (s : State) (slot n : Nat) (exts : List (Nat × List Byte)) : State :=
  s.updDie slot fun d =>
    let k := d.ckSet n
    { d with ckpt := d.ckpt.put n { k with building := k.building.map fun g => { g with extents := g.extents ++ exts } } }

/-! ## Moving a payload unit by unit (R135, R137, R245) -/

/-- Whether the mover has room for more bytes in a cycle (R245). -/
def Mover.room (v : Mover) (cycle n : Nat) : Bool := decide ((if v.cycle = cycle then v.bytes else 0) + n ≤ 256)

/-- The mover after it has moved bytes of a channel in a cycle. -/
def Mover.serve (v : Mover) (cycle ch n : Nat) : Mover := ⟨cycle, (if v.cycle = cycle then v.bytes else 0) + n, ch⟩

/-- The conversion of what a transfer has read (R76, R252). -/
def State.converted (s : State) (t : Transfer) (p : Pieces) : Payload :=
  let a := s.srcSide t
  let v := convertPayload a.ocp a.code (t.dstCode (s.shape t.dstIx)) (t.payload a p)
  if t.isT then { v with elems := exchange t.rows t.cols v.elems } else v

/-- The source units that may be read now. -/
def State.readable (s : State) (id : EngId) (e : Engine) (t : Transfer) (m : Moves) : List Nat :=
  let before := s.earlierLeft id e t
  ((m.unread t).filter fun q => e.mover.room (s.cycleNow id.cl) q.2.n && s.admits id false t.due [q.2.bytes]
    && !followsLeft before false [q.2.bytes]).map (·.1)

/-- Whether a write of a transfer may perform now, after what earlier transfers have left. -/
def State.putReady (s : State) (id : EngId) (t : Transfer) (before : List (Option (List (Nat × Nat) × List (Nat × Nat)))) (p : Nat × Nat) : Bool :=
  s.admits id false t.due [p] && !followsLeft before true [p] && !s.shadowed id t.uid [p]

/-- The destination units that may be written now: what feeds them has been read. -/
def State.writable (s : State) (id : EngId) (e : Engine) (t : Transfer) (m : Moves) : List Nat :=
  let a := s.srcSide t
  let dc := t.dstCode (s.shape t.dstIx)
  let n := match m.src with | some p => p.elems.length | none => 0
  let before := s.earlierLeft id e t
  let wanting := ((m.unread t).map fun r => r.2.run).eraseDups
  ((m.unwritten t).filter fun q => !(wanting.any fun r => t.feeds a dc n r q.2.2.run) && s.putReady id t before q.2.2.bytes).map (·.1)

/-- The units of a generation that may be written back now; those that share a byte keep their order. -/
def State.returnable (s : State) (id : EngId) (e : Engine) (t : Transfer) (m : Moves) : List Nat :=
  let l := m.back t
  let before := s.earlierLeft id e t
  let at_ (k : Nat) : Nat × Nat := match l[k]? with | some x => (x.1, x.2.length) | none => (0, 0)
  (List.range l.length).filter fun k => s.putReady id t before (at_ k) && !((List.range k).any fun j => sharesByte [at_ j] [at_ k])

/-- Whether a transfer may start: those of its channel start in the order of their IDs (R250). -/
def Channel.mayBegin (k : Channel) (t : Transfer) : Bool := k.out.all fun u => decide (t.uid ≤ u.uid) || u.begun

/-- Whether an engine has stopped for a pre-emption: it starts no transfer (R60). -/
def Engine.isPaused (e : Engine) : Bool := match e.status with | .paused _ => true | _ => false

/-- Whether a transfer whose payload has not performed may go on now. -/
def State.xferGoes (s : State) (id : EngId) (k : Channel) (t : Transfer) : Bool :=
  !t.moved && decide (t.due ≤ s.ptick) && k.mayBegin t && !s.faulted id && s.dieUp id.slot && (t.begun || !(s.eng id).isPaused)

/-- Whether a channel has payload that could be read now. -/
def State.hasWork (s : State) (id : EngId) (e : Engine) (ch : Nat) : Bool :=
  let k := e.chans[idx4 ch]
  k.out.any fun t => s.xferGoes id k t && match s.moves id e t with
    | .ok m => !(s.readable id e t m).isEmpty
    | .error _ => false

/-- Whether it is a channel's turn: no channel between the one served last and it has work (R245). -/
def State.onTurn (s : State) (id : EngId) (e : Engine) (ch : Nat) : Bool :=
  !((List.range 3).any fun i =>
    decide (i < (ch + 7 - e.mover.turn % 4) % 4) && s.hasWork id e ((e.mover.turn + 1 + i) % 4))

/-- What a transfer may do next. -/
inductive XferStep
  | read (k : Nat)
  | write (k : Nat)
  | back (k : Nat)
  deriving DecidableEq, Repr

def State.xferSteps (s : State) (id : EngId) (ch : Nat) (e : Engine) (t : Transfer) (m : Moves) : List XferStep :=
  (if s.onTurn id e ch then (s.readable id e t m).map .read else []) ++ (s.writable id e t m).map .write
    ++ (s.returnable id e t m).map .back

/-- The whole payload has performed: a box to checkpoint is appended (R274, R411), a tile's write waits for it to be empty (R256). -/
def State.endPayload (s : State) (id : EngId) (ch : Nat) (t : Transfer) (m : Moves) : State :=
  let put (s : State) : State := s.updEng id fun e => e.setTransfer ch { t with begun := true, moved := true, got := [], wrote := [] }
  match m.src with
  | none => put s
  | some p =>
    if t.form = .ckput then
      let exts := ((List.range p.runs.length).flatMap fun i => (p.runs.getD i []).map fun q => (i, q)).foldl
        (fun (x : List (Nat × List Byte) × Nat × Nat) q =>
          let off := if q.1 = x.2.1 then x.2.2 else 0
          (x.1 ++ [(q.2.1, ((t.runRead p q.1).drop off).take q.2.2)], q.1, off + q.2.2)) ([], 0, 0)
      if Config.ckptBytes id.slot < (s.die id.slot).ckBytes + (exts.1.map fun x => x.2.length).sum then
        s.xferStop id t.pc ⟨0x0207, t.ckset + id.slot * 256, 0, none⟩
      else put (s.appendCk id.slot t.ckset exts.1)
    else if t.tile then
      (put s).updCluster id.cl fun k => { k with
        fills := k.fills ++ [⟨t.uid, t.tileNo, t.tileData (s.srcSide t).code (s.converted t p), s.ptick, id, some (ch, t.id)⟩] }
    else put s

/-- A transfer has read or written a unit: it goes on in this tick or later, or its payload has performed. -/
def State.xferNext (s : State) (id : EngId) (ch : Nat) (t : Transfer) (m : Moves) : State :=
  if (m.unread t).isEmpty && (m.unwritten t).isEmpty && (m.back t).isEmpty then s.endPayload id ch t m
  else
    let (k, s) := s.draw
    let (l, s) := s.lat
    s.updEng id fun e => e.setTransfer ch { t with due := if Config.coin k then t.due else s.ptick + l }

/-- A unit of the source is read (R372, R403). -/
def State.xferRead (s : State) (id : EngId) (ch : Nat) (t : Transfer) (m : Moves) (k : Nat) : State :=
  let u := m.units.getD k ⟨0, 0, 0, 0⟩
  if s.poisoned u.pa u.n then s.xferFail id ch t ⟨0x0106, 2 + paSlot u.pa * 256, 5, none⟩
  else
    let t' := { t with begun := true, got := t.got.put k (s.view (.eng id) u.pa u.n) }
    ((s.serve id [u.bytes]).updEng id fun e => { e with mover := e.mover.serve (s.cycleNow id.cl) ch u.n }).xferNext id ch t' m

/-- A unit of the destination is written; what has performed in a receiver's pool is counted into its barrier now or with more, at the
latest with the last (R254, R266). -/
def State.xferWrite (s : State) (id : EngId) (ch : Nat) (t : Transfer) (m : Moves) (k : Nat) : State :=
  let e := s.eng id
  let q := m.puts.getD k (0, ⟨0, 0, 0, 0⟩)
  let u := q.2
  match m.src, m.dst[q.1]? with
  | some p, some r =>
    let d := s.dstSide t
    let bs := ((s.runWritten d r.2 (s.converted t p) u.run).drop u.off).take u.n
    let s1 := (s.serve id [u.bytes]).storePieces e.seq e.team [u.bytes] bs
    let count := t.counts.getD q.1 0 + u.n
    let t1 := { t with begun := true, wrote := insertNat k t.wrote, counts := t.counts.put q.1 count }
    if t.form ≠ .cpym then s1.xferNext id ch t1 m
    else
      let (c, s2) := s1.draw
      if Config.coin c && (m.unwritten t1).any (fun x => x.2.1 == q.1) then s2.xferNext id ch t1 m
      else match s2.deliver id t r.1 count with
        | .error x => s2.xferFail id ch t (memXFault x 4)
        | .ok (s3, n) => s3.xferNext id ch { t1 with counts := t.counts.put q.1 0, waits := t.waits ++ [n] } m
  | _, _ => s

/-- A unit of a generation is written back (R274). -/
def State.xferBack (s : State) (id : EngId) (ch : Nat) (t : Transfer) (m : Moves) (k : Nat) : State :=
  let e := s.eng id
  let l := m.back t
  let x := l.getD k (0, [])
  (s.storePieces e.seq e.team [(x.1, x.2.length)] x.2).xferNext id ch { t with begun := true, exts := l.eraseIdx k } m

def State.xferStep (s : State) (id : EngId) (ch : Nat) (t : Transfer) (m : Moves) (x : XferStep) : State :=
  match x with
  | .read k => s.xferRead id ch t m k
  | .write k => s.xferWrite id ch t m k
  | .back k => s.xferBack id ch t m k

/-- The payload of a transfer goes on: one of the units that may move next is chosen freely, or it has none (R137, R250). -/
def State.movePayload (s : State) (id : EngId) (ch : Nat) (t : Transfer) (m : Moves) : State :=
  match s.xferSteps id ch (s.eng id) t m with
  | [] => if (m.unread t).isEmpty && (m.unwritten t).isEmpty && (m.back t).isEmpty then s.endPayload id ch t m else s
  | x :: xs =>
    let (k, s) := s.chosen 0 (List.range xs.length |>.map (· + 1))
    s.xferStep id ch t m ((x :: xs).getD k x)

/-! ## Completion (R109, R250, R257) -/

/-- XDONE rises over the completed prefix (R109). -/
def advanceDone : Nat → BitVec 48 → List Nat → BitVec 48 × List Nat
  | 0, d, l => (d, l)
  | n + 1, d, l => if l.contains (d.toNat + 1) then advanceDone n (d + 1) (l.filter (· != d.toNat + 1)) else (d, l)

/-- A transfer of a channel has completed. -/
def Channel.complete (k : Channel) (id : Nat) : Channel :=
  let l := k.doneIds ++ [id]
  let r := advanceDone l.length k.xdone l
  { k with out := k.out.filter fun u => u.id != id, xdone := r.1, doneIds := r.2 }

/-- A follow-on is handed to its target, or is a schedule violation when the target's notify has retired (R257, R408). -/
def State.handFollow (s : State) (id : EngId) (t : Transfer) : State :=
  let target : EngId := ⟨id.slot, id.cluster, t.target⟩
  if (s.eng target).status = .finished then s.xferStop id t.pc ⟨0x0201, 2 + id.slot * 2 ^ 24, 0, none⟩
  else s.updEng target fun e => { e with follow := e.follow ++ [⟨t.follow, id, s.ptick⟩] }

/-- After a chained transfer: the record is handed back, and the walk goes on or ends (R113, R412). -/
def State.chainNext (s : State) (id : EngId) (ch : Nat) (t : Transfer) (p : Addr) : State :=
  let e := s.eng id
  match s.reachRun id e rRead (p, 10) with
  | .error _ => s.chainFault id ch p t.pc 0xF
  | .ok pas =>
    let nx := natOf (s.viewAll (.eng id) pas).flatten
    if pas.any fun q => s.poisoned q.1 q.2 then s.chainFault id ch p t.pc 0xF
    else if nx % 64 ≠ 0 then s.chainFault id ch p t.pc 6
    else
      (s.recordFlags id p (bytesOf 2 (if nx = 0 then 0 else 2))).updEng id fun e =>
        e.setChain ch (if nx = 0 then .idle else .waitOwn (BitVec.ofNat 80 nx))

/-- The end of a transfer: its completion word, its follow-on, XDONE, and its chain (R250). -/
def State.endTransfer (s : State) (id : EngId) (ch : Nat) (t : Transfer) (pas : List (Nat × Nat)) : State :=
  let e := s.eng id
  let s1 := s.storePieces e.seq e.team pas (bytesOf 8 t.cval.toNat)
  let s2 := if t.form = .cpyf then s1.handFollow id t else s1
  let s3 := s2.updEng id fun e => { e with chans := e.chans.set (idx4 ch) (e.chans[idx4 ch].complete t.id) }
  match t.record with
  | some p => s3.chainNext id ch t p
  | none => s3

/-- Whether what a moved transfer waits for has happened: deliveries, a tile fill, or every lower ID of a cwr. -/
def State.xferSettled (s : State) (id : EngId) (ch : Nat) (t : Transfer) : Bool :=
  !(s.accesses.any fun a => t.waits.contains a.id)
    && !((s.cluster id.cl).fills.any fun x => x.by_ == id && x.xfer == some (ch, t.id))
    && (t.form != .cwr || (s.eng id).chans[idx4 ch].xdone.toNat + 1 == t.id)

/-- The pieces of a transfer's completion word and, in a chain, of its record, or the fault of the word (R110, R113, R412). -/
def State.endPieces (s : State) (id : EngId) (e : Engine) (t : Transfer) : Except (Addr × MemFault) (List (Nat × Nat) × List (Nat × Nat)) :=
  let rcd := match t.record with
    | some p => (match s.reachRun id e rRead (p, 16) with | .ok pas => pas | .error _ => [])
    | none => []
  match t.cword with
  | none => .ok ([], rcd)
  | some a =>
    match s.reachRun id e rWrite (a, 8) with
    | .ok pas => .ok (pas, rcd)
    | .error x => .error x

/-- Whether the completion word of a moved transfer may be written: what the transfer waits for has happened, and the word is a release
at the transfer's scope (R110, R250). -/
def State.mayComplete (s : State) (id : EngId) (ch : Nat) (e : Engine) (t : Transfer) (pas rcd : List (Nat × Nat)) : Bool :=
  s.xferSettled id ch t && s.admits id false t.due (pas ++ rcd) && !s.xferFollows id e t true pas && !s.shadowed id t.uid pas && !s.passesOn id t.scope

/-- TRANSFER_COMPLETE: the payload of a transfer performs unit by unit; once it has, the transfer completes, its word a release at its
scope (R110, R137, R250). -/
def execTransferComplete (id : EngId) (ch n : Nat) (s : State) : Out :=
  let e := s.eng id
  let k := e.chans[idx4 ch]
  match k.out.find? fun t => t.id == n with
  | none => .next s
  | some t =>
    if !t.moved then
      match s.moves id e t with
      | .error x => event s (s.xferGoes id k t) (s.xferFail id ch t (memXFault x 4))
      | .ok m => event s (s.xferGoes id k t) (s.movePayload id ch t m)
    else
      let free := decide (t.due ≤ s.ptick) && !s.faulted id && s.dieUp id.slot
      match s.endPieces id e t with
      | .error x => event s (free && s.xferSettled id ch t) (s.xferFail id ch t (memXFault x 7))
      | .ok (pas, rcd) => event s (free && s.mayComplete id ch e t pas rcd) (s.endTransfer id ch t pas)

/-! ## Chains (R112, R113, R412) -/

/-- The transfer a record describes, and whether its form byte is one a record may hold (R112). -/
def recordTransfer (k : Channel) (p : Addr) (b : List Byte) : Transfer × Bool :=
  let fb := bytesFld b 12 1
  let form : TForm := match fb % 8 with | 0 => .cpy | 1 => .cpyt | 2 => .cpyh | 3 => .cpym | _ => .cpyi
  let tile := fb / 8 % 2 == 1
  let cw := bytesFld b 16 10
  ({ id := 0, form := form, d0 := BitVec.ofNat 64 (bytesFld b 40 8), d1 := BitVec.ofNat 64 (bytesFld b 48 8),
     d2 := BitVec.ofNat 64 (bytesFld b 56 8), tile := tile, cword := if cw = 0 then none else some (BitVec.ofNat 80 cw),
     cval := BitVec.ofNat 64 (bytesFld b 32 8), cls := k.chainCls, scope := k.chainScope, ckset := 0, base := 0, len := 0,
     follow := 0, target := 0, record := some p, due := 0, uid := 0, pc := k.chainPc, begun := false, got := [], wrote := [],
     counts := [], exts := [], moved := false, waits := [] },
   fb % 8 ≤ 4 && (!tile || fb % 8 ≤ 1) && fb < 16)

/-- The status with which a record that its own bytes or its shape records make wrong is refused (R106, R412, log 34). -/
def State.recordStatus (s : State) (id : EngId) (e : Engine) (t : Transfer) (formOk : Bool) : Option Nat :=
  if !formOk ∨ (s.xferIllegal id t).isSome then some 1
  else if (s.shapePoison t).isSome then some 5
  else if (s.xferShape id e t).isSome then some 2
  else if (s.xferFormat id e 0 t).isSome then some 3
  else if (match t.cword with | some a => decide (a.toNat % 8 ≠ 0) | none => false) then some 7
  else none

/-- Whether a store of own = 1 to a record waits, as a release at the command's scope, for what its engine did before (R113, R132). -/
def State.ownHeld (s : State) (pas : List (Nat × Nat)) (scope : Nat) : Bool :=
  s.owns.any fun o => sharesByte [(o.pa, 64)] pas && !s.earlierDone o.eng o.before [] scope

/-- CHAIN_RECORD_START: a channel walking a chain finds own = 1 in its record and issues it, with a new ID (R113). -/
def execChainRecordStart (id : EngId) (ch : Nat) (s : State) : Out :=
  let e := s.eng id
  let k := e.chans[idx4 ch]
  match k.chain with
  | .waitOwn p =>
    let free := s.dieUp id.slot && !s.faulted id && decide (k.out.length < 16) && decide (e.status ≠ .stopped) && !e.isPaused
    match s.reachRun id e rRead (p, 64) with
    | .error _ => event s free (s.chainFault id ch p k.chainPc 0xF)
    | .ok pas =>
      let read := free && s.admits id false s.ptick pas && !s.ownHeld pas k.chainScope
      if pas.any fun q => s.poisoned q.1 q.2 then event s read (s.chainFault id ch p k.chainPc 0xF)
      else
        let b := (s.viewAll (.eng id) pas).flatten
        let (t, formOk) := recordTransfer k p b
        let go : State :=
          match s.recordStatus id e t formOk with
          | some n => s.chainFault id ch p k.chainPc n
          | none =>
            let (s, e) := { s with owns := s.owns.filter fun o => !sharesByte [(o.pa, 64)] pas }.addTransfer
              (e.setChain ch (.running p k.xnext.toNat)) ch t
            s.setEng id e
        .next (if read then (if (bytesFld b 10 1).testBit 0 then go else s) else if free then s.knock pas else s)
  | _ => .next s

/-! ## Bytes an instruction reads or writes whole -/

/-- The pieces of a run of bytes an engine reads or writes whole in one action, or the reason it may not: a memory fault, poison, or
an access of its own that must come first (R121, R129). -/
inductive Reach
  | ok (pas : List (Nat × Nat))
  | wait (pas : List (Nat × Nat))
  | fault (va : Addr) (f : MemFault)
  | poison (slot : Nat)

def State.takeReach (s : State) (id : EngId) (e : Engine) (path cls : Nat) (need : Rights) (va : Addr) (n : Nat) : Reach :=
  match s.reachRun id e need (va, n) with
  | .error (a, f) => .fault a f
  | .ok pas =>
    if s.mustFollow id path cls s.nextId pas ∨ !s.admits id false s.ptick pas ∨ (need ≠ rRead ∧ s.shadowed id s.nextId pas) then .wait pas
    else match pas.find? fun p => need == rRead && s.poisoned p.1 p.2 with
      | some p => .poison (paSlot p.1)
      | none => .ok pas

/-- Go on with the pieces reached, or hold, or fault the team. -/
def onReach (s : State) (e : Engine) (r : Reach) (k : List (Nat × Nat) → Out) : Out :=
  match r with
  | .ok pas => k pas
  | .wait pas => .next (holdOne (s.knock pas))
  | .fault va f => .next (accessFault s e va f)
  | .poison slot => .next (poisonFault s e 1 slot)

end Sys2Proof.Machine
end

