-- ==== Sys2Proof/Machine/Lattice.lean ====
section
/-! DEFINITION. The gather lattice (11 R281-R303, 22 R413, R414): move words, firing, function units, links, stamps, joins,
the sill, squashes and commits, and the events that carry them on. Firing is judged on the cells as they stood at the
start of the cycle. -/

namespace Sys2Proof.Machine

/-! ## Stamps and cells -/

/-- Whether a stamp is earlier than another (R282). -/
def earlier (s t : BitVec 32) : Bool := decide (1 ≤ (t - s).toNat) && decide ((t - s).toNat ≤ 0x7FFFFFFF)

/-- The latest stamp of a list. -/
def latest (s : BitVec 32) (l : List (BitVec 32)) : BitVec 32 := l.foldl (fun m t => if earlier m t then t else m) s

def cellX (k : Nat) : Nat := k % 32
def cellY (k : Nat) : Nat := k / 32
def cellKey (x y : Nat) : Nat := y * 32 + x

def LCell.empty : LCell := ⟨0, [], [], [], []⟩
def cellOf (m : AMap LCell) (k : Nat) : LCell := m.getD k LCell.empty
def LCell.port (c : LCell) (p : Nat) : Option Token := c.ports.find p
def LCell.fill (c : LCell) (p : Nat) (t : Token) : LCell := { c with ports := c.ports.put p t }

/-- A token leaves its port, and the records of its kept moves with it (R285). -/
def LCell.clear (c : LCell) (p : Nat) : LCell :=
  { c with ports := c.ports.erase p, kept := c.kept.filter fun x => x.2 != p }

def Lattice.updCell (l : Lattice) (k : Nat) (f : LCell → LCell) : Lattice := { l with cells := l.cells.put k (f (cellOf l.cells k)) }

/-- The cell past a link-out of direction `d` (1-4: N, E, S, W), or none off the lattice (R292). -/
def linkTo (k d : Nat) : Option Nat :=
  match d with
  | 1 => if cellY k = 0 then none else some (k - 32)
  | 2 => if cellX k = 31 then none else some (k + 1)
  | 3 => if cellY k = 31 then none else some (k + 32)
  | _ => if cellX k = 0 then none else some (k - 1)

/-- The link-in that a link-out of direction `d` feeds (R292). -/
def opposite (d : Nat) : Nat := match d with | 1 => 3 | 2 => 4 | 3 => 1 | _ => 2

/-- The lane of a cell on edge `e` (R292). -/
def laneOf (k e : Nat) : Nat := if e % 2 = 0 then cellX k else cellY k

/-- The cell of a lane of an edge (R292). -/
def edgeCell (e lane : Nat) : Nat :=
  match e with
  | 0 => cellKey lane 0
  | 1 => cellKey 31 lane
  | 2 => cellKey lane 31
  | _ => cellKey 0 lane

/-! ## Move words (R283-R290) -/

/-- The fields of a move word (R284). -/
structure Move where
  dst : Nat
  src : Nat
  keep : Bool
  gmode : Nat
  greg : Nat
  lit : Nat
  deriving DecidableEq, Repr

def moveOf (w : Word32) : Move := ⟨fld w 27 5, fld w 22 5, w.getLsbD 21, fld w 19 2, fld w 16 3, fld w 0 16⟩

/-- The key of an operand latch: a destination port that is no source (R283). -/
def latchKey (dst : Nat) : Nat := 0x20 + dst

/-- The triggers, and the operand latch each unit reads. -/
def isTrigger (dst : Nat) : Bool := dst == 0x11 || dst == 0x13 || dst == 0x15 || dst == 0x17
def operandKey (trigger : Nat) : Nat := latchKey (trigger - 1)

/-- What a trigger's literal selects (R287-R290): whether it is reserved, whether the operation uses operand a, and the
ports it writes. The zero bits of a CX or MEM literal are not checked (R307, R398; log 36). -/
structure OpSpec where
  reserved : Bool
  usesA : Bool
  writes : List Nat
  deriving DecidableEq, Repr

def opSpec (trigger lit : Nat) : OpSpec :=
  match trigger with
  | 0x11 =>
    let op := lit % 128
    ⟨decide (0x16 ≤ op) || (decide (op < 0x10) && decide (lit / 256 ≠ 0)), decide (op < 0x10),
      if lit / 128 % 2 = 1 then [0x10, 0x11] else [0x10]⟩
  | 0x13 => ⟨false, true, [0x12, 0x13]⟩
  | 0x15 => ⟨lit % 4 == 3 || decide (lit / 0x4000 ≠ 0), true, [0x14]⟩
  | _ =>
    let store := lit / 4 % 2 = 1
    ⟨false, decide store, if store then [] else [0x16]⟩

/-- The port codes that are reserved as a source and as a destination (R283). -/
def srcReserved (p : Nat) : Bool := p == 6 || p == 7 || p == 0x15 || p == 0x17 || decide (0x18 ≤ p)
def dstReserved (p : Nat) : Bool := p == 5 || p == 7 || decide (0x18 ≤ p)

/-- Whether a word is reserved (R286, R287, R289). -/
def Move.reserved (m : Move) : Bool :=
  srcReserved m.src || dstReserved m.dst
    || (m.src == 5 && (m.gmode == 0 || m.keep || isTrigger m.dst))
    || (m.src != 0 && isTrigger m.dst && (opSpec m.dst m.lit).reserved)

/-! ## Function units -/

/-- The ALU (R287). -/
def latticeAlu (lit : Nat) (a t : Word) : Word :=
  let imm := BitVec.ofNat 8 (lit / 256)
  let flag (b : Bool) : Word := if b then 1 else 0
  match lit % 128 with
  | 0x00 => a + t
  | 0x01 => a - t
  | 0x02 => a &&& t
  | 0x03 => a ||| t
  | 0x04 => a ^^^ t
  | 0x05 => a <<< (t.toNat % 64)
  | 0x06 => a >>> (t.toNat % 64)
  | 0x07 => a.sshiftRight (t.toNat % 64)
  | 0x08 => a * t
  | 0x09 => if a.toInt ≤ t.toInt then a else t
  | 0x0A => if a.toInt ≤ t.toInt then t else a
  | 0x0B => if a.toNat ≤ t.toNat then a else t
  | 0x0C => if a.toNat ≤ t.toNat then t else a
  | 0x0D => flag (a == t)
  | 0x0E => flag (decide (a.toInt < t.toInt))
  | 0x0F => flag (decide (a.toNat < t.toNat))
  | 0x10 => t + imm.signExtend 64
  | 0x11 => t <<< (imm.toNat % 64)
  | 0x12 => t >>> (imm.toNat % 64)
  | 0x13 => t &&& imm.setWidth 64
  | 0x14 => flag (t == imm.signExtend 64)
  | _ => t

/-- The key a compare-exchange compares (R288). -/
def cxKey (lit : Nat) (v : Word) : Int :=
  match lit % 4 with
  | 0 => v.toNat
  | 1 => v.toInt
  | 2 => (v.toNat / 2 ^ 32 : Nat)
  | _ => (v.extractLsb' 32 32).toInt

/-- The hash unit (R289, R80). -/
def latticeHash (lit : Nat) (a t : Word) : Word :=
  let h := (skein a (t.extractLsb' 32 16) (t.extractLsb' 48 16) (t.extractLsb' 0 32)).extractLsb' 0 64
  let k := lit / 4 % 64
  let sh := lit / 256 % 64
  match lit % 4 with
  | 0 => h
  | 1 => BitVec.ofNat 64 (h.toNat % 2 ^ k) <<< sh
  | _ => a + (t <<< sh)

/-- The results of an operation other than a memory one, by port, and the cycles until they can be used (R287-R289, R291). -/
def unitResults (trigger lit : Nat) (a t : Word) : List (Nat × Word) × Nat :=
  match trigger with
  | 0x11 =>
    let r := latticeAlu lit a t
    ((0x10, r) :: (if lit / 128 % 2 = 1 then [(0x11, if r = 0 then 0 else 1)] else []), 1)
  | 0x13 => (if cxKey lit t < cxKey lit a then [(0x12, t), (0x13, a)] else [(0x12, a), (0x13, t)], 1)
  | _ => ([(0x14, latticeHash lit a t)], 4)

/-! ## Firing (R285, R286, R291, R297) -/

/-- A word that may fire but for joins and conflicts: the value it carries, the stamps it brings together, and operand a. -/
structure Ready where
  val : Word
  stamp : BitVec 32
  join : Bool
  opnd : Option Token
  deriving DecidableEq, Repr

/-- The guard token of a word, when its guard is met. -/
def guardToken (c : LCell) (m : Move) : Option Token :=
  match c.port (8 + m.greg) with
  | none => none
  | some g => if (m.gmode = 1 ∧ g.val = 0) ∨ (m.gmode = 2 ∧ g.val ≠ 0) then none else some g

/-- Whether a unit accepts a trigger (R291). -/
def unitAccepts (c : LCell) (m : Move) : Bool :=
  let sp := opSpec m.dst m.lit
  !(c.ops.any fun o => o.unit == m.dst) && sp.writes.all (fun p => (c.port p).isNone)
    && (!sp.usesA || (c.port (operandKey m.dst)).isSome)

/-- Whether a word's destination takes a token (R285). -/
def accepts (cells : AMap LCell) (k : Nat) (m : Move) : Bool :=
  let c := cellOf cells k
  if m.dst = 0 ∨ m.dst = 6 then true
  else if m.dst < 5 then
    match linkTo k m.dst with
    | none => true
    | some n => ((cellOf cells n).port (opposite m.dst)).isNone
  else if m.dst < 0x10 then (c.port m.dst).isNone
  else if isTrigger m.dst then unitAccepts c m
  else (c.port (latchKey m.dst)).isNone

/-- What a word would bring together, all conditions but the join's and the conflicts' met (R285, R286, R297). -/
def readyWord (cells : AMap LCell) (k i : Nat) (m : Move) : Option Ready :=
  let c := cellOf cells k
  let guard := if m.gmode = 0 then none else guardToken c m
  let source := if m.src = 5 then guard.map fun g => Token.mk (BitVec.ofNat 64 m.lit) g.stamp else c.port m.src
  match source with
  | none => none
  | some t =>
    if m.src = 0 ∨ (m.gmode ≠ 0 ∧ guard = none) ∨ (m.keep ∧ c.kept.contains (i, m.src)) ∨ !accepts cells k m then none
    else
      let opnd := if isTrigger m.dst ∧ (opSpec m.dst m.lit).usesA then c.port (operandKey m.dst) else none
      let others := (guard.toList ++ opnd.toList).map (·.stamp)
      some ⟨t.val, latest t.stamp others, others.any fun x => x != t.stamp, opnd⟩

/-- The words of a cell with their indexes. -/
def LCell.indexed (c : LCell) : List (Nat × Move) := (List.range c.moves.length).zip (c.moves.map moveOf)

/-- Put a stamp in its place among ascending stamps. -/
def insertStamp (t : BitVec 32) : List (BitVec 32) → List (BitVec 32)
  | [] => [t]
  | y :: ys => if t = y then y :: ys else if earlier t y then t :: y :: ys else y :: insertStamp t ys

/-- The stamps of a cell's tokens and operations. -/
def LCell.stamps (c : LCell) : List (BitVec 32) := c.ports.map (·.2.stamp) ++ c.ops.map (·.stamp)

/-- The stamps that have not committed, or of which something was in the lattice at the start of the cycle, ascending: those that
can be settled or not (R298). -/
def Lattice.stamps (l : Lattice) : List (BitVec 32) :=
  (l.log.map (·.stamp) ++ l.start.flatMap fun p => p.2.stamps).foldl (fun ts t => insertStamp t ts) []

/-- Whether every stamp earlier than `t` is settled (R297, R298). -/
def Lattice.joinFree (l : Lattice) (settled : List (BitVec 32)) (t : BitVec 32) : Bool :=
  l.stamps.all fun x => !earlier x t || settled.contains x

/-! ## Settled stamps (R297, R298) -/

/-- Whether a source token waits at a join: a word that takes it would fire but for the join. One that waits with a later
stamp is parked; with its own as the latest, while an earlier stamp is not settled. -/
def Lattice.waitsAtJoin (l : Lattice) (settled : List (BitVec 32)) (k port : Nat) (s : BitVec 32) : Bool :=
  (cellOf l.cells k).indexed.any fun p =>
    p.2.src == port && match readyWord l.cells k p.1 p.2 with
      | some r => r.join && (r.stamp != s || !l.joinFree settled r.stamp)
      | none => false

/-- Whether a port parks its tokens: token registers and operand latches. -/
def parkingPort (p : Nat) : Bool := (decide (8 ≤ p) && decide (p < 0x10)) || decide (0x20 ≤ p)

def Lattice.cellSettled (l : Lattice) (settled : List (BitVec 32)) (s : BitVec 32) (p : Nat × LCell) : Bool :=
  !(p.2.ops.any fun o => o.stamp == s)
    && p.2.ports.all fun q => q.2.stamp != s || parkingPort q.1 || l.waitsAtJoin settled p.1 q.1 s

/-- A load that has neither performed nor faulted. -/
def SillEntry.openLoad (x : SillEntry) : Bool :=
  match x.what with
  | .load _ _ _ _ done => !done && x.fault.isNone
  | _ => false

/-- The settled stamps, found in ascending order (R298). -/
def Lattice.settle (l : Lattice) : List (BitVec 32) :=
  l.stamps.foldl (fun settled t =>
    if !(l.log.any fun x => x.stamp == t && !x.entered) && !(l.sill.any fun y => y.stamp == t && y.openLoad)
      && l.cells.all (l.cellSettled settled t)
    then settled ++ [t] else settled) []

/-! ## The start of a cycle -/

/-- Operations whose results can be used from cycle `c` on put them in their ports (R291). -/
def LCell.deliver (c : LCell) (cyc : Nat) : LCell :=
  let (ready, rest) := c.ops.partition fun o => decide (o.ready ≤ cyc) && !o.results.isEmpty
  ready.foldl (fun c o => o.results.foldl (fun c r => c.fill r.1 ⟨r.2, o.stamp⟩) c) { c with ops := rest }

/-- The lattice at the start of cycle `c`, when nothing has happened in that cycle yet. -/
def Lattice.roll (l : Lattice) (c : Nat) : Lattice :=
  if l.cycle < c then
    let l1 := { l with cycle := c, cells := l.cells.map (fun (p : Nat × LCell) => (p.1, p.2.deliver c)), fired := [] }
    let l2 := { l1 with start := l1.cells }
    { l2 with settled := l2.settle }
  else l

/-- The lattice of a GD in its current cycle. -/
def State.lattice (s : State) (slot : Nat) : Lattice := (s.die slot).lattice.roll (s.cycleNow (clKey slot 0))

def State.setLattice (s : State) (slot : Nat) (l : Lattice) : State := s.updDie slot fun d => { d with lattice := l }

/-! ## The team a lattice works for, and its faults (R413, R414) -/

/-- The engine whose address space and master a GD's lattice uses: the first that a course has bound. -/
def State.latticeEngine (s : State) (slot : Nat) : EngId :=
  match ([0, 1, 2, 3] : List Nat).find? fun i => (s.eng ⟨slot, 0, i⟩).seq != 0 with
  | some i => ⟨slot, 0, i⟩
  | none => ⟨slot, 0, 0⟩

/-- The kind of a lattice access fault (R403). -/
def MemFault.latticeKind (f : MemFault) : Nat :=
  match f with
  | .misaligned _ => 1
  | .translation _ _ _ => 2
  | .rights _ _ _ _ => 3
  | .denied _ _ _ _ _ _ _ => 3
  | .physical _ => 5
  | .window _ _ => 7
  | .poisoned _ _ => 4

/-- Everything uncommitted and every graph is discarded; what has committed stands (R413). -/
def Lattice.discard (l : Lattice) : Lattice :=
  { l with cells := [], graphs := [], log := [], sill := [], commit := none, start := [], settled := [], fired := [] }

/-- Whether the team of a die's lattice runs. What a team that has stopped left in it stands still (R365, R400). -/
def State.latticeRuns (s : State) (slot : Nat) : Bool :=
  let e := s.eng (s.latticeEngine slot)
  match (s.launch e.seq).bind fun l => l.teams.find? fun t => t.index == e.team with
  | some t => match t.state with
    | .running => true
    | .stopping _ _ _ => true
    | .peer _ _ => true
    | _ => false
  | none => true

/-- The lattice fails, and its team will stop (R413, R414). -/
def State.latticeFail (s : State) (slot cause detail : Nat) (addr : Option Addr) : State :=
  let e := s.eng (s.latticeEngine slot)
  let ev : FaultEv :=
    { tick := s.ptick, cause := cause, detail := BitVec.ofNat 64 detail, addr := addr.getD 0, addrValid := addr.isSome,
      addrPhys := false, eng := none, slot := slot, cluster := 0, pc := BitVec.allOnes 32, level := 1, seq := e.seq,
      team := e.team, flags := 0, incarn := (s.die slot).incarn, issue := s.nextId, after := .stop }
  (s.setLattice slot (s.lattice slot).discard).fault ev

/-- The detail of a lattice access fault (R403). -/
def cellDetail (cell graph kind : Nat) (stamp : BitVec 32) : Nat :=
  cellX cell + cellY cell * 2 ^ 5 + graph * 2 ^ 10 + kind * 2 ^ 13 + stamp.toNat * 2 ^ 16

/-! ## Squashes (R300, R301, R414) -/

/-- A stamp leaves a cell: its tokens and its operations. -/
def LCell.dropStamp (t : BitVec 32) (c : LCell) : LCell :=
  let gone := (c.ports.filter fun p => p.2.stamp == t).map (·.1)
  { c with
    ports := c.ports.filter fun p => p.2.stamp != t
    kept := c.kept.filter fun x => !gone.contains x.2
    ops := c.ops.filter fun o => o.stamp != t }

/-- The mark of a stamp squashed in this cycle, which re-enters from the next on (R300). -/
def squashMark (t : BitVec 32) : Nat × Nat := (1024, t.toNat)

/-- Squash a stamp: it will enter again from the entry log (R300). -/
def Lattice.squashStamp (l : Lattice) (t : BitVec 32) : Lattice :=
  let drop (m : AMap LCell) : AMap LCell := m.map fun p => (p.1, p.2.dropStamp t)
  let again (x : LogEntry) : LogEntry := if x.stamp = t then { x with entered := false, squashes := x.squashes + 1 } else x
  { l with
    cells := drop l.cells
    start := drop l.start
    sill := l.sill.filter fun x => x.stamp != t
    log := l.log.map again
    settled := l.settled.filter fun x => x != t
    squash := if l.squash = BitVec.allOnes 32 then l.squash else l.squash + 1
    fired := l.fired ++ [squashMark t] }

/-- A stamp of the log that has been squashed 256 times (R414). -/
def Lattice.overSquashed (l : Lattice) : Option (BitVec 32) := (l.log.find? fun x => decide (256 ≤ x.squashes)).map (·.stamp)

/-- The lattice after squashes, or its failure when one stamp has reached the limit (R414). -/
def State.putLattice (s : State) (slot : Nat) (l : Lattice) : State :=
  let s1 := s.setLattice slot l
  match l.overSquashed with
  | some t => s1.latticeFail slot 0x0205 (2 + t.toNat * 2 ^ 16) none
  | none => s1

/-! ## The sill (R299-R301) -/

/-- The run of bytes of an entry that is a load or store. -/
def SillEntry.run (x : SillEntry) : Option (Nat × Nat) :=
  match x.what with
  | .load _ pa n _ _ => some (pa, n)
  | .store _ pa d => some (pa, d.length)
  | _ => none

def SillEntry.performedLoad (x : SillEntry) : Bool := match x.what with | .load _ _ _ _ done => done | _ => false
def SillEntry.isStore (x : SillEntry) : Bool := match x.what with | .store _ _ _ => x.fault.isNone | _ => false
def SillEntry.isEdge (x : SillEntry) : Bool := match x.what with | .edge _ _ _ => true | _ => false

def SillEntry.meets (x : SillEntry) (pa n : Nat) : Bool :=
  match x.run with
  | some (a, m) => overlaps a m pa n
  | none => false

/-- The stamps later than `s` that have a performed load of a byte of a run (R300). -/
def Lattice.hitLoads (l : Lattice) (s : BitVec 32) (pa n : Nat) : List (BitVec 32) :=
  ((l.sill.filter fun x => earlier s x.stamp && x.performedLoad && x.meets pa n).map (·.stamp)).eraseDups

/-- Put an effect into the sill; a store squashes the later stamps it hits (R299, R300). -/
def Lattice.enterSill (l : Lattice) (x : SillEntry) : Lattice :=
  let l1 := { l with sill := l.sill ++ [{ x with id := l.nextSill }], nextSill := l.nextSill + 1 }
  match x.what, x.fault with
  | .store _ pa d, none => (l.hitLoads x.stamp pa d.length).foldl Lattice.squashStamp l1
  | _, _ => l1

/-- What a full sill does for an effect of stamp `t` (R301, R414). -/
inductive Room
  | have_ (l : Lattice)
  | wait
  | overflow
  deriving DecidableEq, Repr

/-- Make room for one entry: the latest other stamp that holds entries is squashed, as often as needed. An initial stamp is
never squashed (R295). -/
def Lattice.makeRoom (l : Lattice) (t : BitVec 32) : Nat → Room
  | 0 => .wait
  | n + 1 =>
    if l.sill.length < 256 then .have_ l
    else if l.log.any fun x => earlier x.stamp t then .wait
    else if l.sill.all fun x => x.stamp == t then .overflow
    else
      let fed (s : BitVec 32) : Bool := l.log.any fun x => x.stamp == s && x.edge != 4
      match (l.sill.map (·.stamp)).filter fun s => s != t && fed s with
      | [] => .wait
      | s :: r => Lattice.makeRoom (l.squashStamp (latest s r)) t n

/-! ## A word fires -/

/-- The tokens a fired word takes (R285, R286, R291). -/
def LCell.consume (c : LCell) (i : Nat) (m : Move) (r : Ready) : LCell :=
  let c1 := if m.src = 5 then c else if m.keep then { c with kept := c.kept ++ [(i, m.src)] } else c.clear m.src
  let c2 := if m.gmode = 3 ∨ m.src = 5 then c1.clear (8 + m.greg) else c1
  if r.opnd.isSome then c2.clear (operandKey m.dst) else c2

/-- The memory access a MEM trigger makes: its virtual address, and its bytes (R290). -/
def memVa (l : Lattice) (c : LCell) (lit : Nat) (off : Word) : Addr :=
  match l.graphs.find c.graph with
  | some g => (if lit / 16 % 2 = 1 then g.base1 else g.base0) + zext80 off
  | none => zext80 off

/-- Translate a lattice access: its physical address, or the kind of its fault (R290, R413). -/
def State.latticePa (s : State) (slot : Nat) (need : Rights) (va : Addr) (n : Nat) : Except Nat Nat :=
  let id := s.latticeEngine slot
  if va.toNat % n ≠ 0 then .error 1
  else match s.reach id (s.eng id) need (va, n) with
    | .ok p => .ok p.1
    | .error x => .error x.2.latticeKind

/-- Whether a load has the fixed latency of R291: the GD's own scratchpad, by the local aperture or a range entry. -/
def State.fixedLoad (s : State) (slot : Nat) (va : Addr) (pa : Nat) : Bool :=
  let e := s.eng (s.latticeEngine slot)
  (match placeOf pa with | .gdScr g _ => g == slot | _ => false) && (isLocal va || (s.rangeFor slot e.asid va).isSome)

/-- The effect a fired word puts into the sill, if any: its entry, and the operation it starts (R299). -/
structure Effect where
  entry : SillEntry
  op : Option UnitOp

def State.effectOf (s : State) (slot : Nat) (l : Lattice) (k : Nat) (m : Move) (r : Ready) : Option Effect × State :=
  let c := cellOf l.cells k
  let mk (w : SillKind) (f : Option Nat) (due : Nat) : SillEntry := ⟨l.nextSill, r.stamp, k, c.graph, w, f, due⟩
  if m.dst = 6 then (some ⟨mk (.sink c.graph (m.lit % 4) r.val) none 0, none⟩, s)
  else if 1 ≤ m.dst ∧ m.dst ≤ 4 ∧ linkTo k m.dst = none then
    (some ⟨mk (.edge (m.dst - 1) (laneOf k (m.dst - 1)) r.val) none 0, none⟩, s)
  else if m.dst = 0x17 then
    let n := 2 ^ (m.lit % 4)
    if m.lit / 4 % 2 = 1 then
      let va := memVa l c m.lit (match r.opnd with | some a => a.val | none => 0)
      let data := bytesOf n r.val.toNat
      match s.latticePa slot rWrite va n with
      | .ok pa => (some ⟨mk (.store va pa data) none l.cycle, none⟩, s)
      | .error f => (some ⟨mk (.store va 0 data) (some f) l.cycle, none⟩, s)
    else
      let va := memVa l c m.lit r.val
      match s.latticePa slot rRead va n with
      | .error f => (some ⟨mk (.load va 0 n (m.lit.testBit 3) false) (some f) 0, none⟩, s)
      | .ok pa =>
        let op (ready : Nat) : UnitOp := ⟨0x17, r.stamp, [], ready, some l.nextSill⟩
        let fixed := s.fixedLoad slot va pa
        let (w, s) := if fixed then (0, s) else s.lat
        (some ⟨mk (.load va pa n (m.lit.testBit 3) false) none (s.ptick + w), some (op (if fixed then l.cycle + 6 else 0))⟩, s)
  else (none, s)

/-- Place the token of a fired word, or start its operation (R285, R287, R291, R292). -/
def Lattice.place (l : Lattice) (k : Nat) (m : Move) (r : Ready) : Lattice :=
  let t : Token := ⟨r.val, r.stamp⟩
  if m.dst = 0 then l
  else if m.dst < 5 then
    match linkTo k m.dst with
    | some n => l.updCell n fun c => c.fill (opposite m.dst) t
    | none => l
  else if m.dst < 0x10 then l.updCell k fun c => c.fill m.dst t
  else if isTrigger m.dst then
    let (res, lat) := unitResults m.dst m.lit (match r.opnd with | some a => a.val | none => 0) r.val
    l.updCell k fun c => { c with ops := c.ops ++ [⟨m.dst, r.stamp, res, l.cycle + lat, none⟩] }
  else l.updCell k fun c => c.fill (latchKey m.dst) t

/-- Whether an earlier word of the cell has fired in this cycle with the same source, destination or guard register (R285). -/
def Lattice.conflicts (l : Lattice) (k i : Nat) (m : Move) : Bool :=
  let c := cellOf l.cells k
  l.fired.any fun p => p.1 == k && decide (p.2 < i) && match c.moves[p.2]? with
    | none => false
    | some w =>
      let n := moveOf w
      n.src == m.src || n.dst == m.dst || (n.gmode != 0 && m.gmode != 0 && n.greg == m.greg)

/-- A word that fires now: what it brings together. Words are considered in ascending index, so none fires after a later
word of its cell has. -/
def Lattice.fires (l : Lattice) (k i : Nat) : Option (Move × Ready) :=
  match (cellOf l.cells k).moves[i]? with
  | none => none
  | some w =>
    let m := moveOf w
    match readyWord l.start k i m with
    | none => none
    | some r =>
      if l.conflicts k i m || l.fired.any (fun p => p.1 == k && decide (i ≤ p.2)) then none
      else if r.join && !l.joinFree l.settled r.stamp then none
      else some (m, r)

/-- The lattice and state once a word has fired, or none while its effect waits for the sill. -/
def State.fireWord (s : State) (slot k i : Nat) : Option State :=
  let l := s.lattice slot
  match if s.latticeRuns slot then l.fires k i else none with
  | none => none
  | some (m, r) =>
    let took (l : Lattice) : Lattice := { l.updCell k (fun c => c.consume i m r) with fired := l.fired ++ [(k, i)] }
    match s.effectOf slot l k m r with
    | (none, s) => some (s.setLattice slot ((took l).place k m r))
    | (some x, s) =>
      match l.makeRoom r.stamp 257 with
      | .wait => none
      | .overflow => some (s.latticeFail slot 0x0205 (1 + r.stamp.toNat * 2 ^ 16) none)
      | .have_ l =>
        let l1 := (took l).updCell k fun c => { c with ops := c.ops ++ x.op.toList }
        some (s.putLattice slot (l1.enterSill x.entry))

/-- MOVE_FIRE: a word of a cell fires (R285). -/
def execMoveFire (slot cell word : Nat) (s : State) : Out := .next ((s.fireWord slot cell word).getD s)

/-! ## Loads (R299, R300) -/

/-- The byte of a load that an uncommitted store covers: the newest store of its own stamp, or held by an earlier one. A
store enters the sill at the end of its cycle, so one of the same cycle is not seen. -/
inductive ByteFrom
  | store (b : Byte)
  | held
  | memory
  deriving DecidableEq, Repr

def SillEntry.byte (x : SillEntry) (pa : Nat) : Option Byte :=
  match x.what with
  | .store _ a d => if a ≤ pa then d[pa - a]? else none
  | _ => none

def Lattice.byteFor (l : Lattice) (t : BitVec 32) (pa : Nat) : ByteFrom :=
  let seen := l.sill.filter fun x => x.isStore && decide (x.due < l.cycle) && x.meets pa 1
  match ((seen.filter fun x => x.stamp == t).reverse.findSome? fun x => x.byte pa) with
  | some b => .store b
  | none => if seen.any fun x => earlier x.stamp t then .held else .memory

/-- The open load of a cell's MEM unit. -/
def Lattice.loadOf (l : Lattice) (cell : Nat) : Option SillEntry := l.sill.find? fun x => x.cell == cell && x.openLoad

/-- Whether a stamp is a graph's initial stamp with an earlier one uncommitted (R295). -/
def Lattice.initialWaits (l : Lattice) (t : BitVec 32) : Bool :=
  (l.log.any fun x => x.stamp == t && x.edge == 4) && (l.log.head?.map (·.stamp)) != some t

/-- Mark a load as performed, or faulted, and let its operation end: fixed latency counts from the trigger; otherwise, and
for a load that was held, from now. -/
def Lattice.endLoad (l : Lattice) (x : SillEntry) (v : Option Word) (late : Nat) : Lattice :=
  let mark (y : SillEntry) : SillEntry :=
    if y.id ≠ x.id then y
    else match v, y.what with
      | some _, .load va pa n sx _ => { y with what := .load va pa n sx true }
      | _, _ => { y with fault := some 4 }
  let op (o : UnitOp) : UnitOp :=
    match o.sill, v with
    | some i, some v => if i = x.id then { o with results := [(0x16, v)], ready := max o.ready (l.cycle + late) } else o
    | _, _ => o
  { l.updCell x.cell (fun c => { c with ops := (c.ops.map op).filter fun o => v.isSome || o.sill != some x.id }) with
    sill := l.sill.map mark }

/-- The stamps squashed because an earlier store that entered in this cycle overlaps a load just performed (R300). -/
def Lattice.lateHit (l : Lattice) (t : BitVec 32) (pa n : Nat) : Bool :=
  l.sill.any fun x => x.isStore && x.due == l.cycle && earlier x.stamp t && x.meets pa n

/-- The state once the open load of a cell has performed, or none while it waits. -/
def State.performLoad (s : State) (slot cell : Nat) : Option State :=
  let l := s.lattice slot
  match l.loadOf cell with
  | none => none
  | some x =>
    match x.what with
    | .load _ pa n sx _ =>
      let from_ := (List.range n).map fun i => l.byteFor x.stamp (pa + i)
      let id := s.latticeEngine slot
      if !s.latticeRuns slot ∨ s.ptick < x.due ∨ from_.contains .held ∨ l.initialWaits x.stamp ∨ !s.admits id false x.due [(pa, n)] then none
      else if (List.range n).any fun i => from_.getD i .memory == .memory && s.poisoned (pa + i) 1 then
        some (s.setLattice slot (l.endLoad x none 0))
      else
        let seen := s.view (.lattice slot) pa n
        let byte (i : Nat) : Byte := match from_.getD i .memory with | .store b => b | _ => seen.getD i 0
        let v := loadValue n sx ((List.range n).map byte)
        let fixed := match (cellOf l.cells cell).ops.find? fun o => o.sill == some x.id with | some o => o.ready == l.cycle + 6 | none => false
        let (w, s) := if fixed then (0, s) else s.lat
        let l1 := l.endLoad x (some (v.extractLsb' 0 64)) (if fixed then 6 else 1 + w)
        some ((s.serve id [(pa, n)]).putLattice slot (if l1.lateHit x.stamp pa n then l1.squashStamp x.stamp else l1))
    | _ => none

/-- MEM_LOAD_PERFORM: a lattice load reads its bytes (R299). -/
def execMemLoadPerform (slot cell : Nat) (s : State) : Out := .next ((s.performLoad slot cell).getD s)

/-! ## Commit (R298, R302, R303, R413) -/

/-- The sill entries of a stamp. -/
def Lattice.entriesOf (l : Lattice) (t : BitVec 32) : List SillEntry := l.sill.filter fun x => x.stamp == t

/-- The sink of an entry. -/
def Lattice.sinkOf (l : Lattice) (x : SillEntry) : Option (Sink × Word) :=
  match x.what with
  | .sink g i v => (l.graphs.find g).bind fun g => (g.sinks[i]?).map fun k => (k, v)
  | _ => none

/-- What a committing stamp writes and sends: bytes, in order, then pushes by route; or the fault that stops it. -/
structure Retire where
  writes : List (Nat × List Byte)
  pushes : List (Nat × Word)

/-- The fault of an entry as it commits: kind and address (R413, R303). -/
def SillEntry.heldFault (x : SillEntry) : Option (Nat × Addr) :=
  x.fault.map fun f => (f, match x.what with | .load va _ _ _ _ => va | .store va _ _ => va | _ => 0)

/-- What one entry adds. A route that is not valid names no address: what addr holds is free (log 2). -/
def State.retireOne (s : State) (slot : Nat) (l : Lattice) (x : SillEntry) (r : Retire) : Except (Nat × Addr) Retire :=
  match x.heldFault with
  | some f => .error f
  | none =>
    match x.what, l.sinkOf x with
    | .store _ pa d, _ => .ok { r with writes := r.writes ++ [(pa, d)] }
    | _, some (k, v) =>
      if k.kind = 1 then
        match s.latticePa slot rWrite k.target 8 with
        | .ok pa => .ok { r with writes := r.writes ++ [(pa, bytesOf 8 v.toNat)] }
        | .error f => .error (f, k.target)
      else if routeValid ((s.die slot).routeOf (k.target.toNat % 64)) then .ok { r with pushes := r.pushes ++ [(k.target.toNat % 64, v)] }
      else .error (6, zext80 (Config.freeWord s.fresh))
    | _, none => .ok r

/-- What a list of entries adds, in order, or the first fault with its entry. -/
def State.retireAll (s : State) (slot : Nat) (l : Lattice) : Retire → List SillEntry → Except (SillEntry × Nat × Addr) Retire
  | r, [] => .ok r
  | r, x :: xs =>
    match s.retireOne slot l x r with
    | .error f => .error (x, f.1, f.2)
    | .ok r => State.retireAll s slot l r xs

/-- Stores first, then sinks (R298). -/
def retireOrder (l : List SillEntry) : List SillEntry :=
  l.filter (fun x => x.run.isSome) ++ l.filter fun x => x.run.isNone && !x.isEdge

/-- Send the pushes of a commit: eight bytes, by R261 with K = 1 (R303). -/
def State.sinkPushes (s : State) (slot : Nat) (l : List (Nat × Word)) : State :=
  let e := s.eng (s.latticeEngine slot)
  l.foldl (fun (s : State) p =>
    let (m, s) := s.newId
    { s with pushes := s.pushes ++ [⟨m, ⟨slot, 0, 31⟩, e.seq, e.team, p.1, 0, s.ptick, BitVec.allOnes 32, [bytesOf 8 p.2.toNat]⟩] }) s

/-- Move edge outputs to their queues, in order, while each has room (R302). -/
def Lattice.moveEdges (l : Lattice) : List SillEntry → Lattice
  | [] => l
  | x :: xs =>
    match x.what with
    | .edge e lane v =>
      let q := l.edges[idx4 e]
      if 64 ≤ q.length then l
      else Lattice.moveEdges { l with
        edges := l.edges.set (idx4 e) (q ++ [⟨v, x.stamp, lane⟩])
        sill := l.sill.filter fun y => y.id != x.id } xs
    | _ => Lattice.moveEdges l xs

/-- The oldest stamp with something to commit: of the log, or a committed one whose parked token has since made an effect
(R298; log 36). -/
def Lattice.oldest (l : Lattice) : Option (BitVec 32) :=
  ((l.log.map (·.stamp) ++ l.sill.map (·.stamp)).foldl (fun ts t => insertStamp t ts) []).head?

/-- The commit that can begin or go on in this cycle: the stamp and the cycle in which its entries retire (R298). -/
def Lattice.committing (l : Lattice) : Option (BitVec 32 × Nat) :=
  match l.commit, l.oldest with
  | some c, _ => some c
  | none, some t =>
    if (l.settled.contains t || !l.stamps.contains t) && l.joinFree l.settled t && decide (l.freeAt ≤ l.cycle) then
      some (t, l.cycle + max 1 (ceilDiv (l.entriesOf t).length 4) - 1)
    else none
  | none, none => none

/-- The end of a commit once nothing of the stamp is left in the sill. -/
def Lattice.commitEnd (l : Lattice) (t : BitVec 32) : Lattice :=
  if (l.entriesOf t).isEmpty then
    { l with log := l.log.filter fun x => x.stamp != t, commit := none, freeAt := l.cycle + 1 }
  else { l with commit := some (t, l.cycle) }

/-- The fault of a sill entry of the oldest stamp stops the team (R413). -/
def State.commitFault (s : State) (slot : Nat) (x : SillEntry) (kind : Nat) (va : Addr) : State :=
  { s with fresh := s.fresh + 1 }.latticeFail slot 0x0204 (cellDetail x.cell x.graph kind x.stamp) (some va)

/-- Whether bytes that a commit writes wait for a write in flight that the lattice sees (R117, R131). -/
def State.latticeShadowed (s : State) (slot : Nat) (pas : List (Nat × Nat)) : Bool :=
  s.accesses.any fun a => s.seen a (.lattice slot) && sharesByte a.rest pas

/-- Whether a sink of a committing stamp waits for a write that the lattice has seen and that has not performed at the sink's scope
(R128, R139, R303). -/
def State.sinkWaits (s : State) (slot : Nat) (l : Lattice) (xs : List SillEntry) : Bool :=
  xs.any fun x => match l.sinkOf x with
    | some (k, _) => s.accesses.any fun a => s.seen a (.lattice slot) && !s.performedAt a k.scope
    | none => false

/-- The state once the oldest stamp has begun its commit, retired entries or committed; none while it waits. -/
def State.commitStep (s : State) (slot : Nat) : Option State :=
  let l := s.lattice slot
  match if s.latticeRuns slot then l.committing else none with
  | none => none
  | some (t, last) =>
    if l.cycle < last then (if l.commit = none then some (s.setLattice slot { l with commit := some (t, last) }) else none)
    else
      let all_ := l.entriesOf t
      let id := s.latticeEngine slot
      match s.retireAll slot l ⟨[], []⟩ (retireOrder all_) with
      | .error (x, kind, va) => some (s.commitFault slot x kind va)
      | .ok r =>
        let pas := r.writes.map fun w => (w.1, w.2.length)
        if !s.admits id false s.ptick pas || s.latticeShadowed slot pas || s.sinkWaits slot l all_ then none
        else
          let e := s.eng id
          let l1 := { l with sill := l.sill.filter fun x => x.stamp != t || x.isEdge }
          let l2 := (l1.moveEdges (l1.entriesOf t)).commitEnd t
          if l2 = l then none
          else
            let s1 := r.writes.foldl (fun (s : State) w => s.storePieces e.seq e.team [(w.1, w.2.length)] w.2) (s.serve id pas)
            some ((s1.sinkPushes slot r.pushes).setLattice slot l2)

/-- STAMP_COMMIT: the oldest uncommitted stamp commits, or stops its team with the fault held against it (R298, R413). -/
def execStampCommit (slot : Nat) (s : State) : Out := .next ((s.commitStep slot).getD s)

/-! ## Re-entry (R300) -/

/-- Whether a link-in is empty now and was at the start of the cycle. -/
def Lattice.portFree (l : Lattice) (cell port : Nat) : Bool :=
  ((cellOf l.start cell).port port).isNone && ((cellOf l.cells cell).port port).isNone

/-- Whether an earlier squashed token waits for the same link-in, or one was squashed in this cycle. -/
def Lattice.mayReenter (l : Lattice) (x : LogEntry) : Bool :=
  !x.entered && !l.fired.contains (squashMark x.stamp) && l.portFree (edgeCell x.edge x.lane) (x.edge + 1)
    && !l.log.any fun y => !y.entered && y.edge == x.edge && y.lane == x.lane && earlier y.stamp x.stamp

/-- SQUASH_REENTRY: a squashed stamp's token enters its link-in again (R300). -/
def execSquashReentry (slot stamp : Nat) (s : State) : Out :=
  let l := s.lattice slot
  let t := BitVec.ofNat 32 stamp
  match l.log.find? fun x => x.stamp == t && l.mayReenter x && s.latticeRuns slot with
  | none => .next s
  | some x =>
    let l1 := l.updCell (edgeCell x.edge x.lane) fun c => c.fill (x.edge + 1) ⟨x.val, t⟩
    .next (s.setLattice slot { l1 with log := l1.log.map fun y => if y.stamp = t then { y with entered := true } else y })

/-! ## Quiet (R305) -/

/-- Whether every stamp assigned so far has committed, and nothing waits in the sill. -/
def State.latticeQuiet (s : State) (slot : Nat) : Bool :=
  let l := (s.die slot).lattice
  l.log.isEmpty && l.sill.isEmpty && l.commit.isNone

/-- The pieces of memory the lattice wants of a home now: open loads that are due, and the writes of the stamp that
commits. -/
def State.latticeWants (s : State) (slot : Nat) : List (Nat × Nat) :=
  let l := (s.die slot).lattice
  let loads := (l.sill.filter fun x => x.openLoad && decide (x.due ≤ s.ptick)).filterMap (·.run)
  let head := match l.oldest with | some t => if l.settled.contains t || !l.stamps.contains t then l.entriesOf t else [] | none => []
  let sinks := head.filterMap fun x => match l.sinkOf x with
    | some (k, _) => if k.kind = 1 then (match s.latticePa slot rWrite k.target 8 with | .ok pa => some (pa, 8) | .error _ => none) else none
    | none => none
  loads ++ (head.filter (·.isStore)).filterMap (·.run) ++ sinks

end Sys2Proof.Machine
end

