-- ==== Sys2Proof/Machine/Gather.lean ====
section
/-! DEFINITION. The gather engine's instructions (11 R293-R296, R304, R305, R307) and the events that end them. -/

namespace Sys2Proof.Machine

/-! ## Graph images (R293-R295) -/

/-- The header of an image: the rectangle, the bases and the sinks (R293, R294). -/
def graphOf (b : List Byte) : Graph where
  x0 := bytesFld b 0 1
  y0 := bytesFld b 1 1
  w := bytesFld b 2 1
  h := bytesFld b 3 1
  base0 := BitVec.ofNat 80 (bytesFld b 16 10)
  base1 := BitVec.ofNat 80 (bytesFld b 32 10)
  sinks := (List.range 4).map fun k => ⟨bytesFld b (64 + 16 * k + 11) 1, bytesFld b (64 + 16 * k + 10) 1, BitVec.ofNat 80 (bytesFld b (64 + 16 * k) 10)⟩

def Graph.fits (g : Graph) : Bool := decide (g.x0 + g.w ≤ 31) && decide (g.y0 + g.h ≤ 31)
def Graph.count (g : Graph) : Nat := (g.w + 1) * (g.h + 1)

/-- The cell of a record, row by row (R293). -/
def Graph.cell (g : Graph) (j : Nat) : Nat := cellKey (g.x0 + j % (g.w + 1)) (g.y0 + j / (g.w + 1))

def Graph.holds (g : Graph) (k : Nat) : Bool :=
  decide (g.x0 ≤ cellX k) && decide (cellX k ≤ g.x0 + g.w) && decide (g.y0 ≤ cellY k) && decide (cellY k ≤ g.y0 + g.h)

/-- Whether two rectangles share a cell (R293). -/
def Graph.overlaps (g h : Graph) : Bool :=
  decide (g.x0 ≤ h.x0 + h.w) && decide (h.x0 ≤ g.x0 + g.w) && decide (g.y0 ≤ h.y0 + h.h) && decide (h.y0 ≤ g.y0 + g.h)

/-- A sink that gload refuses: a reserved kind, a route above 63, or target bytes past the route (R294, R307, R390). -/
def Sink.refused (k : Sink) : Bool := decide (2 < k.kind) || k.kind == 2 && decide (63 < k.target.toNat)

/-- A move word that gload refuses in the cell `k` of a graph (R307). -/
def Graph.refuses (g : Graph) (k : Nat) (w : Word32) : Bool :=
  let m := moveOf w
  if w = 0 then false
  else m.reserved
    || (m.src != 0 && m.dst == 6 && match g.sinks[m.lit % 4]? with | some x => x.kind == 0 | none => true)
    || (m.src != 0 && decide (1 ≤ m.dst) && decide (m.dst ≤ 4) && match linkTo k m.dst with | some n => !g.holds n | none => false)

/-- The move words of a record (R294). -/
def recordMoves (b : List Byte) : List Word32 := (List.range 32).map fun i => BitVec.ofNat 32 (bytesFld b (4 * i) 4)

/-- The initial tokens of a record: its token registers whose valid bits are set (R294, R295). -/
def recordTokens (b : List Byte) (t : BitVec 32) : AMap Token :=
  ((List.range 8).filter fun k => (BitVec.ofNat 8 (bytesFld b 192 1)).getLsbD k).map
    fun k => (8 + k, ⟨BitVec.ofNat 64 (bytesFld b (128 + 8 * k) 8), t⟩)

def recordCell (g : Nat) (b : List Byte) (t : BitVec 32) : LCell := ⟨g, recordMoves b, recordTokens b t, [], []⟩

/-- The records of an image's bytes. -/
def imageRecords (b : List Byte) (n : Nat) : List (List Byte) := (List.range n).map fun j => (b.drop (128 + 256 * j)).take 256

/-- The lattice with a graph made resident; an image with a valid bit takes a stamp and a place in the log (R295). -/
def Lattice.load (l : Lattice) (g : Nat) (gr : Graph) (recs : List (List Byte)) (stamped : Bool) : Lattice :=
  let t := l.stampCtr + 1
  let put (m : AMap LCell) (p : Nat × List Byte) : AMap LCell := m.put (gr.cell p.1) (recordCell g p.2 t)
  let l1 := { l with
    cells := ((List.range recs.length).zip recs).foldl put l.cells
    graphs := l.graphs.put g gr }
  if stamped then { l1 with stampCtr := t, log := l1.log ++ [⟨t, 0, 4, 0, 0, true⟩] } else l1

/-- gload: reads an image whole and makes its graph resident; it blocks while the log has no room for the initial stamp
(R295, R304, R307); of several reasons to refuse it the lowest is raised (R377). -/
def execGload (f : LG) (s : State) : Out :=
  onEngine s fun e c =>
    let g := f.d.toNat
    let slot := s.cur.slot
    let l := s.lattice slot
    let va := e.ea f.a.toNat f.b.toNat f.imm.val
    let refuse (r : Nat) : Out := raise s e c (illOperand f.imm.len 0x300 0xFF r)
    guarded s e c [e.destOf f.a.toNat, e.destOf f.b.toNat] []
      [check (decide (7 < g)) (illOperand f.imm.len 0x300 20 4), check (l.graphs.find g).isSome (illOperand f.imm.len 0x300 20 6)] <|
      if s.acquiring e then .next (holdOne s)
      else if va.toNat % 64 ≠ 0 then .next (accessFault s e va (.misaligned 6))
      else onReach s e (s.takeReach s.cur e pathG f.cls.toNat rRead va 128) fun head =>
        let gr := graphOf (s.viewAll (.eng s.cur) head).flatten
        if l.graphs.any fun p => p.2.overlaps gr then refuse 6
        else if !gr.fits then refuse 0x0C
        else onReach s e (s.takeReach s.cur e pathG f.cls.toNat rRead va (128 + 256 * gr.count)) fun pas =>
          let recs := imageRecords (s.viewAll (.eng s.cur) pas).flatten gr.count
          let bad := ((List.range recs.length).zip recs).any fun p => (recordMoves p.2).any (gr.refuses (gr.cell p.1))
          let stamped := recs.any fun b => bytesFld b 192 1 != 0
          if bad || gr.sinks.any Sink.refused then refuse 0x0C
          else if stamped ∧ 1024 ≤ l.log.length then .next (holdOne s)
          else finish (s.setLattice slot (l.load g gr recs stamped)) e c f.imm.words f.stall.toNat []

/-! ## Feeding (R296, R304) -/

/-- The fields of val(x) of a gfeed. -/
def feedCount (x : Word) : Nat := fld x 0 17
def feedLane (x : Word) : Nat := fld x 48 5
def feedLanes (x : Word) : Nat := fld x 56 5 + 1

/-- The lane of token `i`. -/
def feedLaneOf (x : Word) (i : Nat) : Nat := feedLane x + i % feedLanes x

/-- A blocked instruction of a gather engine at its pc. -/
def State.blockedG (s : State) (id : EngId) : Option LG :=
  match s.found id .ge (s.eng id) with
  | .inst (.gfeed f) => some f
  | .inst (.gquiet f) => some f
  | .inst (.gunload f) => some f
  | _ => none

/-- A blocked instruction retires: its result lands and the engine moves past it. -/
def State.retireG (s : State) (id : EngId) (f : LG) (w : Option Write) : State :=
  s.updEng id fun e =>
    let e1 := e.resume (s.dom id.cl) s.ptick
    let c := e1.nextIssue
    ((e1.settle c).land (landing c 1 w)).advance c f.imm.words f.stall.toNat

/-- gfeed: feeds val(x)'s tokens into the engine's edge (R304, R307). With none it only answers the last stamp; the lanes that must
belong to a resident graph are those a token enters (log 36). -/
def execGfeed (f : LG) (s : State) : Out :=
  onEngine s fun e c =>
    let x := e.val f.x.toNat
    let l := s.lattice s.cur.slot
    let va := e.ea f.a.toNat f.b.toNat f.imm.val
    let wide := decide (65536 < feedCount x) || decide (32 < feedLane x + feedLanes x)
    let lane (k : Nat) : Bool := (l.cells.find (edgeCell s.cur.index (feedLane x + k))).isSome
    guarded s e c [e.destOf f.a.toNat, e.destOf f.b.toNat, e.destOf f.x.toNat] []
      [check wide (illOperand f.imm.len 0x301 38 4), check (!(List.range (min (feedCount x) (feedLanes x))).all lane) (illOperand f.imm.len 0x301 38 6)] <|
      if s.acquiring e then .next (holdOne s)
      else if feedCount x = 0 then
        lateResult s e c f.imm.words f.stall.toNat f.d.toNat (BitVec.ofNat 64 l.stampCtr.toNat)
      else if va.toNat % 8 ≠ 0 then .next (accessFault s e va (.misaligned 3))
      else .next (blockOn s (.feed 0 va x (e.destOf f.d.toNat)))

/-- The mark of an edge into which a token has entered in this cycle. -/
def entryMark (edge : Nat) : Nat × Nat := (1025, edge)

/-- The lattice with a token entered (R296). -/
def Lattice.enter (l : Lattice) (edge lane : Nat) (v : Word) : Lattice :=
  let t := l.stampCtr + 1
  { l.updCell (edgeCell edge lane) (fun c => c.fill (edge + 1) ⟨v, t⟩) with
    stampCtr := t
    fired := l.fired ++ [entryMark edge]
    log := l.log ++ [⟨t, v, edge, lane, 0, true⟩] }

/-- Whether a new token may enter a lane of an edge: its link-in is free, no squashed token waits for it, the log has room, and none
has entered at a later edge in this cycle (R296, R300, R304). -/
def Lattice.mayEnter (l : Lattice) (edge lane : Nat) : Bool :=
  !(l.fired.any fun p => p.1 == 1025 && decide (edge < p.2)) && l.portFree (edgeCell edge lane) (edge + 1) && decide (l.log.length < 1024) && (l.cells.find (edgeCell edge lane)).isSome
    && !l.log.any fun x => !x.entered && x.edge == edge && x.lane == lane

/-- Whether a team has stopped its engines from feeding (R306). A team that drains must still end the section a gfeed is in: it
feeds only while the lattice is quiet (log 52). -/
def State.feedStops (s : State) (e : Engine) (slot : Nat) : Bool :=
  match s.teamStateOf e with
  | some .running => false
  | some (.peer _ _) => false
  | none => false
  | some (.stopping _ 1 _) => !s.latticeQuiet slot
  | _ => true

/-- FEED_TOKEN_ENTRY: the next token of a gfeed enters, in a cycle after the one it issued in; the last retires it (R296, R304; log
36). -/
def execFeedTokenEntry (id : EngId) (s : State) : Out :=
  let e := s.eng id
  let s := { s with cur := id }
  match e.status, s.blockedG id with
  | .blocked (.feed i va x dst) since, some f =>
    let l := s.lattice id.slot
    let lane := feedLaneOf x i
    let a := va + BitVec.ofNat 80 (8 * i)
    if s.feedStops e id.slot || !l.mayEnter id.index lane || decide (l.cycle ≤ since) then .next s
    else match s.takeReach id e pathG f.cls.toNat rRead a 8 with
      | .wait pas => .next (s.knock pas)
      | .fault va m => .next (accessFault s e va m)
      | .poison slot => .next (poisonFault s e 1 slot)
      | .ok pas =>
        let v := BitVec.ofNat 64 (natOf (s.viewAll (.eng id) pas).flatten)
        let l1 := l.enter id.index lane v
        let s1 := s.setLattice id.slot l1
        if i + 1 < feedCount x then .next (s1.setEng id { e with status := .blocked (.feed (i + 1) va x dst) since })
        else .next (s1.retireG id f (dst.write (BitVec.ofNat 80 l1.stampCtr.toNat)))
  | _, _ => .next s

/-! ## Taking (R304) -/

/-- A record of gtake. -/
def edgeRecord (r : EdgeRec) : List Byte := bytesOf 8 r.val.toNat ++ bytesOf 4 r.stamp.toNat ++ bytesOf 1 r.lane ++ bytesOf 3 0

/-- gtake: writes val(x) records from the engine's edge queue, as they come (R304, R307). -/
def execGtake (f : LG) (s : State) : Out :=
  onEngine s fun e c =>
    let n := (e.val f.x.toNat).toNat
    let va := e.ea f.a.toNat f.b.toNat f.imm.val
    let l := s.lattice s.cur.slot
    let done := match e.gtake with | some p => p.1 | none => 0
    let edge := idx4 s.cur.index
    let m := min (l.edges[edge]).length (n - done)
    let at_ := va + BitVec.ofNat 80 (16 * done)
    let progress (s : State) (k : Nat) : State := s.updEng s.cur fun e => { e with gtake := some (k, va, n) }
    guarded s e c [e.destOf f.a.toNat, e.destOf f.b.toNat, e.destOf f.x.toNat] []
      [check (n == 0 || decide (65536 < n)) (illOperand f.imm.len 0x302 38 4)] <|
      if s.acquiring e then .next (holdOne s)
      else if va.toNat % 16 ≠ 0 then .next (accessFault s e va (.misaligned 4))
      else if m = 0 then .next (holdOne s)
      else onReach s e (s.takeReach s.cur e pathG f.cls.toNat rWrite at_ (16 * m)) fun pas =>
        let bs := ((l.edges[edge]).take m).flatMap edgeRecord
        let s1 := (s.storePieces e.seq e.team pas bs).setLattice s.cur.slot
          { l with edges := l.edges.set edge ((l.edges[edge]).drop m) }
        if done + m < n then .next (holdOne (progress s1 (done + m)))
        else finish s1 { e with gtake := none } c f.imm.words f.stall.toNat []

/-! ## Quiet (R305) -/

/-- gunload: waits until the lattice is quiet, then removes a graph (R304, R307). -/
def execGunload (f : LG) (s : State) : Out :=
  onEngine s fun e c =>
    let g := f.d.toNat
    let back := f.a.toNat != 63
    let va := e.ea f.a.toNat f.b.toNat f.imm.val
    guarded s e c (if back then [e.destOf f.a.toNat, e.destOf f.b.toNat] else []) []
      [check ((s.lattice s.cur.slot).graphs.find g).isNone (illOperand f.imm.len 0x303 20 6)] <|
      if s.acquiring e then .next (holdOne s)
      else if back ∧ va.toNat % 64 ≠ 0 then .next (accessFault s e va (.misaligned 6))
      else .next (blockOn s (.quiet .nil (some g) (if back then some va else none)))

/-- gquiet: waits until the lattice is quiet, and answers the squash counter (R304, R305). -/
def execGquiet (f : LG) (s : State) : Out :=
  onEngine s fun e c =>
    guarded s e c [] [] [] <|
      if s.acquiring e then .next (holdOne s) else .next (blockOn s (.quiet (e.destOf f.d.toNat) none none))

/-- Bytes 192:128 of a cell's record (R294, R304). -/
def cellBytes (c : LCell) : List Byte :=
  let val (k : Nat) : Nat := match c.port (8 + k) with | some t => t.val.toNat | none => 0
  let full (k : Nat) : Nat := if (c.port (8 + k)).isSome then 2 ^ k else 0
  (List.range 8).flatMap (fun k => bytesOf 8 (val k)) ++ bytesOf 1 ((List.range 8).map full).sum

/-- The lattice without a graph: its tokens dropped, its cells free (R304). -/
def Lattice.unload (l : Lattice) (g : Nat) : Lattice :=
  let rest (m : AMap LCell) : AMap LCell := m.filter fun p => p.2.graph != g
  { l with cells := rest l.cells, start := rest l.start, graphs := l.graphs.erase g }

/-- Write the token registers of a graph back to its image, cell by cell; the first cell that waits or faults stops it. -/
def State.writeBack (s : State) (id : EngId) (e : Engine) (cls : Nat) (image : Addr) (gr : Graph) (l : Lattice) : List Nat → Except Reach State
  | [] => .ok s
  | j :: js =>
    match s.takeReach id e pathG cls rWrite (image + BitVec.ofNat 80 (128 + 256 * j + 128)) 65 with
    | .ok pas => State.writeBack (s.storePieces e.seq e.team pas (cellBytes (cellOf l.cells (gr.cell j)))) id e cls image gr l js
    | r => .error r

/-- LATTICE_QUIET_RETIRE: gquiet or gunload retires once every stamp has committed (R305). -/
def execLatticeQuietRetire (id : EngId) (s : State) : Out :=
  let e := s.eng id
  let s := { s with cur := id }
  let l := s.lattice id.slot
  match e.status, s.blockedG id with
  | .blocked (.quiet dst unload image) _, some f =>
    if !s.latticeQuiet id.slot then .next s
    else match unload with
      | none =>
        .next ((s.setLattice id.slot { l with squash := 0 }).retireG id f (dst.write (BitVec.ofNat 80 l.squash.toNat)))
      | some g =>
        let gr := l.graphs.getD g (graphOf [])
        let written : Except Reach State := match image with
          | some va => s.writeBack id e f.cls.toNat va gr l (List.range gr.count)
          | none => .ok s
        match written with
        | .ok s1 => .next ((s1.setLattice id.slot (l.unload g)).retireG id f none)
        | .error (.fault va m) => .next (accessFault s e va m)
        | .error (.wait pas) => .next (s.knock pas)
        | .error _ => .next s
  | _, _ => .next s

end Sys2Proof.Machine
end

