-- ==== Sys2Proof/Machine/Combine.lean ====
section
/-! DEFINITION. Combiners and the end of a course: completion records (02 R52, R53), placement feedback (R56), ordered
epochs left open (05 R143), and the end of a launch (12 R325). -/

namespace Sys2Proof.Machine

/-! ## Addresses of a launch's space as the HD uses them -/

/-- The range entries the HD uses for a launch's space: those it loaded when the launch was bound, or the record's before (R100). -/
def State.hdRanges (s : State) (image : Nat) : List RangeEntry :=
  let asid := BitVec.ofNat 16 (s.lrAsid image)
  match (s.die 36).ranges.filter fun r => r.asid == asid with
  | [] => s.rangeList image asid
  | rs => rs

/-- The physical address of a virtual address in a launch's space for an access that needs rights: its range list, then its page
tables (R100-R102). -/
def State.spacePa (s : State) (image va : Nat) (need : Rights) : Option Nat :=
  let a : Addr := BitVec.ofNat 80 va
  match (s.hdRanges image).find? fun r => r.rights.getLsbD 0 && r.base.ule a && a.ule r.limit with
  | some r => if rightsOk need (r.rights.extractLsb' 1 3) then some ((r.pa.toNat + (va - r.base.toNat)) % 2 ^ 56) else none
  | none =>
    match s.walk (s.lrHomeBd image) (BitVec.ofNat 16 (s.lrAsid image)) (va / 4096) with
    | .page fr have_ _ => if rightsOk need have_ then some (fr * 4096 + va % 4096) else none
    | .bad _ => none

def State.launchPa (s : State) (l : Launch) (va : Nat) (need : Rights) : Option Nat := s.spacePa l.image va need

/-! ## Completion records (R52, R53, R368) -/

/-- A completion record. -/
def completionBytes (l : Launch) (tick team domain status : Nat) : List Byte :=
  bytesOf 8 tick ++ bytesOf 2 l.course ++ bytesOf 1 l.image ++ bytesOf 1 status ++ bytesOf 2 domain ++ bytesOf 2 0
    ++ bytesOf 8 l.seq ++ bytesOf 4 team ++ bytesOf 4 0

/-- A combiner, or the HD in its place, reports: the record at the ring entry that the completion word names, then the
word, then the event (R52, R324, R368, R415). -/
def State.report (s : State) (l : Launch) (team slot cluster status : Nat) : State :=
  let out (s : State) : State := { s with outbox := s.outbox ++ [.event l.seq slot cluster] }
  match s.launchPa l (s.cwordVa l.image) (rRead ||| rWrite) with
  | none => out s
  | some cw =>
    let w := natOf (s.bytes cw 8)
    let at_ := s.ringVa l.image + 32 * (w % 2 ^ s.ringLog2 l.image)
    let s1 := match s.launchPa l at_ rWrite with
      | some pa => s.store pa (completionBytes l s.ptick team (slot * 256 + cluster) status)
      | none => s
    out (s1.store cw (bytesOf 8 (w + 1)))

/-- The combining groups of a team: the clusters its streams run in (R52). -/
def Launch.groupsOf (l : Launch) (team : Nat) : List Nat :=
  ((l.streams.filter fun x => x.team == team).map fun x => x.eng.cl).eraseDups

/-- Every combining group of the course: team and cluster. -/
def Launch.allGroups (l : Launch) : List (Nat × Nat) := (l.streams.map fun x => (x.team, x.eng.cl)).eraseDups

def Launch.teamOf? (l : Launch) (team : Nat) : Option Team := l.teams.find? fun t => t.index == team

/-- Whether a group's combiner has fired in this course. -/
def Launch.hasFired (l : Launch) (g : Nat × Nat) : Bool := match l.teamOf? g.1 with | some t => t.fired.contains g.2 | none => false

def Launch.updTeam (l : Launch) (team : Nat) (f : Team → Team) : Launch :=
  { l with teams := l.teams.map fun t => if t.index = team then f t else t }

/-! ## Placement feedback (R56) -/

/-- One feedback entry. -/
def fbBytes (id : EngId) (f : FbEntry) : List Byte :=
  bytesOf 4 id.key ++ bytesOf 4 0 ++ bytesOf 2 f.secNum.toNat ++ bytesOf 2 f.stolen ++ bytesOf 4 f.busy ++ bytesOf 4 f.waitHeader
    ++ bytesOf 4 f.waitTile ++ bytesOf 4 f.waitWindow ++ bytesOf 4 f.waitOther

/-- The entries of a stream, in section order. -/
def State.streamFb (s : State) (x : Stream) : List FbEntry := (s.eng x.eng).fbDone ++ [(s.eng x.eng).fbNow]

/-- Write the entries of the streams of a die (R56). -/
def State.feedback (s : State) (l : Launch) (slot : Nat) : State :=
  if s.fbPa l.image = 0 then s
  else
    let base := s.fbPa l.image + s.course l.image l.course 12 4
    (l.streams.filter fun x => x.eng.slot == slot).foldl (fun (s : State) x =>
      s.store (base + 32 * x.fbIndex) ((s.streamFb x).flatMap fun f => fbBytes x.eng f)) s

/-! ## The end of a course and of a launch -/

/-- Close the epochs of a BD that hold partials of these engines; a poisoned location only loses its partials (R143). -/
def State.closeEpochs (s : State) (slot : Nat) (engs : List EngId) : State :=
  let mine (p : Partial) : Bool := engs.contains p.src
  let sites := (((s.die slot).partials.filter mine).map fun p => (p.pa, p.ty)).eraseDups
  sites.foldl (fun (s : State) x =>
    if s.poisoned x.1 (typeBytes x.2) then
      s.updDie slot fun d => { d with partials := d.partials.filter fun p => !(p.pa == x.1 && p.ty == x.2) }
    else (s.closeEpoch x.1 x.2).1) s

/-- Free the frame a launch holds; a message buffer is free when no launch that it was filled for is left (R317, R319, R325). -/
def State.freeTask (s : State) (l : Launch) : State :=
  match l.task with
  | .host f => s.updImage l.image fun i => { i with framesHeld := i.framesHeld &&& ~~~((1 : BitVec 2) <<< f) }
  | .net _ _ _ _ _ _ => s

/-- The engines of a launch's current course leave their streams. -/
def State.idle (s : State) (l : Launch) : State := l.streams.foldl (fun (s : State) x => s.updEng x.eng fun e => { e with status := .off }) s

/-- What fault records need of a launch (R366, R369). -/
def State.pastOf (s : State) (l : Launch) : PastLaunch := ⟨l.seq, l.image, l.course, s.lrTenant l.image, s.precPa l.image⟩

/-- LAUNCH_END: the dies are released, the frame and buffer freed (R325). -/
def State.endLaunch (s : State) (l : Launch) : State :=
  let s1 := (s.idle l).freeTask l
  { s1 with launches := s1.launches.filter fun x => x.seq != l.seq, past := s1.past ++ [s.pastOf l] }

/-- The walk of a launch comes to a course-list entry: it ends past the last; a control entry takes 16 ticks, and a skip its
predicate read besides (R326); what must be in place before the T0 of a course takes a free time (R32, log 7). -/
def State.enterEntry (s : State) (l : Launch) (i : Nat) : State :=
  if s.ncourse l.image ≤ i then s.endLaunch l
  else
    let kind := s.entry l.image i 0 1
    let (w, s) := if kind = 1 ∨ kind = 2 then s.lat else (0, s)
    s.updLaunch l.seq fun x =>
      { x with
        state := .walking, next := i, course := i, streams := [], teams := [], gauges := [], crcAborts := 0, crcDue := none
        due := s.ptick + (if kind = 1 then 0 else 16) + w }

/-- The windows and routes of the course are no longer valid (R107, R260). -/
def State.unloadWindows (s : State) (l : Launch) : State :=
  (List.range (s.nwin l.image l.course)).foldl (fun (s : State) j =>
    let f (off : Nat) : Nat := s.winEntry l.image l.course j off 1
    (s.updDie (slotIn l.bind (f 6)) fun d => { d with wincfg := d.wincfg.erase (f 7) }).updDie (slotIn l.bind (f 8))
      fun d => { d with route := d.route.erase (f 9) }) s

/-- The graphs and tokens of a course's GDs are discarded (R306). -/
def State.clearLattices (s : State) (l : Launch) : State :=
  ((l.streams.map fun x => x.eng.slot).eraseDups.filter fun k => dieKind k == some .gd).foldl
    (fun (s : State) k => s.setLattice k Lattice.reset) s

/-- The course has completed on every die: its epochs close, its merge-buffer entries are sent, and the walk goes on or
ends (R26, R33, R143, R326). -/
def State.endCourse (s : State) (l : Launch) : State :=
  let engs := l.streams.map (·.eng)
  let s0 := ((s.idle l).clearLattices l).unloadWindows l
  let s1 := (List.range 37).foldl (fun (s : State) b => s.closeEpochs b engs) s0
  s1.enterEntry l l.next

/-- Whether every stream of a combining group has retired its notify, what it did and saw has performed for the combiner's release at
package scope (R52, R132), and a GD's lattice is quiet (R306). -/
def State.groupDone (s : State) (l : Launch) (team cl : Nat) : Bool :=
  let g := l.streams.filter fun x => x.team == team && x.eng.cl == cl
  !g.isEmpty && (g.all fun x => (s.eng x.eng).status == .finished && s.earlierDone x.eng s.nextId [] 7 && !s.passesOn x.eng 4) && (dieKind (cl / 16) != some .gd || s.latticeQuiet (cl / 16))

/-- Whether a group's combiner is the last of its die in the course. -/
def Launch.lastOnDie (l : Launch) (team cl : Nat) : Bool :=
  l.allGroups.all fun g => g.2 / 16 != cl / 16 || g == (team, cl) || l.hasFired g

/-- Merged operations of a die whose streams have ended are sent (R26). -/
def State.flushDie (s : State) (slot : Nat) : State :=
  ((s.die slot).merge.foldl (fun (s : State) m =>
    let (k, s) := s.newId
    { s with crossings := s.crossings ++ [Crossing.mk k m slot s.ptick none] }) s).updDie slot fun d => { d with merge := [] }

/-- COMBINER_FIRE: the die's feedback is written before its last combiner fires; the record, the word and the event; then
the course ends when every combiner of it has fired (R52, R56, R326). -/
def execCombinerFire (seq team cl : Nat) (s : State) : Out :=
  match s.launch seq with
  | none => .next s
  | some l =>
    let running := (l.teamOf? team).map (·.state) == some .running
    let s1 := if l.lastOnDie team cl then (s.flushDie (cl / 16)).feedback l (cl / 16) else s
    let l' := l.updTeam team fun t => { t with fired := t.fired ++ [cl] }
    let s2 := (s1.report l team (cl / 16) (cl % 16) 0).updLaunch seq fun _ => l'
    event s (l.state == .inCourse && running && !l.hasFired (team, cl) && s.groupDone l team cl)
      (if l'.allGroups.all l'.hasFired then s2.endCourse l' else s2)

/-- EPOCH_CLOSE_AT_COURSE_END: epochs of a BD whose sources' courses have ended close (R143). -/
def execEpochCloseAtCourseEnd (slot : Nat) (s : State) : Out :=
  let past := (((s.die slot).partials.map (·.src)).eraseDups).filter fun id => id.kind.isSome && (s.eng id).status == .off
  event s (!past.isEmpty) (s.closeEpochs slot past)

end Sys2Proof.Machine
end

