-- ==== Sys2Proof/Machine/Faults.lean ====
section
/-! DEFINITION. Team-level faults: fault records (20 R366, R369, R370), the fault stop (22 R400-R402), peers (R416), answers
(R404-R406, R449), and the pre-emption record (12 R330). -/

namespace Sys2Proof.Machine

/-! ## Fault records -/

/-- The 64 bytes of a fault record (R366). A redacted copy has addr, pc and detail zeroed and flags bit 3 set (R369). -/
def recordBytes (f : FaultEv) (n course pattern : Nat) (redacted : Bool) : List Byte :=
  let flags := f.flags.toNat + (if f.addrPhys then 1 else 0) + (if f.addrValid then 2 else 0) + (if redacted then 8 else 0)
  let hide (v : Nat) : Nat := if redacted then 0 else v
  bytesOf 2 f.cause ++ bytesOf 2 n ++ bytesOf 2 0 ++ bytesOf 2 f.incarn.toNat ++ bytesOf 1 pattern ++ bytesOf 1 flags ++ bytesOf 1 f.level
    ++ bytesOf 1 (match f.eng with | some e => 128 + e.index | none => 0) ++ bytesOf 2 (f.slot * 256 + f.cluster)
    ++ bytesOf 2 course ++ bytesOf 8 (hide f.detail.toNat) ++ bytesOf 4 (hide f.pc.toNat) ++ bytesOf 4 f.team ++ bytesOf 6 0
    ++ bytesOf 10 (hide f.addr.toNat) ++ bytesOf 8 f.seq ++ bytesOf 8 f.tick

/-- Whether an address lies in a BD. -/
def inBd (pa : Nat) : Bool :=
  match placeOf pa with
  | .bdSram _ _ => true
  | .hbm _ _ => true
  | _ => false

/-- The number the next record takes (R370). -/
def State.nextRecord (s : State) : Nat := fld s.mgmt.fltcfg 32 32

/-- What the records of a launch need of it, while it is there and after it has ended. -/
def State.launchInfo (s : State) (seq : Nat) : Option PastLaunch :=
  match s.launch seq with
  | some l => some (s.pastOf l)
  | none => s.past.find? fun p => p.seq == seq

/-- Write one record to the package log and to its launch's fault ring, count it, and send the vector (R369, R370). A log
whose base lies in no BD receives nothing (log 17). -/
def State.record (s : State) (f : FaultEv) : State :=
  let n := s.nextRecord
  let at_ := fld s.mgmt.flog 12 44 * 4096 + 64 * (n % 2 ^ fld s.mgmt.flog 0 4)
  let log (course pattern : Nat) (redacted : Bool) : State :=
    if inBd at_ then s.store at_ (recordBytes f n course pattern redacted) else s
  let s1 := match s.launchInfo f.seq with
    | some p => (log p.course p.image (p.tenant != 0)).store (p.prec + 0x1000 + 64 * (n % 64)) (recordBytes f n p.course p.image false)
    | none => log 0 0 false
  { s1 with mgmt := { s1.mgmt with fltcfg := setFld s1.mgmt.fltcfg 32 32 (n + 1) } }.faultInterrupt

/-- A fault event of a team as a whole, only to be recorded: no engine, pc all ones. -/
def teamEv (s : State) (seq team cause detail level slot : Nat) : FaultEv where
  tick := s.ptick
  cause := cause
  detail := BitVec.ofNat 64 detail
  addr := 0
  addrValid := false
  addrPhys := false
  eng := none
  slot := slot
  cluster := 0
  pc := BitVec.allOnes 32
  level := level
  seq := seq
  team := team
  flags := 0
  incarn := (s.die slot).incarn
  issue := s.nextId
  after := .nothing

/-! ## Pre-emption records (R330) -/

/-- The 64 bytes of a pre-emption record. -/
def preBytes (q : PreReq) (e : Estimate) (action reason : Nat) (met : Bool) (stop : Nat) : List Byte :=
  let sat (n : Nat) : Nat := min n (2 ^ 32 - 1)
  bytesOf 8 q.seq ++ bytesOf 2 q.source ++ bytesOf 1 (if met then 1 else 0) ++ bytesOf 1 action ++ bytesOf 1 reason ++ bytesOf 3 0
    ++ bytesOf 4 q.team ++ bytesOf 4 q.deadline ++ bytesOf 4 (sat e.tDrain) ++ bytesOf 4 e.tSave ++ bytesOf 4 e.tDisc
    ++ bytesOf 4 (sat e.lost) ++ bytesOf 8 e.b ++ bytesOf 8 e.bd ++ bytesOf 8 stop

/-- An estimate of nothing, for a request that reaches no estimator. -/
def Estimate.none_ : Estimate := ⟨0, 0, 0, 0, 0, 0, 0, 0, 0, false⟩

/-- The action of a stop by a RELEASE that saves, or that discards: no request of R327, and no record (R351). -/
def releaseAction (save : Bool) : Nat := if save then 4 else 5

/-- Write a pre-emption record where the request names, or at the launch's prec_pa (R327). -/
def State.preRecord (s : State) (q : PreReq) (e : Estimate) (action reason : Nat) (met : Bool) : State :=
  let base := if q.record ≠ 0 then some q.record else (s.launch q.seq).map fun l => s.precPa l.image
  match base with
  | some pa => if 4 ≤ q.action then s else s.store pa (preBytes q e action reason met s.ptick)
  | none => s

/-! ## Whether a retry is admitted (R403, R405, R442, R445) -/

/-- The causes after which a retry can be admitted; no other is (R403). -/
def retryCause (cause detail : Nat) : Bool :=
  cause == 0x0101 || cause == 0x0102 || cause == 0x0103 || cause == 0x0104 || cause == 0x0105
    || (cause == 0x0106 && detail % 256 != 5) || cause == 0x0107 || cause == 0x0207 || cause == 0x0309 || cause == 0x030A

/-- Whether an engine stands at the begin mark of a region, or at its notify. -/
def State.atMark (s : State) (id : EngId) (e : Engine) : Bool :=
  match id.kind with
  | none => false
  | some k => match s.found id k e with
    | .inst (.idbeg _) => true
    | .inst (.notify _) => true
    | _ => false

/-- Whether an engine can go back to its begin mark (R60, R384, R405): it is at its notify, or has inh = 0 and stands in a
region or at a mark. -/
def State.canDiscard (s : State) (id : EngId) (e : Engine) : Bool :=
  e.notifies || (!chkInh e.chksb && e.lend.isNone && (e.region.isSome || s.atMark id e))

/-- Whether an engine meets the conditions of a retry (R405). -/
def State.canRetry (s : State) (id : EngId) (e : Engine) : Bool :=
  s.canDiscard id e && !chkInh e.chksb && !(e.region.isSome && e.consumed)

/-- The engines of a team in the current course. -/
def Launch.engsOf (l : Launch) (team : Nat) : List EngId := (l.streams.filter fun x => x.team == team).map (·.eng)

def State.teamRetry (s : State) (seq team : Nat) : Bool :=
  match s.launch seq with
  | none => false
  | some l => (l.engsOf team).all fun id => s.canRetry id (s.eng id)

/-! ## Stopping a team (R400, R401) -/

/-- Whether an engine works for a team. -/
def Engine.ofTeam (e : Engine) (seq team : Nat) : Bool := e.seq == seq && e.team == team && e.status != .off

/-- Every merge-buffer entry that an access has joined performs (R400). -/
def State.flushMerged (s : State) (hit : Access → Bool) : State :=
  let uses (m : MergeEntry) : Bool := s.accesses.any fun a => m.ids.contains a.id && hit a
  let sent (s : State) (slot : Nat) : State :=
    ((s.die slot).merge.filter uses).foldl (fun (s : State) m =>
      let (k, s) := s.newId
      { s with crossings := s.crossings ++ [Crossing.mk k m slot s.ptick none] }.updDie slot
        fun d => { d with merge := d.merge.filter fun x => x.id != m.id }) s
  let s1 := (List.range 37).foldl sent s
  (s1.crossings.filter fun x => x.ret.isNone && uses x.entry).foldl (fun s x => s.performCrossing x) s1

/-- Whether an access that was dropped, whole or in part, keeps a later one of its engine from performing (R121, R128, R401). -/
def Access.bars (x a : Access) : Bool :=
  x.eng == a.eng && (a.rel || (x.path == a.path && x.cls == a.cls && (x.pas.isEmpty || sharesByte x.rest a.pas)))

/-- Whether an access is a plain write, which performs unit by unit (R135, R400). -/
def Access.plainWrite (a : Access) : Bool :=
  match a.op with
  | .store _ => true
  | .vstore _ => true
  | .scatter _ => true
  | _ => false

/-- Some of the units of a plain write perform, each by a free choice, or all of them. The access with what has performed (R400). -/
def State.settleUnits (s : State) (a : Access) (must : Bool) : State × Access :=
  a.left.foldl (fun (x : State × Access) k =>
    let (c, s) := x.1.draw
    let p := a.pas.getD k (0, 0)
    if must || (s.unitReady x.2 k && Config.coin c) then
      ((s.noteOwn a.eng a.id p.1 (a.unitData k)).storePieces a.seq a.team [p] (a.unitData k), { x.2 with did := x.2.did ++ [k] })
    else (s, x.2)) (s, a)

/-- One access of a stopping team performs or is dropped, a plain write one unit at a time: choices the spec leaves open (log 2), but
nothing performs that an earlier dropped access orders before it, nor what follows a faulted access of its engine (R400, R401; log
18). A read leaves nothing; a write that another agent may have seen performs (R116, log 54). -/
def settleOne (faulty : List (EngId × Nat)) (acc : State × List Access) (a : Access) : State × List Access :=
  let (s, gone) := acc
  let drop : State × List Access := (s.dropAccess a.id, gone ++ [a])
  if a.merged then (s.dropAccess a.id, gone)
  else if (faulty.any fun f => f.1 == a.eng && decide (f.2 ≤ a.id)) || gone.any (·.bars a) || !s.mayPerform a then drop
  else if a.reads then (s.dropAccess a.id, gone)
  else if a.plainWrite then
    let (s1, a1) := s.settleUnits a (s.early a).isSome
    if a1.left = [] then ((s1.dropAccess a.id).cleared a, gone) else (s1.dropAccess a.id, gone ++ [a1])
  else
    let (k, s) := s.draw
    let s1 := s.performAccess a
    if Config.coin k && s1.faults.length == s.faults.length then (s1.dropAccess a.id, gone) else (s.dropAccess a.id, gone ++ [a])

/-- Every access of a team in flight performs or is dropped; one that has joined a merge-buffer entry performs (R400). -/
def State.settleAccesses (s : State) (faulty : List (EngId × Nat)) (seq team : Nat) : State :=
  let s1 := s.flushMerged fun a => a.seq == seq && a.team == team
  ((s1.accesses.filter fun a => a.seq == seq && a.team == team).foldl (settleOne faulty) (s1, [])).1

/-- The payload of a transfer of a stopping team goes on for a free number of units (R400). -/
def State.settlePayload (id : EngId) (ch uid : Nat) : Nat → State → State
  | 0, s => s
  | n + 1, s =>
    let e := s.eng id
    let k := e.chans[idx4 ch]
    let (c, s) := s.draw
    match k.out.find? fun t => t.uid == uid with
    | none => s
    | some t =>
      if t.moved || !k.mayBegin t || !Config.coin c then s
      else match s.moves id e t with
        | .error _ => s
        | .ok m =>
          let s1 := s.movePayload id ch t m
          if s1.faults.length = s.faults.length then State.settlePayload id ch uid n s1 else s

/-- The completion word of a transfer whose payload has performed is written or not (R400). -/
def State.settleWord (s : State) (id : EngId) (ch uid : Nat) : State :=
  let e := s.eng id
  let (c, s) := s.draw
  match e.chans[idx4 ch].out.find? fun t => t.uid == uid with
  | none => s
  | some t =>
    match s.endPieces id e t with
    | .error _ => s
    | .ok (pas, _) =>
      if t.moved && Config.coin c && s.mayComplete id ch e t pas [] then s.storePieces e.seq e.team pas (bytesOf 8 t.cval.toNat) else s

/-- A transfer of a stopping team: some of the units of its payload perform, and its completion word only if all have (R400). -/
def State.settleTransfer (s : State) (id : EngId) (ch : Nat) (t : Transfer) : State :=
  let n := match s.moves id (s.eng id) t with
    | .ok m => m.units.length + m.puts.length + (m.back t).length + 1
    | .error _ => 0
  (State.settlePayload id ch t.uid n s).settleWord id ch t.uid

/-- The transfers of a stopping team's engines that have not faulted. -/
def State.settleTransfers (s : State) (faulty : List (EngId × Nat)) (seq team : Nat) : State :=
  let of (p : Nat × Engine) : List (EngId × Nat × Transfer) :=
    let id := EngId.ofKey p.1
    if p.2.seq == seq && p.2.team == team && !faulty.any (fun f => f.1 == id) then
      (List.range 4).flatMap fun ch => p.2.chans[idx4 ch].out.map fun t => (id, ch, t)
    else []
  (s.engines.flatMap of).foldl (fun (s : State) x => s.settleTransfer x.1 x.2.1 x.2.2) s

/-- What a stopping team has in flight is settled (R400, R401). -/
def State.settleTeam (s : State) (seq team : Nat) : State :=
  let faulty := s.faults.filterMap fun f => f.eng.map fun id => (id, f.issue)
  (s.settleTransfers faulty seq team).settleAccesses faulty seq team

/-- A channel whose transfers are dropped: no completion word, and XDONE stays (R400). -/
def Channel.dropAll (c : Channel) : Channel := { c with out := [], chain := .idle }

/-- Every fixed-latency result of an engine has landed: no pipeline state is left (R43, R48). -/
def Engine.landAll (e : Engine) : Engine :=
  (sortLandings (e.replayAt e.nextIssue).pend).foldl (fun (e : Engine) (p : Landing) => e.landOne p.wr) e

/-- An engine stopped with its team: its fixed-latency results land and the rest of what it had in flight is dropped; one at its notify stays finished (R60, R365). -/
def Engine.halt (e : Engine) : Engine :=
  let e := e.landAll
  { e with
    status := if e.notifies then .finished else .stopped
    pend := [], inter := [], holds := [], acqs := [], stores := [], follow := [], bc := none, lend := none
    chans := e.chans.map Channel.dropAll }

/-- ENGSTOP of a cluster once the engines named no longer stand at brk (R385). -/
def clearStops (cl : Nat) (mine : EngId → Bool) (b : BitVec 17) : BitVec 17 :=
  if b = 0 then 0
  else (List.range 17).foldl (fun (b : BitVec 17) i => if mine ⟨cl / 16, cl % 16, i⟩ then b &&& ~~~((1 : BitVec 17) <<< i) else b) b

/-- The responses to some engines find nobody who waits for them: each keeps the incarnation it echoes (R374, R400). -/
def State.strand (s : State) (mine : EngId → Bool) : State :=
  (s.replies.filter fun r => mine r.eng).foldl
    (fun (s : State) r => s.updDie r.eng.slot fun d => { d with strays := d.strays ++ [(r.incarn, r.due)] })
    { s with replies := s.replies.filter fun r => !mine r.eng }

/-- A team stops at once: its accesses and transfers are settled; unsent pushes, fills and walks are dropped; pieces on
their way land; none of its engines stands at brk any more (R385, R400). -/
def State.haltTeam (s : State) (seq team : Nat) : State :=
  let s1 := s.settleTeam seq team
  let mine (id : EngId) : Bool := (s1.eng id).ofTeam seq team
  let s2 := { s1.strand mine with
    pushes := s1.pushes.filter fun p => !(p.seq == seq && p.team == team)
    clusters := s1.clusters.map fun (p : Nat × Cluster) =>
      (p.1, { p.2 with fills := p.2.fills.filter fun x => !mine x.by_, engstop := clearStops p.1 mine p.2.engstop })
    engines := s1.engines.map fun (p : Nat × Engine) => (p.1, if p.2.ofTeam seq team then p.2.halt else p.2) }
  let needed (slot : Nat) (w : Walk) : Bool :=
    (s2.untranslated slot).any fun a => (s2.eng a.eng).asid == w.asid && s2.missOf a == some w.page
  { s2 with dies := s2.dies.map fun (p : Nat × Die) => (p.1, { p.2 with walks := p.2.walks.filter (needed p.1) }) }

/-- The combiners of some groups, named by team and cluster, report a status (R368). -/
def State.reportGroups (s : State) (l : Launch) (groups : List (Nat × Nat)) (status : Nat) : State :=
  groups.foldl (fun s g => s.report l g.1 (g.2 / 16) (g.2 % 16) status) s

/-- The groups of a team whose combiners have not fired. -/
def Launch.unfired (l : Launch) (team : Nat) : List (Nat × Nat) :=
  ((l.groupsOf team).map fun g => (team, g)).filter fun g => !l.hasFired g

/-- Whether a team still runs in its course: a fault stops it. -/
def TeamState.live (t : TeamState) : Bool :=
  match t with
  | .running => true
  | .stopping _ _ _ => true
  | .restart _ => true
  | _ => false

/-- The peers of a team become so: the other live teams in its instance of the level above (R416). -/
def Launch.markPeers (l : Launch) (team rec : Nat) : Launch :=
  let parent := (l.teamOf? team).map (·.parent)
  { l with teams := l.teams.map fun t =>
      if t.index = team ∨ some t.parent ≠ parent ∨ !t.state.live then t else { t with state := .peer rec team } }

/-- The pre-emptions of peers of a failed team that a fault overtakes are recorded (R416, R418). -/
def State.overtakePeers (s : State) (l : Launch) (team : Nat) : State :=
  let one (s : State) (t : Team) : State :=
    match t.state with
    | .stopping q _ est => s.preRecord q est 0 7 false
    | _ => s
  (l.teams.filter fun t => t.index != team && some t.parent == (l.teamOf? team).map (·.parent)).foldl one s

/-- A team makes a fault stop: its engines stop, the record is written, its combiners report, and it is held. A stop after
which no retry can be admitted is fatal: its memory is frozen and its peers stop (R400-R402, R416). A pre-emption it
overtakes is recorded (R418). A team that does not run is only recorded, at level 1 (R370). -/
def State.stopTeam (s : State) (f : FaultEv) (status : Nat) (retry : Bool) : State :=
  match s.launch f.seq with
  | none => s.record { f with level := if f.seq = 0 then f.level else 1 }
  | some l =>
    match l.teamOf? f.team with
    | none => s.record { f with level := 1 }
    | some t =>
      if !t.state.live then s.record { f with level := 1 }
      else
        let n := s.nextRecord
        let s1 := (s.haltTeam f.seq f.team).record f
        let s2 := match t.state with
          | .stopping q _ est => s1.preRecord q est 0 (if est.tick = s.ptick then 5 else 7) false
          | _ => s1
        let s3 := if retry then s2 else s2.overtakePeers l f.team
        let hold (t : Team) : Team := { t with state := .held f.cause retry, frozen := !retry }
        (s3.reportGroups l (l.unfired f.team) status).updLaunch f.seq fun l =>
          let l' := l.updTeam f.team hold
          if retry then l' else l'.markPeers f.team n

/-- Where a team of a launch stands. -/
def Launch.teamState (l : Launch) (team : Nat) : Option TeamState := (l.teamOf? team).map (·.state)

/-! ## The fault stop of a tick (R370, R400, R402) -/

/-- The place of a fault among those of its tick: slot, then ENGID (R370). -/
def FaultEv.rank (f : FaultEv) : Nat := f.slot * 2 ^ 32 + (match f.eng with | some e => e.key | none => 2 ^ 31)

def insertFault (x : FaultEv) : List FaultEv → List FaultEv
  | [] => [x]
  | y :: ys => if x.rank < y.rank then x :: y :: ys else y :: insertFault x ys

def sortFaults (l : List FaultEv) : List FaultEv := l.foldl (fun acc x => insertFault x acc) []

/-- Whether a fault is an access's: the logic of an engine and a deadline fault on their own (R372, R402, R442). -/
def FaultEv.ofAccess (f : FaultEv) : Bool := f.after == .stop && f.cause != 0x0306

/-- The faults of a tick with one for each engine whose accesses fault: its earliest-issued (R402). -/
def firstPerEngine (fs : List FaultEv) : List FaultEv :=
  fs.filter fun f => !(f.ofAccess && fs.any fun g => g.ofAccess && g.eng.isSome && g.eng == f.eng && decide (g.issue < f.issue))

/-- The faults of a tick without the exceptions of teams that stop in it for another cause: the stop acts first (R377). -/
def unovertaken (fs : List FaultEv) : List FaultEv :=
  fs.filter fun f => !(f.after == .stop && decide (f.cause < 0x0100) &&
    fs.any fun g => g.after == .stop && decide (0x0100 ≤ g.cause) && g.seq == f.seq && g.team == f.team)

/-- A fault of the tick is recorded, and what follows its record happens. -/
def State.actOn (s : State) (f : FaultEv) : State :=
  match f.after with
  | .nothing => s.record f
  | .stop => s.stopTeam f 1 (retryCause f.cause f.detail.toNat && s.teamRetry f.seq f.team)
  | .report l groups status => (s.record f).reportGroups l groups status

/-- FAULT_STOP: every fault detected in the tick is recorded, and the teams concerned stop (R400). Faults that the settling
of their accesses would raise in them are dropped without records (R402). -/
def execFaultStop (s : State) : Out :=
  let fs := firstPerEngine (unovertaken (sortFaults s.faults))
  let ours (f : FaultEv) : Bool := fs.any fun g => g.seq == f.seq && g.team == f.team
  let s1 := fs.foldl State.actOn s
  .next { s1 with faults := (s1.faults.drop s.faults.length).filter fun f => !ours f }

/-! ## Peers (R416, R417) -/

/-- A team of a failed peer's kind that has stopped is over for the course. -/
def Launch.teamEnds (l : Launch) (team status : Nat) : Launch :=
  l.updTeam team fun t => { t with state := .past status, fired := l.groupsOf team, frozen := false }

/-- Whether an engine of a stopping peer has stopped. -/
def Engine.peerStopped (e : Engine) : Bool :=
  match e.status with
  | .stopped => true
  | .finished => true
  | .notifying _ => true
  | .paused _ => true
  | .atBrk => true
  | .off => true
  | _ => false

/-- The launch ends once every combiner of its course has reported or will not. -/
def State.endIfDone (s : State) (seq : Nat) : State :=
  match s.launch seq with
  | none => s
  | some l => if l.allGroups.all l.hasFired then s.endCourse l else s

/-- PEER_STOP: a blocked engine of a peer stops at once; once the last has stopped, the team records PEER_FAILED and its
combiners report; with that the course of an abandoned launch may be over (R416, R417). -/
def execPeerStop (seq team : Nat) (s : State) : Out :=
  match s.launch seq with
  | none => .next s
  | some l =>
    match l.teamState team with
    | some (.peer rec failed) =>
      let stopBlocked (s : State) (id : EngId) : State :=
        s.updEng id fun e => match e.status with | .blocked _ _ => { e with status := .stopped } | _ => e
      let s1 := (l.engsOf team).foldl stopBlocked s
      if (l.engsOf team).all fun id => (s1.eng id).peerStopped then
        let slot := match l.engsOf team with | id :: _ => id.slot | [] => 0
        let ev := { teamEv s seq team 0x0301 (rec % 65536 + failed % 2 ^ 32 * 65536) 1 slot with after := .report l (l.unfired team) 2 }
        .next ((((s1.haltTeam seq team).fault ev).updLaunch seq fun l => l.teamEnds team 2).endIfDone seq)
      else .next s1
    | _ => .next s

/-! ## Answers (R404-R406, R417, R449) -/

/-- A channel of a team that restarts: nothing is in flight (R449). -/
def Channel.clean (c : Channel) : Channel := { c with out := [], chain := .idle, xdone := c.xnext - 1 }

/-- An engine back at its begin mark: the entry record restored, vectors and accumulators zero, no region open (R58, R449). One that
stands at an idbeg it has not issued is there already, and what it had in flight lands. -/
def Engine.discarded (e : Engine) (c : Nat) : Engine :=
  if e.status = .finished then { e with chans := e.chans.map Channel.clean }
  else
    let e1 := match e.region with
      | some r => { e with
          glob := r.glob, win := r.win, a := r.a, c := r.c, lc := r.lc, depth := r.depth, resident := r.resident, pc := r.pc }
      | none => e.landAll
    { e1 with
      status := .running, w := Vector.replicate 8 0, v := [], z := Vector.replicate 8 [], zLand := Vector.replicate 8 0,
      pend := [], inter := [], snap := [], replay := false, region := none, consumed := false, nextIssue := c, holds := [],
      acqs := [], stores := [], bc := none, follow := [], mtxUntil := 0, lend := none, collected := false, gtake := none,
      chans := e1.chans.map Channel.clean, progBase := e.progBase + (e.nextIssue - e.hdrCycle), hdrCycle := c }

/-- The tiles of a team's clusters are empty (R58). The spec gives tiles no owner: the model empties every tile of the clusters that the
team runs in; DESIGN CHOICE (log 60). -/
def State.emptyTiles (s : State) (l : Launch) (team : Nat) : State :=
  (l.groupsOf team).foldl (fun (s : State) cl =>
    s.updCluster cl fun c => { c with tiles := Vector.replicate 16 Tile.reset, fills := [] }) s

/-- Every engine of a team restarts at its begin mark at one tick (R62, R405). -/
def State.restartTeam (s : State) (l : Launch) (team : Nat) : State :=
  (l.engsOf team).foldl (fun (s : State) id => s.updEng id fun e => e.discarded ((s.dom id.cl).cycleFrom s.ptick)) (s.emptyTiles l team)

/-- RETRY_RESTART: 100 ticks after a retry the team restarts; the course's own deadlines are no longer checked (R405, R442). -/
def execRetryRestart (seq team : Nat) (s : State) : Out :=
  match s.launch seq with
  | none => .next s
  | some l =>
    match l.teamState team with
    | some (.restart t) =>
      event s (decide (t ≤ s.ptick)) ((s.restartTeam l team).updLaunch seq fun l =>
        { l.updTeam team (fun t => { t with state := .running, frozen := false }) with checkDl := false })
    | _ => .next s

/-- Abandon a team: it is over, and the launch ends once its other teams have finished the current course; peers that have not yet
stopped do so (R405, R416, R417). -/
def State.abandon (s : State) (l : Launch) (team : Nat) : State :=
  (s.updLaunch l.seq fun l => { l with next := s.ncourse l.image, due := 0 }.teamEnds team 3).endIfDone l.seq

/-- Every team of a launch stops and the launch waits for its rerun (R420). -/
def State.toRerun (s : State) (l : Launch) : State :=
  let s1 := l.teams.foldl (fun (s : State) t => s.haltTeam l.seq t.index) s
  s1.updLaunch l.seq fun l => { l with state := .rerun, teams := l.teams.map fun t => { t with state := .past 0, frozen := false } }

/-- A launch ends at once, whatever it holds; the windows and routes of a course it was in are taken down (R361). -/
def State.killLaunch (s : State) (l : Launch) : State :=
  let s1 := l.teams.foldl (fun (s : State) t => s.haltTeam l.seq t.index) s
  (if l.streams.isEmpty then s1 else s1.unloadWindows l).endLaunch l

/-- The status of an answer, and the state after it (R404, R405): 0 done, 1 no such held team, 2 not admitted. -/
def State.answered (s : State) (seq team action : Nat) : Nat × State :=
  match s.launch seq with
  | none => (1, s)
  | some l =>
    match l.state, l.teamState team with
    | .heldAnswer rerun, _ =>
      if action = 3 then (0, s.killLaunch l)
      else if action = 2 ∧ rerun then (0, s.toRerun l)
      else (2, s)
    | _, some (.held cause retry) =>
      if action = 1 then
        if retry then (0, s.updLaunch seq fun l => l.updTeam team fun t => { t with state := .restart (s.ptick + 100) }) else (2, s)
      else if action = 2 then (if cause = 0x030B then (2, s) else (0, s.toRerun l))
      else (0, s.abandon l team)
    | _, _ => if l.waits ∧ action = 3 then (0, s.killLaunch l) else (1, s)

/-- An answer through FRESP0 and FRESP1 (R404). Action 0 does nothing. -/
def State.answer (s : State) (seq team action : Nat) : State :=
  let regs (s : State) (status : Nat) : State :=
    { s with mgmt := { s.mgmt with
        fresp0 := BitVec.ofNat 64 seq
        fresp1 := BitVec.ofNat 64 (status % 256 * 2 ^ 40 + action % 4 * 2 ^ 32 + team % 2 ^ 32) } }
  if action % 4 = 0 then regs s (fld s.mgmt.fresp1 40 8)
  else
    let (st, s1) := s.answered seq team action
    regs s1 st

/-- FAULT_RETRY: FRESP1 action 1 (R405). -/
def execFaultRetry (seq team : Nat) (s : State) : Out := .next (s.answer seq team 1)

/-- FAULT_RERUN: FRESP1 action 2 (R405). -/
def execFaultRerun (seq team : Nat) (s : State) : Out := .next (s.answer seq team 2)

/-- FAULT_ABANDON: FRESP1 action 3 (R405). -/
def execFaultAbandon (seq team : Nat) (s : State) : Out := .next (s.answer seq team 3)

end Sys2Proof.Machine
end

