-- ==== Sys2Proof/Machine/Hash.lean ====
section
/-! DEFINITION. SHA-256, by which the HD measures an image (12 R309, 14 R349). -/

namespace Sys2Proof.Machine

/-! ## Constants: roots of the first primes (FIPS 180-4; log 11) -/

/-- The greatest `r` below `2 ^ n` with `r ^ k ≤ v`, by bits from the highest down. -/
def rootBits (k v : Nat) : Nat → Nat → Nat
  | 0, r => r
  | n + 1, r => rootBits k v n (if (r + 2 ^ n) ^ k ≤ v then r + 2 ^ n else r)

/-- The first 32 fraction bits of the `k`-th root of a number below 512. -/
def rootFraction (k p : Nat) : Word32 := BitVec.ofNat 32 (rootBits k (p * 2 ^ (32 * k)) 37 0)

/-- The first `n` primes from `p` on, within `fuel` candidates. -/
def primesFrom (p n : Nat) : Nat → List Nat
  | 0 => []
  | fuel + 1 =>
    if n = 0 then []
    else if (List.range p).all fun d => decide (d < 2) || p % d != 0 then p :: primesFrom (p + 1) (n - 1) fuel
    else primesFrom (p + 1) n fuel

/-- The constant of each round. -/
def shaRounds : List Word32 := (primesFrom 2 64 311).map (rootFraction 3)

/-- A hash value or a working state: eight words, `a` first. -/
abbrev Sha := List Word32

def Sha.start : Sha := (primesFrom 2 8 19).map (rootFraction 2)

/-- The exclusive or of three rotations to the right. -/
def rot3 (x : Word32) (i j k : Nat) : Word32 := x.rotateRight i ^^^ x.rotateRight j ^^^ x.rotateRight k

/-- One round: `w` is the schedule's word and the round's constant, added. -/
def Sha.round (v : Sha) (w : Word32) : Sha :=
  match v with
  | [a, b, c, d, e, f, g, h] =>
    let t := h + w + rot3 e 6 11 25 + (g ^^^ (e &&& (f ^^^ g)))
    [t + rot3 a 2 13 22 + ((a &&& b) ||| (c &&& (a ||| b))), a, b, c, d + t, e, f, g]
  | _ => v

/-- The message schedule, newest word first: 16 words of the block, then 48 more. -/
def shaExtend : Nat → List Word32 → List Word32
  | 0, ws => ws
  | n + 1, ws =>
    let back (i : Nat) : Word32 := ws.getD (i - 1) 0
    let small (x : Word32) (i j k : Nat) : Word32 := x.rotateRight i ^^^ x.rotateRight j ^^^ x >>> k
    shaExtend n ((small (back 2) 17 19 10 + back 7 + small (back 15) 7 18 3 + back 16) :: ws)

/-- Big-endian words of a block. -/
def shaWords : List Byte → List Word32
  | a :: b :: c :: d :: r => (a ++ b ++ c ++ d : BitVec 32) :: shaWords r
  | _ => []

def Sha.block (v : Sha) (b : List Byte) : Sha :=
  let ws := (shaExtend 48 (shaWords b).reverse).reverse
  v.zipWith (· + ·) ((shaRounds.zipWith (· + ·) ws).foldl Sha.round v)

/-- Blocks of 64 bytes. -/
def shaBlocks (v : Sha) : Nat → List Byte → Sha
  | 0, _ => v
  | n + 1, bs => shaBlocks (v.block (bs.take 64)) n (bs.drop 64)

/-- The digest of a message, as 32 bytes. -/
def sha256 (msg : List Byte) : List Byte :=
  let n := msg.length
  let tail := List.replicate ((119 - n % 64) % 64) (0 : Byte) ++ (bytesOf 8 (8 * n)).reverse
  let bs := msg ++ (128 : Byte) :: tail
  (shaBlocks Sha.start (bs.length / 64) bs).flatMap fun w => (bytesOf 4 w.toNat).reverse

end Sys2Proof.Machine
end

