-- ==== Sys2Proof/Machine/Distribute.lean ====
section
/-! DEFINITION. Images, triggers, messages, queues, selection and binding (12 R308-R325). -/

namespace Sys2Proof.Machine

/-! ## Image slots (R310) -/

/-- Whether an image has a task queued or running, or holds a frame or a buffer (R310). -/
def State.imageBusy (s : State) (i : Nat) : Bool :=
  (s.launches.any fun l => l.image == i) || (s.image i).framesHeld != 0

/-- Set LSTAT (R318). -/
def State.setLstat (s : State) (i seq status : Nat) : State :=
  s.updImage i fun m => { m with lstat := BitVec.ofNat 64 (seq % 2 ^ 48 * 2 ^ 16 + m.framesHeld.toNat * 2 ^ 8 + status) }

/-- Make a range of memory read zero: no poison, no written bit (R32). -/
def State.wipe (s : State) (pa n : Nat) : State :=
  let out (u : Nat) : Bool := !(decide (pa ≤ u) && decide (u < pa + n))
  { s with mem := clearBytes s.mem pa n, poison := s.poison.filter out, written := s.written.filter out }

/-- IMAGE_OPEN: LCTL command 1 (R310). -/
def execImageOpen (i : Nat) (s : State) : Out :=
  let m := s.image i
  event s (decide (i < 64) && (m.state == 0 || m.state == 3))
    ((s.wipe (imagePa i 0) 0x400000).updImage i fun m => { m with state := 1, inits := [], banks := [], groups := [] })

/-- IMAGE_UNLOAD: LCTL command 3 (R310). -/
def execImageUnload (i : Nat) (s : State) : Out :=
  let m := s.image i
  if 64 ≤ i ∨ m.state = 0 then .next s
  else if s.imageBusy i then .next (s.updImage i fun m => { m with lstat := BitVec.ofNat 64 (fld m.lstat 8 56 * 256 + 1) })
  else .next (s.updImage i fun m => { m with state := 0 })

/-- The tables of a pattern's object join those of its image slot (log 19). -/
def ImageSlot.addTables (m : ImageSlot) (x : PatternTables) : ImageSlot :=
  { m with inits := m.inits ++ x.inits, banks := m.banks ++ x.banks, groups := m.groups ++ x.groups }

/-- IMAGE_APERTURE_WRITE: bytes of an image while it is loading (R310), with the tables that come with them (log 19). -/
def execImageApertureWrite (i off : Nat) (bs : List Byte) (tables : PatternTables) (s : State) : Out :=
  event s (decide (i < 64) && (s.image i).state == 1 && decide (off + bs.length ≤ 0x400000))
    ((s.store (imagePa i off) bs).updImage i fun m => m.addTables tables)

/-! ## Commit (R310, R326, R443, R146) -/

/-- Whether `n` bytes at an offset lie within an image. -/
def State.inImage (s : State) (i off n : Nat) : Bool := decide (off + n ≤ s.imgLength i)

/-- The check of a gauge record (R443). -/
def State.gaugeOk (s : State) (i v : Nat) : Bool :=
  let domOk (d : Nat) : Bool :=
    decide (d / 256 < s.nldie i) && (d % 16 == 0 || (s.ldieEntry i (d / 256)).ty == 1 || (s.ldieEntry i (d / 256)).ty == 2)
  decide (v / 2 ^ 32 % 65536 ≤ 0x1000) && decide (0x1000 ≤ v / 2 ^ 48) && domOk (v % 65536) && domOk (v / 65536 % 65536)

/-- The check of a course-list entry: its kind, and what a course entry names (R310, R326, R443). -/
def State.entryOk (s : State) (i k : Nat) : Bool :=
  let kind := s.entry i k 0 1
  decide (1 ≤ kind) && decide (kind ≤ 7)
    && (kind != 1 || (s.inImage i (s.entry i k 4 4) 32
      && (List.range (s.ngauge i k)).all fun j => s.gaugeOk i (s.gaugeRec i k j)))

/-- The checks of a commit (R310). -/
def State.imageOk (s : State) (i : Nat) : Bool :=
  decide (128 ≤ s.imgLength i) && decide (s.imgLength i ≤ 0x400000) && s.inImage i (s.lrecOff i) 192
    && s.inImage i (s.listOff i) (32 * s.ncourse i) && s.inImage i (s.paramOff i) (s.paramLen i)
    && (List.range (s.ncourse i)).all (s.entryOk i)

/-- Whether an instruction makes its stream not reproducible: an unordered form of an order-sensitive opcode, or an
atomic's fetch form (R142, R146). -/
def unreproducible (i : Instr) : Bool :=
  match i with
  | .vrsum f => unordered f && isFloat f.fs.toNat
  | .vscan f => unordered f && isFloat f.fs.toNat
  | .kred f => f.mod.getLsbD 2 && (f.imm.bits % 8 == 4 || f.imm.bits % 8 == 5)
  | .redFadd f => f.mod.getLsbD 2
  | .amoAdd _ | .amoFadd _ | .amoMin _ | .amoMax _ | .amoAnd _ | .amoOr _ | .amoXor _ | .amoSwp _ | .amoCas _ | .amoFmin _
    | .amoFmax _ => true
  | _ => false

/-- A word of a stream's code as the HD reads it. -/
def State.hdWord (s : State) (i va pc : Nat) : Option Word32 :=
  (s.spacePa i (va + 4 * pc) rRead).map fun pa => BitVec.ofNat 32 (natOf (s.bytes pa 4))

/-- The words of an instruction. -/
def State.hdWords (s : State) (i va pc : Nat) : Nat → List Word32
  | 0 => []
  | n + 1 => (match s.hdWord i va pc with | some w => [w] | none => []) ++ State.hdWords s i va (pc + 1) n

/-- Whether the instructions of a section from `pc` to `last` are all reproducible. -/
def State.wordsReproducible (s : State) (i va : Nat) (k : EngKind) (last : Nat) : Nat → Nat → Bool
  | 0, _ => true
  | n + 1, pc =>
    if last ≤ pc then true
    else match s.hdWord i va pc with
      | none => true
      | some w =>
        (match decodeFor k (s.hdWords i va pc (lengthOf w)) with | .ok x => !unreproducible x | .error _ => true)
          && State.wordsReproducible s i va k last n (pc + lengthOf w)

/-- Whether the sections of a stream from the header at `h` on are reproducible (R35, R146). -/
def State.sectionsReproducible (s : State) (i va : Nat) (k : EngKind) : Nat → Nat → Bool
  | 0, _ => true
  | n + 1, h =>
    match s.hdWord i va h with
    | none => true
    | some w =>
      if !isHeader w then true
      else
        let len := fld w 16 16
        s.wordsReproducible i va k (h + 2 + len) len (h + 2) && State.sectionsReproducible s i va k n (h + 2 + len)

/-- A slot of a die type (R9, R12). -/
def slotOfType (ty : Nat) : Nat := match ty with | 1 => 0 | 2 => 4 | 3 => 5 | 4 => 6 | 5 => 8 | _ => 36

/-- Whether stream `j` of course entry `k` is reproducible (R146). -/
def State.streamReproducible (s : State) (i k j : Nat) : Bool :=
  let ty := (s.ldieEntry i (s.strm i k j 10 1)).ty
  let id : EngId := ⟨slotOfType ty, s.strm i k j 12 1 % 16, s.strm i k j 11 1 % 32⟩
  match id.kind with
  | none => true
  | some e => s.strm i k j 13 1 % 2 == 0 && s.sectionsReproducible i (s.strm i k j 0 10) e 16384 0

/-- The streams of an image: course entry and index. -/
def State.allStreams (s : State) (i : Nat) : List (Nat × Nat) :=
  ((List.range (s.ncourse i)).filter fun k => s.entry i k 0 1 == 1).flatMap fun k => (List.range (s.nstrm i k)).map fun j => (k, j)

/-- Mark the streams that are reproducible, and the promise that all are (R309, R314). -/
def State.markReproducible (s : State) (i : Nat) : State :=
  let flags := (s.allStreams i).map fun p => (p, s.streamReproducible i p.1 p.2)
  let s1 := flags.foldl (fun (s : State) x =>
    let off := s.course i x.1.1 16 4 + 32 * x.1.2 + 13
    s.store (imagePa i off) (bytesOf 1 (s.img i off 1 / 4 * 4 + s.img i off 1 % 2 + (if x.2 then 2 else 0)))) s
  s1.store (imagePa i 88) (bytesOf 1 (if flags.all (·.2) then 1 else 0))

/-- The hash of an image: its bytes with the hash field taken as zero (R309). -/
def State.imageHash (s : State) (i : Nat) : List Byte :=
  let bs := s.bytes (imagePa i 0) (s.imgLength i)
  sha256 (bs.take 96 ++ List.replicate 32 0 ++ bs.drop 128)

/-- IMAGE_COMMIT: LCTL command 2 (R310). -/
def execImageCommit (i : Nat) (s : State) : Out :=
  if 64 ≤ i ∨ (s.image i).state ≠ 1 then .next s
  else if !s.imageOk i then .next (s.updImage i fun m => { m with state := 3 })
  else
    let s1 := s.markReproducible i
    .next ((s1.store (imagePa i 96) (s1.imageHash i)).updImage i fun m => { m with state := 2 })

/-! ## Triggers (R315-R318) -/

/-- The tasks waiting in a queue, in order. -/
def State.queued (s : State) (q : Nat) : List Launch := s.launches.filter fun l => l.queue == q && l.state == .queued

/-- A launch as it is accepted. -/
def Launch.fresh (seq image : Nat) (task : Task) (queue since : Nat) : Launch where
  seq := seq
  image := image
  task := task
  queue := queue
  prio := 0
  since := since
  state := .queued
  bind := []
  quads := []
  next := 0
  stack := []
  span := none
  course := 0
  t0 := 0
  deadline := 0
  due := 0
  streams := []
  gauges := []
  teams := []
  engines := []
  crcAborts := 0
  crcDue := none
  risk := 0
  missed := []
  checkDl := true
  rstcfg := 0
  dlact := 0
  waits := false
  areas := []

/-- A patch: a frame offset and the bytes it writes (R316). -/
def patchOf (b : List Byte) : Nat × List Byte := (bytesFld b 8 4, (b.take 8).take (bytesFld b 12 1))

def patchOk (b : List Byte) (len : Nat) : Bool :=
  decide (1 ≤ bytesFld b 12 1) && decide (bytesFld b 12 1 ≤ 8) && bytesFld b 13 3 == 0
    && decide (bytesFld b 8 4 + bytesFld b 12 1 ≤ len)

/-- Bytes of memory as the distributor reads them, with master 0xFFFE, or none: unmapped, denied or poisoned (R352). -/
def State.readHd (s : State) (pa n : Nat) : Option (List Byte) :=
  if (s.judge ⟨36, 0, 0⟩ masterHd pa n rRead 0).isSome ∨ s.poisoned pa n ∨ s.slotGone (paSlot pa) then none
  else some (s.view .host pa n)

/-- The patches a trigger names, or none when R317 refuses them (R316, R352). -/
def State.patches (s : State) (i : Nat) (v : Word) : Option (List (Nat × List Byte)) :=
  if !v.getLsbD 0 then some []
  else
    let pa := fld v 6 50 * 64
    match s.readHd pa 16 with
    | none => none
    | some h =>
      let n := bytesFld h 0 2
      if 1024 < n then none
      else match s.readHd (pa + 16) (16 * n) with
        | none => none
        | some bs =>
          let es := (List.range n).map fun k => (bs.drop (16 * k)).take 16
          if es.all (patchOk · (s.paramLen i)) then some (es.map patchOf) else none

/-- The trigger's registers: the RW fields of LTRIG (R315). -/
def ltrigOf (v : Word) : Word := v &&& 0x00FFFFFFFFFFFFC1

/-- LAUNCH_TRIGGER: an LTRIG write (R317). -/
def execLaunchTrigger (i : Nat) (v : Word) (s : State) : Out :=
  if 64 ≤ i then .next s
  else
    let s := s.updImage i fun m => { m with ltrig := ltrigOf v }
    let m := s.image i
    let q := m.queue.toNat
    if m.state ≠ 2 then .next (s.setLstat i 0 2)
    else if 64 ≤ (s.queued q).length then .next (s.setLstat i 0 1)
    else match ([0, 1] : List Nat).find? fun f => !m.framesHeld.getLsbD f with
      | none => .next (s.setLstat i 0 1)
      | some f =>
        match s.patches i v with
        | none => .next (s.setLstat i 0 3)
        | some ps =>
          let pa := s.framePa i f
          let block := s.bytes (imagePa i (s.paramOff i)) (s.paramLen i)
          let s1 := ps.foldl (fun (s : State) p => s.store (pa + p.1) p.2) (s.store pa block)
          let s2 := s1.updImage i fun m => { m with framesHeld := m.framesHeld ||| ((1 : BitVec 2) <<< f) }
          .next ({ s2 with
            launches := s2.launches ++ [Launch.fresh s.nextSeq i (.host f) q s.ptick]
            nextSeq := s.nextSeq + 1 }.setLstat i s.nextSeq 0)

/-! ## Messages (R319, R320, R415) -/

/-- The fields of an armed-launch descriptor (R319). -/
def Armed.image (a : Armed) : Nat := bytesFld a.desc 0 2 % 64
def Armed.queue (a : Armed) : Nat := bytesFld a.desc 2 1 % 32
def Armed.oneShot (a : Armed) : Bool := bytesFld a.desc 3 1 % 2 == 1
def Armed.bufSize (a : Armed) : Nat := bytesFld a.desc 4 4
def Armed.nbuf (a : Armed) : Nat := bytesFld a.desc 8 1
def Armed.bufVa (a : Armed) : Nat := bytesFld a.desc 16 10
def Armed.bufPa (a : Armed) : Nat := bytesFld a.desc 32 8 % 2 ^ 56

/-- The physical address of a buffer. -/
def Armed.bufAt (a : Armed) (k : Nat) : Nat := a.bufPa + k * a.bufSize

/-- Whether a buffer is held: a launch it was filled for has not ended (R319). -/
def State.bufHeld (s : State) (pa : Nat) : Bool :=
  s.launches.any fun l => match l.task with | .net _ _ p _ _ _ => p == pa | _ => false

/-- The lowest free buffer of an entry. -/
def State.freeBuf (s : State) (a : Armed) : Option Nat := (List.range a.nbuf).find? fun k => !s.bufHeld (a.bufAt k)

/-- The messages whose tick of receipt is over belong to the entry that is armed for their tag then (R278; log 61). -/
def Die.resolve (d : Die) (t : Nat) : Die :=
  let entry (r : Receipt) : Option (Option Armed) :=
    match r.entry with
    | some x => some x
    | none => if r.tick < t then some (d.armed.find? fun a => a.tag == r.msg.tag) else none
  { d with messages := d.messages.map fun (r : Receipt) => { r with entry := entry r } }

/-- The first message that has arrived at an SD for a tag. -/
def Die.firstFor (d : Die) (tag : BitVec 16) : Option Receipt := d.messages.find? fun r => r.msg.tag == tag

/-- A one-shot entry is used up: it leaves the table, and the messages behind it belong to what is armed now (R320). -/
def Die.usedUp (d : Die) (a : Armed) : Die :=
  let left := d.armed.filter fun x => x != a
  let next (r : Receipt) : Receipt :=
    if r.entry = some (some a) then { r with entry := some (left.find? fun x => x.tag == r.msg.tag) } else r
  { d with armed := left, messages := d.messages.map next }

/-- The detail of cause 0x0208 (R403). -/
def unarmedDetail (tag : BitVec 16) (pkg : BitVec 12) (sender : Bool) : Nat :=
  tag.toNat + pkg.toNat * 2 ^ 16 + (if sender then 2 ^ 28 else 0)

/-- A message whose tag no launch is armed for is refused, and recorded (R415). -/
def State.refuseMessage (s : State) (slot : Nat) (m : Message) : State :=
  { s.fault (teamEv s 0 0 0x0208 (unarmedDetail m.tag m.src false) 1 slot) with outbox := s.outbox ++ [.refusal m] }

/-- A message takes a free buffer and fires its armed launch; without a free buffer or room in the queue it waits (R320, R322). -/
def State.fireArmed (s : State) (slot : Nat) (m : Message) (a : Armed) (wait : State) : State :=
  match s.freeBuf a with
  | none => wait
  | some k =>
    if 64 ≤ (s.queued a.queue).length then wait
    else
      let s1 := (s.store (a.bufAt k) m.payload).updDie slot fun d => if a.oneShot then d.usedUp a else d
      let task : Task := .net slot m.tag (a.bufAt k) m.payload.length m.src (a.bufVa + k * a.bufSize)
      { s1 with launches := s1.launches ++ [Launch.fresh s.nextSeq a.image task a.queue s.ptick], nextSeq := s.nextSeq + 1 }

/-- MESSAGE_RECEIPT: the first message for its tag at an SD fires the launch armed for it at its receipt, or waits, or is refused and
recorded (R278, R320, R415). -/
def execMessageReceipt (slot : Nat) (m : Message) (s : State) : Out :=
  let s1 := s.updDie slot fun d => d.resolve s.ptick
  match (s1.die slot).firstFor m.tag with
  | none => .next s
  | some r =>
    let gone := s1.updDie slot fun d => { d with messages := d.messages.erase r }
    if r.msg ≠ m then .next s1
    else match r.entry with
      | none => .next s1
      | some none => .next (gone.refuseMessage slot m)
      | some (some a) => .next (gone.fireArmed slot m a s1)

/-- UNARMED_TAG_REFUSAL_RETURN: the refusal is back at the sender, and recorded against the msend's team, which it stops if it still
runs (R415). -/
def execUnarmedTagRefusalReturn (m : Message) (s : State) : Out :=
  .next (s.fault { teamEv s m.seq m.team 0x0208 (unarmedDetail m.tag m.dst true) 1 36 with after := .stop })

/-! ## Selection (R322, R323) -/

def State.qcfg (s : State) (q : Nat) : Word := s.mgmt.qcfg.getD q qcfgReset
def qEnabled (v : Word) : Bool := v.getLsbD 6
def qPrio (v : Word) : Nat := fld v 0 3
def qPreempt (v : Word) : Bool := v.getLsbD 7
def qPdl (v : Word) : Nat := fld v 32 32

/-- What stands at the head of a queue: a team that was pre-empted, ahead of the tasks (R329), or a task. -/
structure Head where
  prio : Nat
  since : Nat
  queue : Nat
  seq : Nat
  team : Option Nat
  deriving DecidableEq, Repr

def Team.isSaved (t : Team) : Bool := match t.state with | .saved _ _ => true | _ => false

/-- The tick at which a team was enqueued again. -/
def Team.since (t : Team) : Nat := match t.state with | .saved _ n => n | _ => 0

/-- The teams of a queue's launches that wait to resume. -/
def State.savedTeams (s : State) (q : Nat) : List (Launch × Team) :=
  (s.launches.filter fun l => l.queue == q).flatMap fun l => (l.teams.filter Team.isSaved).map fun t => (l, t)

/-- The team enqueued last, each at the head of its queue (R329). -/
def lastEnqueued (ts : List (Launch × Team)) : Option (Launch × Team) :=
  ts.foldl (fun (best : Option (Launch × Team)) p =>
    match best with
    | some b => if p.2.since < b.2.since then best else some p
    | none => some p) none

def State.headOf (s : State) (q : Nat) : Option Head :=
  let v := s.qcfg q
  if !qEnabled v then none
  else match lastEnqueued (s.savedTeams q), s.queued q with
    | some (l, t), _ => some ⟨l.prio, t.since, q, l.seq, some t.index⟩
    | none, l :: _ => some ⟨qPrio v, l.since, q, l.seq, none⟩
    | none, [] => none

/-- The head taken next: highest priority, then longest waiting, then lowest queue (R323). -/
def State.bestHead (s : State) : Option Head :=
  (List.range 32).foldl (fun (best : Option Head) q =>
    match s.headOf q, best with
    | none, b => b
    | some h, none => some h
    | some h, some b => if b.prio < h.prio ∨ (b.prio = h.prio ∧ h.since < b.since) then some h else some b) none

/-- The priorities of the tasks that are selected and wait for dies. -/
def State.waitingPrios (s : State) : List Nat := (s.launches.filter fun l => l.state == .selected).map (·.prio)

/-- TASK_SELECT: the distributor takes a head task; while another waits for dies, only one of higher priority (R323). -/
def execTaskSelect (s : State) : Out :=
  match s.bestHead with
  | none => .next s
  | some h =>
    event s (h.team.isNone && s.waitingPrios.all fun p => decide (p < h.prio))
      (s.updLaunch h.seq fun l => { l with state := .selected, prio := h.prio })

/-! ## Binding (R92, R324) -/

/-- The checks of PARTW (R92). -/
def partwOk (v size : Nat) (vd : Bool) : Bool :=
  let reg := v / 2 ^ 8 % 256
  let scr := v / 2 ^ 16 % 256
  let acc := v / 2 ^ 24 % 256
  let spill := v / 2 ^ 32 % 256
  reg + scr + acc == size && decide ((if vd then 17 else 1) + spill ≤ reg) && (if vd then acc == 0 else decide (16 ≤ acc))

/-- The checks of the hierarchy (R28-R30, R452). -/
def State.hierOk (s : State) (i : Nat) : Bool :=
  let ls := s.levels i
  let doms := ls.map (·.domain)
  decide (1 ≤ s.nlevel i) && decide (s.nlevel i ≤ 8) && decide (1 ≤ s.nldie i) && decide (s.nldie i ≤ 37)
    && ls.all (fun l => decide (1 ≤ l.extent) && decide (l.domain ≤ 6) && decide (l.scope ≤ 6) && decide (naturalScope l.domain ≤ l.scope))
    && (doms.zip doms.tail).all (fun p => decide (p.1 ≤ p.2)) && (ls.filter (·.team)).length == 1
    && (!doms.contains 5 || doms.contains 6)
    && (s.allStreams i).all fun p =>
      let xs := s.streamInstances i (s.strm i p.1 p.2 10 1) (s.strm i p.1 p.2 12 1 % 16) (s.strm i p.1 p.2 11 1 % 32)
      (ls.zip xs).all fun q => decide (q.2 < q.1.extent)

/-- The pinned dies of a launch record other than the HD: logical and physical quadrant. -/
def State.pinnedQuads (s : State) (i : Nat) : List (Nat × Nat) :=
  (((List.range (s.nldie i)).map (s.ldieEntry i)).filter fun e => e.pinned && e.ty != 6).map fun e => (e.quad, s.pinSlot i e.slot / 9)

/-- MIX of a slot: its type and whether it is usable (R12, R13). -/
def State.mixType (s : State) (slot : Nat) : Nat := match s.mix[slot]? with | some b => fld b 0 3 | none => 7

/-- The map's checks (R312, R324). -/
def State.mapOk (s : State) (i : Nat) : Bool :=
  let es := (List.range (s.nldie i)).map (s.ldieEntry i)
  let qs := s.pinnedQuads i
  es.all (fun e => if e.ty = 1 ∨ e.ty = 2 ∨ e.ty = 3 then !e.pinned
      else e.pinned && s.mixType (s.pinSlot i e.slot) == e.ty && !s.slotGone (s.pinSlot i e.slot))
    && qs.all fun p => qs.all fun q => (p.1 == q.1) == (p.2 == q.2)

/-- The status code of a refusal, in the order of R324. A PARTW is checked when the record has a die that takes it. -/
def State.refusal (s : State) (i : Nat) : Option Nat :=
  let has (ty : Nat) : Bool := (List.range (s.nldie i)).any fun n => (s.ldieEntry i n).ty == ty
  if (has 1 && !partwOk (s.lrPartw i .md) 128 false) || (has 2 && !partwOk (s.lrPartw i .vd) 64 true) then some 0x11
  else if !s.hierOk i then some 0x12
  else if !s.mapOk i then some 0x13
  else none

/-- Compute-die types of a logical quadrant of a record, and how many of each it needs. -/
def State.needs (s : State) (i lq ty : Nat) : Nat :=
  ((List.range (s.nldie i)).filter fun n => (s.ldieEntry i n).quad == lq && (s.ldieEntry i n).ty == ty).length

/-- Whether a slot is usable: present or replaced-by-spare in MIX (R13). -/
def State.usable (s : State) (slot : Nat) : Bool := !s.slotGone slot

/-- Whether a slot is free: no other launch holds it, and it takes work now (R324, R346, R422, R439). -/
def State.freeSlot (s : State) (seq slot : Nat) : Bool :=
  (s.die slot).phase == .up && !(s.die slot).hot && !(s.launches.any fun l => l.seq != seq && l.bind.any fun p => p.2 == slot)

/-- The slots of a quadrant that are usable, free by `free`, of a type. -/
def State.slotsOf (s : State) (free : Nat → Bool) (pq ty : Nat) : List Nat :=
  ((List.range 9).map (9 * pq + ·)).filter fun k => s.mixType k == ty && s.usable k && free k

/-- Logical quadrants in use, ascending. -/
def State.quadsUsed (s : State) (i : Nat) : List Nat :=
  (List.range 4).filter fun q => (List.range (s.nldie i)).any fun n => (s.ldieEntry i n).quad == q && (s.ldieEntry i n).ty != 6

/-- The quadrant map (R324): pinned quadrants first, then the others in ascending order. -/
def State.placeQuads (s : State) (i : Nat) (free : Nat → Bool) (map : List (Nat × Nat)) : List Nat → Option (List (Nat × Nat))
  | [] => some map
  | lq :: rest =>
    if map.any fun p => p.1 == lq then State.placeQuads s i free map rest
    else
      let fits (pq : Nat) : Bool := !(map.any fun p => p.2 == pq)
        && ([1, 2, 3] : List Nat).all fun ty => decide (s.needs i lq ty ≤ (s.slotsOf free pq ty).length)
      match (List.range 4).find? fits with
      | none => none
      | some pq => State.placeQuads s i free (map ++ [(lq, pq)]) rest

/-- Slots for the logical dies `ns`: the lowest free usable one of its type not yet taken (R324). -/
def State.placeDies (s : State) (i : Nat) (free : Nat → Bool) (quads : List (Nat × Nat)) : List (Nat × Nat) → List Nat → Option (List (Nat × Nat))
  | taken, [] => some taken
  | taken, n :: ns =>
    let e := s.ldieEntry i n
    if e.pinned then State.placeDies s i free quads (taken ++ [(n, s.pinSlot i e.slot)]) ns
    else if taken.any fun p => p.1 == n then State.placeDies s i free quads taken ns
    else match quads.find? fun p => p.1 == e.quad with
      | none => none
      | some q =>
        match (s.slotsOf free q.2 e.ty).find? fun k => !(taken.any fun p => p.2 == k) with
        | none => none
        | some k => State.placeDies s i free quads (taken ++ [(n, k)]) ns

/-- The placement of a launch record (R324): quadrant map and slots. -/
def State.place (s : State) (i : Nat) (free : Nat → Bool) : Option (List (Nat × Nat) × List (Nat × Nat)) :=
  match s.placeQuads i free (s.pinnedQuads i).eraseDups (s.quadsUsed i) with
  | none => none
  | some qs => (s.placeDies i free qs [] (List.range (s.nldie i))).map fun b => (qs, b)

/-- The engines of BDs and SDs that a launch's streams run on (R325). -/
def State.ioEngines (s : State) (i : Nat) (b : List (Nat × Nat)) : List EngId :=
  ((s.allStreams i).filterMap fun p =>
    let n := s.strm i p.1 p.2 10 1
    let ty := (s.ldieEntry i n).ty
    if ty = 4 ∨ ty = 5 then some (⟨slotIn b n, s.strm i p.1 p.2 12 1 % 16, s.strm i p.1 p.2 11 1 % 32⟩ : EngId) else none).eraseDups

/-! ## What a launch maps (R426, R430, R433) -/

/-- The leaves of a page table from a level on: first entry, number of entries, bytes of each, and physical address. -/
def State.leaves (s : State) (table level : Nat) : Nat → List (Nat × Nat × Nat × Nat)
  | 0 => []
  | n + 1 =>
    let count := if level = 0 then 2 ^ 14 else 512
    (List.range count).flatMap fun i =>
      let at_ := table + 8 * i
      let v := s.pte at_
      if !mapsMemory at_ || !pteValid v then []
      else if pteLeaf v then
        match level, pteSize v with
        | 4, 3 => [(at_, 1, 0x40000000, ptePa v)]
        | 4, 4 => if i % 4 = 0 then [(at_, 4, 0x40000000, ptePa v)] else []
        | 5, 2 => [(at_, 1, 0x200000, ptePa v)]
        | 6, 0 => [(at_, 1, 0x1000, ptePa v)]
        | 6, 1 => if i % 16 = 0 then [(at_, 16, 0x1000, ptePa v)] else []
        | _, _ => []
      else State.leaves s (ptePa v) (level + 1) n

/-- The leaves of an address space (R101). -/
def State.spaceLeaves (s : State) (homeBd asid : Nat) : List (Nat × Nat × Nat × Nat) :=
  match (s.die homeBd).roots.find asid with
  | some root => s.leaves root 0 7
  | none => []

/-- Whether a launch maps a physical address on a slot, in its range list or its page tables. -/
def State.mapsSlot (s : State) (l : Launch) (slot : Nat) : Bool :=
  (s.rangeList l.image 0).any (fun r => paSlot r.pa.toNat == slot)
    || (s.spaceLeaves (s.lrHomeBd l.image) (s.lrAsid l.image)).any fun x => paSlot x.2.2.2 == slot

/-- Whether a launch pins a slot. -/
def State.pins (s : State) (l : Launch) (slot : Nat) : Bool :=
  (List.range (s.nldie l.image)).any fun n => (s.ldieEntry l.image n).pinned && slotIn l.bind n == slot

/-- Whether an evacuation is moving, or short (R429). -/
def evacActive (v : Word) : Bool := fld v 16 4 == 1 || fld v 16 4 == 3

/-- Whether a launch waits at its next course for the evacuation that runs (R430). -/
def State.evacHolds (s : State) (l : Launch) : Bool :=
  let v := s.mgmt.evacctl
  evacActive v && (s.pins l s.mgmt.evacFrom || s.mapsSlot l s.mgmt.evacFrom)

/-! ## Binding a task -/

/-- PARTW of a die's clusters: the record's, with the die's own size (R92, R311). -/
def State.loadPartw (s : State) (i slot : Nat) : Word :=
  let size := clusterSize (clKey slot 0)
  match dieKind slot with
  | some k => if size = 0 then 0 else BitVec.ofNat 64 (s.lrPartw i k / 256 % 2 ^ 32 * 256 + size)
  | none => 0

/-- What a launch puts on a die that it binds: its range list, and PARTW in every cluster (R92, R100). -/
def State.enterDie (s : State) (i slot : Nat) : State :=
  let asid := BitVec.ofNat 16 (s.lrAsid i)
  let s1 := s.updDie slot fun d => { d with ranges := d.ranges.filter (fun r => r.asid != asid) ++ s.rangeList i asid }
  if clusterSize (clKey slot 0) = 0 then s1
  else (List.range 16).foldl (fun (s : State) c => s.updCluster (clKey slot c) fun x => { x with partw := s.loadPartw i slot }) s1

/-- The dies a launch binds are made its own, and the HD takes its range list (R100). -/
def State.enterDies (s : State) (i : Nat) (slots : List Nat) : State := (slots ++ [36]).eraseDups.foldl (fun (s : State) k => s.enterDie i k) s

/-- Whether another launch holds an engine. -/
def State.engineHeld (s : State) (seq : Nat) (id : EngId) : Bool := s.launches.any fun l => l.seq != seq && l.engines.contains id

/-- A refused task: its completion record, and what it holds freed (R317, R324). -/
def State.refuse (s : State) (l : Launch) (code : Nat) : State := (s.report l 0 36 0 code).endLaunch l

/-- TASK_BIND: the launch record is checked and its dies placed, or the task is refused, or waits; it waits for a BD that takes no new
work (R324, R325, R365; log 59). -/
def execTaskBind (seq : Nat) (s : State) : Out :=
  match s.launch seq with
  | none => .next s
  | some l =>
    if l.state ≠ .selected then .next s
    else match s.refusal l.image with
      | some code => .next (s.refuse l code)
      | none =>
        match s.place l.image (s.freeSlot seq), s.place l.image fun _ => true with
        | _, none => .next (s.refuse l 0x10)
        | none, some _ => .next s
        | some (qs, b), some _ =>
          let io := s.ioEngines l.image b
          if io.any (s.engineHeld seq) || b.any fun p => (s.die p.2).barred then .next s
          else
            let l1 := { l with bind := b, quads := qs, engines := io }
            let l' := { l1 with waits := s.evacHolds l1 }
            .next (((s.enterDies l.image (b.map (·.2))).updLaunch seq fun _ => l').enterEntry l' 0)

end Sys2Proof.Machine
end

