-- ==== Sys2Proof/Machine/HostMem.lean ====
section
/-! DEFINITION. Host requests to memory (14 R347, R348, 24 R446, R455): service, poison, completions, and requests held for a
die or a shutter (04 R114, 22 R423). -/

namespace Sys2Proof.Machine

/-! ## TDIs (R348) -/

def State.tdi (s : State) (n : Nat) : Tdi := s.trust.tdis.getD n Tdi.reset
def State.setTdi (s : State) (n : Nat) (t : Tdi) : State := { s with trust := { s.trust with tdis := s.trust.tdis.put n t } }

/-- Virtual functions 1 to 16 are TDIs (R347). -/
def isTdi (n : Nat) : Bool := decide (1 ≤ n) && decide (n ≤ 16)

/-- The master of a host request (R352). -/
def State.hostMaster (s : State) (fn : Nat) : BitVec 16 :=
  if isTdi fn && (s.tdi fn).state == .run then (s.tdi fn).tenant else 0xFFFF

/-! ## Service (R372, R455) -/

/-- A request completes. A posted one has no completion. -/
def State.complete (s : State) (h : HostReq) (how : Completion) (bs : List Byte) : State :=
  if h.posted then s else { s with outbox := s.outbox ++ [.completion h how bs] }

/-- Bytes as the host reads them: those of a poisoned unit are all ones (R455). -/
def State.hostBytes (s : State) (pa n : Nat) : List Byte :=
  (List.range n).zipWith (fun i b => if s.poisoned (pa + i) 1 then 0xFF else b) (s.view .host pa n)

/-- Whether a byte lies in a poisoned unit that a run of bytes does not cover whole. -/
def State.cutUnit (s : State) (pa n a : Nat) : Bool :=
  s.poison.any fun u => decide (u ≤ a) && decide (a < u + unitSize u) && !(decide (pa ≤ u) && decide (u + unitSize u ≤ pa + n))

/-- A host write: the part of it that falls in a poisoned unit it does not cover whole is dropped (R455). -/
def State.hostStore (s : State) (pa : Nat) (bs : List Byte) : State :=
  s.store pa ((List.range bs.length).zipWith (fun i (p : Byte × Byte) => if s.cutUnit pa bs.length (pa + i) then p.1 else p.2)
    ((s.bytes pa bs.length).zip bs))

/-- Serve an admitted request of memory (R455). -/
def State.hostServe (s : State) (h : HostReq) (data : Option (List Byte)) : State :=
  let pa := h.pa.toNat
  match data with
  | none => s.complete h (if s.poisoned pa h.len then .poisoned else .success) (s.hostBytes pa h.len)
  | some bs =>
    let cut := (List.range bs.length).any fun i => s.cutUnit pa bs.length (pa + i)
    (s.hostStore pa bs).complete h (if cut then .abort else .success) []

/-! ## Requests that wait (R114, R423) -/

/-- Whether the die and the cluster of a request take it now, and no key over it is being reloaded (R447). A write waits for a write in
flight that the host sees (R117). -/
def State.hostReady (s : State) (x : HeldReq) : Bool :=
  let pa := x.req.pa.toNat
  s.takes (paSlot pa) && s.shutterOpen pa x.arrived && !s.keyReloads (s.hostMaster x.req.fn) pa
    && !(x.data.isSome && s.accesses.any fun a => s.seen a .host && sharesByte a.rest [(pa, x.req.len)])

/-- A request is served, or answered as one that maps nothing when its slot is gone (R13, R455). -/
def State.hostEnd (s : State) (h : HostReq) (data : Option (List Byte)) : State :=
  if s.slotGone (paSlot h.pa.toNat) then s.complete h .unsupported [] else s.hostServe h data

/-- TDIs whose earlier accesses have all performed enter ERROR (R348). -/
def State.failTdis (s : State) : State :=
  let go (n : Nat) (t : Tdi) : Tdi :=
    if t.failing ∧ !(s.mgmt.hostHeld.any fun x => x.req.fn == n) then { t with state := .error, failing := false } else t
  { s with trust := { s.trust with tdis := s.trust.tdis.map fun (p : Nat × Tdi) => (p.1, go p.1 p.2) } }

/-- A held request performs once its die and cluster take it (R114, R423). It is part of what wakes the cluster or brings the die back, and
no row of the opcode table. -/
def State.serveHeld (s : State) (x : HeldReq) : State :=
  if s.hostReady x then
    ({ s with mgmt := { s.mgmt with hostHeld := s.mgmt.hostHeld.erase x } }.hostEnd x.req x.data).failTdis
  else s

/-- An admitted request of memory: it is served, or held until its die and cluster take it. -/
def State.hostMemory (s : State) (h : HostReq) (data : Option (List Byte)) : State :=
  let x : HeldReq := ⟨h, data, s.ptick⟩
  if s.hostReady x then s.hostEnd h data else { s with mgmt := { s.mgmt with hostHeld := s.mgmt.hostHeld ++ [x] } }

end Sys2Proof.Machine
end

