-- ==== Sys2Proof/Machine/Courses.lean ====
section
/-! DEFINITION. Walking a course list (12 R326, 22 R415), the start of a course (02 R31, R32, 12 R313, R314, R321), and its
rerun (23 R419, R420). -/

namespace Sys2Proof.Machine

/-! ## Course-list faults (R415) -/

/-- The walk of a launch faults: one record, one completion record, and the launch is held for abandon. -/
def State.listFault (s : State) (l : Launch) (reason : Nat) : State :=
  let ev := { teamEv s l.seq (2 ^ 32 - 1) 0x0206 reason 1 36 with after := .report l [(0, clKey 36 0)] 1 }
  (s.fault ev).updLaunch l.seq fun l => { l with state := .heldAnswer false }

/-- A launch whose walk has an entry of a kind to handle now. -/
def State.walker (s : State) (seq kind : Nat) : Option Launch :=
  match s.launch seq with
  | none => none
  | some l =>
    if l.state = .walking ∧ l.due ≤ s.ptick ∧ l.next < s.ncourse l.image ∧ s.entry l.image l.next 0 1 = kind ∧ !l.waits then some l
    else none

/-! ## Control entries (R326) -/

/-- The predicate word of a skip, as the distributor reads it, or none when the read faults (R326, R352). -/
def State.predicate (s : State) (l : Launch) : Option Nat :=
  let va := s.entry l.image l.next 6 10
  if va % 8 ≠ 0 then none
  else match s.launchPa l va rRead with
    | none => none
    | some pa => (s.readHd pa 8).map natOf

/-- COURSE_LIST_SKIP (R326, R415). -/
def execCourseListSkip (seq : Nat) (s : State) : Out :=
  match s.walker seq 2 with
  | none => .next s
  | some l =>
    match s.predicate l with
    | none => .next (s.listFault l 4)
    | some w =>
      let sense := s.entry l.image l.next 1 1 % 2
      let hit := w &&& s.entry l.image l.next 16 8
      let skip := if sense = 0 then hit != 0 else hit == 0
      let goal := l.next + 1 + (if skip then s.entry l.image l.next 4 2 else 0)
      if s.ncourse l.image < goal then .next (s.listFault l 1) else .next (s.enterEntry l goal)

/-- COURSE_LIST_JUMP (R326, R415). -/
def execCourseListJump (seq : Nat) (s : State) : Out :=
  match s.walker seq 3 with
  | none => .next s
  | some l =>
    let goal := s.entry l.image l.next 4 2
    if s.ncourse l.image ≤ goal then .next (s.listFault l 1) else .next (s.enterEntry l goal)

/-- COURSE_LIST_CALL: the return stack has eight levels (R33, R326, R415). -/
def execCourseListCall (seq : Nat) (s : State) : Out :=
  match s.walker seq 4 with
  | none => .next s
  | some l =>
    let goal := s.entry l.image l.next 4 2
    if s.ncourse l.image ≤ goal then .next (s.listFault l 1)
    else if 8 ≤ l.stack.length then .next (s.listFault l 2)
    else
      let l' := { l with stack := (l.next + 1) :: l.stack }
      .next ((s.updLaunch seq fun _ => l').enterEntry l' goal)

/-- COURSE_LIST_RETURN (R326, R415). -/
def execCourseListReturn (seq : Nat) (s : State) : Out :=
  match s.walker seq 5 with
  | none => .next s
  | some l =>
    match l.stack with
    | [] => .next (s.listFault l 3)
    | goal :: rest =>
      let l' := { l with stack := rest }
      .next ((s.updLaunch seq fun _ => l').enterEntry l' goal)

/-- COURSE_LIST_DEADLINE: a span of 0 clears it (R326, R335). -/
def execCourseListDeadline (seq : Nat) (s : State) : Out :=
  match s.walker seq 6 with
  | none => .next s
  | some l =>
    let span := s.entry l.image l.next 8 4
    let l' := { l with span := if span = 0 then none else some (s.ptick, span) }
    .next ((s.updLaunch seq fun _ => l').enterEntry l' (l.next + 1))

/-- COURSE_LIST_NOTIFY: writes a word at system scope, and sends a vector when asked (R326). A word at an address that maps
nothing is not written: the spec names no fault for it (log 21). -/
def execCourseListNotify (seq : Nat) (s : State) : Out :=
  match s.walker seq 7 with
  | none => .next s
  | some l =>
    let f (off n : Nat) : Nat := s.entry l.image l.next off n
    let s1 := match s.launchPa l (f 6 10) rWrite with
      | some pa => s.store pa (bytesOf 8 (f 16 8))
      | none => s
    let s2 := if f 1 1 % 2 = 1 then s1.interrupt (f 24 2) else s1
    .next (s2.enterEntry l (l.next + 1))

/-! ## The start of a course (R31, R32, R313, R314, R321) -/

/-- Whether a slot is a compute die (R10). -/
def computeDie (slot : Nat) : Bool := dieKind slot == some .md || dieKind slot == some .vd || dieKind slot == some .gd

/-- The logical compute dies of a launch with their slots: none of them carries anything from one course to the next (R10). -/
def Launch.computeDies (l : Launch) : List (Nat × Nat) := l.bind.filter fun p => computeDie p.2

/-- The memory of a compute die reads zero (R32). -/
def State.clearDie (s : State) (slot : Nat) : State :=
  match dieKind slot with
  | some .md => s.wipe (paOf slot 0) 0x10000000
  | some .vd => s.wipe (paOf slot 0) 0x10000000
  | some .gd => s.wipe (paOf slot 0) 0x4000000
  | _ => s

/-- A cluster as a course finds it: its clock, its shutter, its table and PARTW stay (R10, R31, R92). -/
def Cluster.forCourse (c : Cluster) (lo hi : Word) : Cluster :=
  { Cluster.reset 0 with
    partw := c.partw, bfmtlo := lo, bfmthi := hi, shutter := c.shutter, closeAsked := c.closeAsked, acc := c.acc, dom := c.dom }

/-- Clear the clusters of a compute die, their banks in the formats of the course. -/
def State.loadClusters (s : State) (l : Launch) (k n slot : Nat) : State :=
  let banks (c : Nat) : Word × Word :=
    match (s.image l.image).banks.find? fun b => b.1 == k && b.2.1 == n * 16 + c with | some b => b.2.2 | none => (0, 0)
  (List.range 16).foldl (fun (s : State) c => s.updCluster (clKey slot c) fun x => x.forCourse (banks c).1 (banks c).2) s

/-- A compute die as a course finds it: memory, clusters or lattice, windows and routes empty (R10, R31, R32, R361). -/
def State.readyDie (s : State) (l : Launch) (k n slot : Nat) : State :=
  let s1 := (s.clearDie slot).updDie slot fun d => { d with wincfg := [], windows := [], route := [], routeFree := [] }
  match dieKind slot with
  | some .md => s1.loadClusters l k n slot
  | some .vd => s1.loadClusters l k n slot
  | some .gd => s1.setLattice slot Lattice.reset
  | _ => s1

/-- The engines of a launch at T0, before its streams are loaded: nothing is left in them, and every channel is at its start (R10, R31,
R109). -/
def State.resetEngines (s : State) (l : Launch) : State :=
  let own (id : EngId) : Bool := l.engines.contains id || l.computeDies.any fun p => p.2 == id.slot
  { s with engines := s.engines.filter fun (p : Nat × Engine) => !own (EngId.ofKey p.1) }

/-- The quadrant's SD of a slot. -/
def sdOf (slot : Nat) : Nat := 9 * (slot / 9) + 8

/-- Modules of an adjacent pair (R21). -/
def pairModules (a b : Nat) : Nat :=
  match dieKind a, dieKind b with
  | some .hd, _ => 4
  | _, some .hd => 4
  | some .md, some .bd => 3
  | some .bd, some .md => 3
  | some .md, _ => 2
  | _, some .md => 2
  | _, _ => 1

/-- The pairs a path crosses (R23). Two MDs meet in a BD that otquel chooses and no register names: both count (log 23). -/
def pathHops (src dst : Nat) : List (Nat × Nat) :=
  let toHd (k : Nat) : List (Nat × Nat) := if dieKind k = some .sd then [(k, 36)] else [(k, sdOf k), (sdOf k, 36)]
  if src = dst then []
  else if src = 36 then toHd dst
  else if dst = 36 then toHd src
  else if src / 9 ≠ dst / 9 then toHd src ++ toHd dst
  else if dieKind src = some .md ∧ dieKind dst = some .md then
    let bd := 9 * (src / 9) + 6
    [(src, bd), (src, bd + 1), (dst, bd), (dst, bd + 1)]
  else [(src, dst)]

/-- The modules of a pair that have been retired (R373). -/
def State.retiredOn (s : State) (a b : Nat) : Nat :=
  ((s.die (min a b)).retired.filter fun p => p.1 / 8 == max a b).length

/-- The modules a route has left of the `m` assigned to it (R23, R373). -/
def State.modulesLeft (s : State) (src dst m : Nat) : Nat :=
  max 1 ((pathHops src dst).foldl (fun n p => min n (pairModules p.1 p.2 - s.retiredOn p.1 p.2)) m)

/-- The bits of WINCFG that are not reserved (R107). -/
def wincfgMask : Word := 0x3FFFFFF007F

/-- The bits of SECPART that are not reserved (R36). -/
def secpartMask : Word := 0x81FF81FF81FF81FF

/-- WINCFG on a window's consumer die and ROUTE on its producer's (R107, R260, R313). -/
def State.routeWindow (s : State) (l : Launch) (k j : Nat) : State :=
  let f (off n : Nat) : Nat := s.winEntry l.image k j off n
  let dst := slotIn l.bind (f 6 1)
  let win := f 7 1 % 64
  let route := 2 ^ 32 + dst * 2 ^ 24 + win * 2 ^ 16 + s.modulesLeft (slotIn l.bind (f 8 1)) dst (f 10 1 % 8) * 2 ^ 8
  (s.updDie dst fun d => { d with wincfg := d.wincfg.put win (BitVec.ofNat 64 (f 0 6) &&& wincfgMask) }).updDie (slotIn l.bind (f 8 1))
    fun d => { d with route := d.route.put (f 9 1 % 64) (BitVec.ofNat 64 route), routeFree := d.routeFree.erase (f 9 1 % 64) }

/-- Load a window entry with its landing memory cleared and its slots empty (R108). -/
def State.loadWindow (s : State) (l : Launch) (k j : Nat) : State :=
  let f (off n : Nat) : Nat := s.winEntry l.image k j off n
  let dst := slotIn l.bind (f 6 1)
  let win := f 7 1 % 64
  ((s.wipe (slotPa dst win 0) 0x80000).updDie dst fun d => { d with windows := d.windows.erase win }).routeWindow l k j

/-- ASPACE of a launch (R88, R311). -/
def State.aspaceOf (s : State) (i : Nat) : Word :=
  BitVec.ofNat 64 (s.lrTenant i * 2 ^ 48 + s.lrAsid i * 2 ^ 32 + s.lrHomeBd i * 2 ^ 24)

/-- The address registers a0 and a1 at T0, and s1 and s2 (R321). -/
def State.taskRegs (s : State) (l : Launch) : Addr × Addr × Word × Word :=
  match l.task with
  | .host f => (BitVec.ofNat 80 (s.frameVa l.image f), 0, 0, 0)
  | .net _ _ _ len src va =>
    (BitVec.ofNat 80 (s.frameVa l.image 0) - BitVec.ofNat 80 (s.paramLen l.image), BitVec.ofNat 80 va, BitVec.ofNat 64 len, src.setWidth 64)

/-- Stream `j` of course entry `k` as bound (R314, R452). -/
def State.streamOf (s : State) (l : Launch) (k j : Nat) : Stream :=
  let f (off n : Nat) : Nat := s.strm l.image k j off n
  let n := f 10 1
  let c := f 12 1 % 16
  let e := f 11 1 % 32
  ⟨j, ⟨slotIn l.bind n, c, e⟩, n, s.teamOf l.image n c e, s.parentOf l.image n c e, f 14 2⟩

/-- An engine at T0; the reserved bits of what it loads read zero (R36, R46, R314, R321). -/
def State.startEngine (s : State) (l : Launch) (k : Nat) (x : Stream) : Engine :=
  let f (off n : Nat) : Nat := s.strm l.image k x.index off n
  let (a0, a1, s1, s2) := s.taskRegs l
  { Engine.reset with
    status := .running
    seq := l.seq
    team := x.team
    ldie := x.ldie
    codeVa := BitVec.ofNat 80 (f 0 10)
    a := (Engine.reset.a.set 0 a0).set 1 a1
    glob := ((Engine.reset.glob.set 0 (BitVec.ofNat 64 l.seq)).set 1 s1).set 2 s2
    strmcfg := BitVec.ofNat 64 (f 24 8 % 2)
    secpart := BitVec.ofNat 64 (f 16 8) &&& secpartMask
    aspace := s.aspaceOf l.image
    nextIssue := (s.dom x.eng.cl).cycleFrom s.ptick
    groups := ((s.image l.image).groups.filter fun g => g.1 == k && g.2.1 == x.index).map fun g =>
      ⟨BitVec.ofNat 32 g.2.2.1, BitVec.ofNat 32 g.2.2.2, false, false⟩ }

/-- The teams of a course, in the order of their streams (R30). -/
def teamsOf (xs : List Stream) : List Team :=
  ((xs.map fun x => (x.team, x.parent)).eraseDups).map fun p => ⟨p.1, p.2, .running, [], none, false⟩

/-- A gauge with its domains bound (R313). -/
def Launch.gauge (l : Launch) (v : Nat) : Gauge :=
  let dom (d : Nat) : Nat := clKey (slotIn l.bind (d / 256)) (d % 16)
  ⟨dom (v % 65536), dom (v / 65536 % 65536), v / 2 ^ 32 % 65536, v / 2 ^ 48⟩

/-- Write the initial images of a course, each where its logical die is bound (R32; log 19). -/
def State.loadInits (s : State) (l : Launch) (k : Nat) : State :=
  ((s.image l.image).inits.filter fun x => x.1 == k).foldl (fun (s : State) x => s.store (paOf (slotIn l.bind x.2.1) x.2.2.1) x.2.2.2) s

/-- Writes of shape entries that have waited are applied when no course runs (R104). -/
def State.applyShapes (s : State) : State :=
  if s.launches.any fun l => l.state == .inCourse then s
  else
    let s1 := s.mgmt.shapePend.foldl (fun (s : State) x => s.store (s.shapePa x.1) x.2) s
    { s1 with mgmt := { s1.mgmt with shapePend := [] } }

/-- The save areas of a launch with those of its teams: each reserved at binding keeps its place (R418). -/
def Launch.withAreas (l : Launch) (ts : List Team) : AMap (Nat × Nat) :=
  ts.foldl (fun (m : AMap (Nat × Nat)) t => if (m.find t.index).isSome then m else m.put t.index (Config.saveArea l.seq t.index)) l.areas

/-- The package at T0 of course entry `k` of a launch. -/
def State.startCourse (s : State) (l : Launch) (k : Nat) : State :=
  let s1 := l.computeDies.foldl (fun (s : State) p => s.readyDie l k p.1 p.2) (s.resetEngines l)
  let s2 := (List.range (s.nwin l.image k)).foldl (fun (s : State) j => s.loadWindow l k j) (s1.loadInits l k)
  let xs := (List.range (s.nstrm l.image k)).map (s.streamOf l k)
  let s3 := xs.foldl (fun (s : State) x =>
    (s.setEng x.eng (s.startEngine l k x)).updCluster x.eng.cl fun c => { c with shutter := .opened, closeAsked := false }) s2
  s3.updLaunch l.seq fun l => { l with
    state := .inCourse
    course := k
    next := k + 1
    t0 := s.ptick
    deadline := s.ptick + s.entry l.image k 8 4
    streams := xs
    teams := teamsOf xs
    areas := l.withAreas (teamsOf xs)
    gauges := (List.range (s.ngauge l.image k)).map fun j => l.gauge (s.gaugeRec l.image k j)
    risk := 0
    missed := []
    checkDl := true
    rstcfg := (s.image l.image).rstcfg
    dlact := (s.image l.image).dlact }

/-- COURSE_START: a course entry starts at T0, once its dies take work (R31-R33, R326). -/
def execCourseStart (seq : Nat) (s : State) : Out :=
  match s.walker seq 1 with
  | none => .next s
  | some l => event s (l.bind.all fun p => s.dieUp p.2) (s.applyShapes.startCourse l l.next)

/-! ## Rerun (R419, R420) -/

/-- The BD slots a launch pins. -/
def State.pinnedBds (s : State) (l : Launch) : List Nat :=
  ((List.range (s.nldie l.image)).filter fun n => (s.ldieEntry l.image n).ty == 4).map (slotIn l.bind)

/-- The restart set of a launch: enabled, and its number (R419). -/
def Launch.restores (l : Launch) : Bool := l.rstcfg.getLsbD 16
def Launch.restartSet (l : Launch) : Nat := fld l.rstcfg 0 8

/-- The extents to write back on a BD: those of a generation sealed at or after T0 (R420). -/
def State.restoreExtents (s : State) (l : Launch) (slot : Nat) : List (Nat × List Byte) :=
  match ((s.die slot).ckSet l.restartSet).current with
  | some g => if l.t0 ≤ g.sealTick then g.extents else []
  | none => []

/-- Write a BD's restart set back, and drop what it was building (R420). -/
def State.restoreBd (s : State) (l : Launch) (slot : Nat) : State :=
  let s1 := (s.restoreExtents l slot).foldl (fun (s : State) x => s.store x.1 x.2) s
  let k := (s1.die slot).ckSet l.restartSet
  s1.updDie slot fun d => { d with ckpt := d.ckpt.put l.restartSet { k with building := none } }

/-- The ticks a restore takes: 256 bytes a tick on each BD at once (R420). -/
def State.restoreTicks (s : State) (l : Launch) : Nat :=
  ((s.pinnedBds l).map fun b => ceilDiv ((s.restoreExtents l b).map fun x => x.2.length).sum 256).foldl max 0

/-- Partials of a launch's engines are discarded (R420). -/
def State.dropPartials (s : State) (l : Launch) : State :=
  let mine (p : Partial) : Bool := l.streams.any fun x => x.eng == p.src
  { s with dies := s.dies.map fun (p : Nat × Die) => (p.1, { p.2 with partials := p.2.partials.filter fun x => !mine x }) }

/-- Whether a slot a launch is bound to is lost. -/
def State.lostSlot (s : State) (l : Launch) : Bool := l.bind.any fun p => s.slotGone p.2

/-- The binding of a launch with the logical dies it has released placed again, in its quadrant map (R324, R329). -/
def State.fullBind (s : State) (l : Launch) : Option (List (Nat × Nat)) :=
  let missing := (List.range (s.nldie l.image)).filter fun n => !(l.bind.any fun p => p.1 == n)
  s.placeDies l.image (s.freeSlot l.seq) l.quads l.bind missing

/-- COURSE_RERUN: the restart set is written back, and the course starts again at a new T0 on dies it holds, or binds again
where a pre-empted team had released them (R420). -/
def execCourseRerun (seq : Nat) (s : State) : Out :=
  match s.launch seq with
  | none => .next s
  | some l =>
    match s.fullBind l with
    | none => .next s
    | some b =>
      let restored := if l.restores then (s.pinnedBds l).foldl (fun (s : State) b => s.restoreBd l b) (s.dropPartials l) else s.dropPartials l
      let w := if l.restores then s.restoreTicks l else 0
      event s (l.state == .rerun && !s.lostSlot l)
        ((((restored.idle l).unloadWindows l).enterDies l.image ((b.filter fun p => !l.bind.contains p).map (·.2))).updLaunch seq fun l =>
          { l with state := .walking, bind := b, next := l.course, due := s.ptick + w, streams := [], teams := [], gauges := [] })

end Sys2Proof.Machine
end

