-- ==== Sys2Proof/Machine/Shutter.lean ====
section
/-! DEFINITION. Shutters: closing, gating and waking a cluster (04 R114). -/

namespace Sys2Proof.Machine

/-- Whether a request that arrived from a tick on waits for a cluster's pool. -/
def State.arrivedAt (s : State) (cl from_ : Nat) : Bool :=
  let at_ (pa : Nat) : Bool := match placeOf pa with | .pool slot c _ => clKey slot c == cl | _ => false
  let came (t : Nat) : Bool := decide (from_ ≤ t) && decide (t ≤ s.ptick)
  (s.accesses.any fun a => came a.due && !a.merged && a.rest.any fun p => at_ p.1)
    || (s.crossings.any fun x => came x.due && x.ret.isNone && at_ x.entry.pa)
    || (s.engines.any fun p => p.2.transfers.any fun t => came t.due &&
      match s.remains (EngId.ofKey p.1) p.2 t with
      | some (r, w) => (r ++ w).any fun q => at_ q.1
      | none => false)
    || (s.mgmt.hostHeld.any fun x => came x.arrived && at_ x.req.pa.toNat)
    || s.dies.any fun p => (s.latticeWants p.1).any fun q => at_ q.1

/-- SHUTTER_OFF: the inbound queue of a closing cluster is empty; a close asked for while it woke takes effect once its
held requests have performed (R114). -/
def execShutterOff (cl : Nat) (s : State) : Out :=
  let k := s.cluster cl
  let closes : Bool := match k.shutter with | .closing _ => true | .opened => k.closeAsked | _ => false
  event s (closes && !s.arrivedAt cl 0) (s.setCluster cl { k with shutter := .off, closeAsked := false })

/-- SHUTTER_WAKE_START: a request has arrived at a gated cluster, or at one that closes since it began to (R114). -/
def execShutterWakeStart (cl : Nat) (s : State) : Out :=
  let k := s.cluster cl
  let shut : Option Nat := match k.shutter with | .closing t => some t | .off => some 0 | _ => none
  event s (s.dieUp (cl / 16) && match shut with | some t => s.arrivedAt cl t | none => false)
    (s.setCluster cl { k with shutter := .waking (s.ptick + 2400) })

/-- A domain changes its point: its first cycle at the new one begins at tick `t`, a multiple of 12 (R332, R451). -/
def Domain.switchAt (d : Domain) (t op : Nat) : Domain := { d with op := op, refTick := t, refCycle := d.cycleFrom t }

/-- SHUTTER_WAKE_COMPLETE: 2,400 ticks later the cluster is open, at OP0, and its held requests perform in the order of their arrival (R114, R331). -/
def execShutterWakeComplete (cl : Nat) (s : State) : Out :=
  let k := s.cluster cl
  match k.shutter with
  | .waking t =>
    event s (decide (t ≤ s.ptick)) (s.setCluster cl { k with shutter := .opened, dom := k.dom.switchAt (s.ptick / 12 * 12) 0 })
  | _ => .next s

end Sys2Proof.Machine
end

