-- ==== Sys2Proof/Machine/Governor.lean ====
section
/-! DEFINITION. The governor (13 R331-R345, 24 R443, R444): cost tables and progress, deadlines, the decision rule, the cap, the
clock switch, byte grants, and the writes of its cap. -/

namespace Sys2Proof.Machine

/-! ## Cost tables and progress (R333, R334) -/

/-- The cycle count of a section of a stream at a point, by the cost table of a course (R333). -/
def State.cyc (s : State) (i k strm sec op : Nat) : Nat :=
  let base := s.course i k 28 4
  let f (j off n : Nat) : Nat := s.img i (base + 8 + 40 * j + off) n
  match (List.range (s.img i base 4)).find? fun j => f j 34 2 == strm && f j 32 2 == sec with
  | some j => f j (4 * op) 4
  | none => 0

/-- The counts of a stream's sections past `h` at a point. -/
def State.cycLater (s : State) (i k strm h op : Nat) : Nat :=
  let base := s.course i k 28 4
  let f (j off n : Nat) : Nat := s.img i (base + 8 + 40 * j + off) n
  (((List.range (s.img i base 4)).filter fun j => f j 34 2 == strm && decide (h < f j 32 2)).map fun j => f j (4 * op) 4).sum

/-- PROG: cycles since the section's header passed, but those in which the engine stood stopped (R334). -/
def State.prog (s : State) (id : EngId) (e : Engine) : Nat :=
  min (e.progBase + ((if e.standing then e.nextIssue else s.cycleNow id.cl) - e.hdrCycle)) (2 ^ 32 - 1)

/-- Cycles left in a stream's current section at a point. -/
def State.remSection (s : State) (l : Launch) (x : Stream) (op : Nat) : Nat :=
  let e := s.eng x.eng
  if e.secNum = 0 then 0 else s.cyc l.image l.course x.index e.secNum.toNat op - s.prog x.eng e

/-- rem(op) of a stream (R334). -/
def State.rem (s : State) (l : Launch) (x : Stream) (op : Nat) : Nat :=
  let e := s.eng x.eng
  if e.notifies then 0 else s.remSection l x op + s.cycLater l.image l.course x.index e.secNum.toNat op

/-! ## Domains and deadlines (R331, R335) -/

/-- The streams of running courses, each with its launch, in ascending launch_seq order. -/
def State.runningStreams (s : State) : List (Launch × Stream) :=
  (s.launches.filter fun l => l.state == .inCourse).flatMap fun l => l.streams.map fun x => (l, x)

/-- The streams of a domain short of their notify. -/
def State.domStreams (s : State) (d : Nat) : List (Launch × Stream) :=
  s.runningStreams.filter fun p => p.2.eng.cl == d && !(s.eng p.2.eng).notifies && (s.eng p.2.eng).status != .off

/-- The domains with a stream in a running course. -/
def State.streamDoms (s : State) : List Nat := (s.runningStreams.map fun p => p.2.eng.cl).eraseDups

/-- The domains that run streams (R331). Those of a die that has reached 105 °C stay at OP0 until it has cooled (R346). -/
def State.runningDoms (s : State) : List Nat := s.streamDoms.filter fun d => !(s.domStreams d).isEmpty && !(s.die (d / 16)).hot

/-- A deadline that applies to a stream's domain, and the cycles it counts at each point (R335, R336). -/
structure Due where
  tick : Nat
  rem : Nat → Nat

/-- The deadline of a launch's course: its own, and the span that stood at its start (R335). -/
def Launch.courseDue (l : Launch) : Nat :=
  match l.span with
  | some (h, n) => min l.deadline (h + n)
  | none => l.deadline

/-- The deadline that a stream has declared and that has not lapsed, and what is left of the section it binds (R194, R335, R336). -/
def State.declared (s : State) (l : Launch) (x : Stream) : Option Due :=
  let e := s.eng x.eng
  e.deadl.map fun d => ⟨d.tick, fun op => if e.secNum = d.secNum ∧ !e.notifies then s.remSection l x op else 0⟩

/-- The deadlines of a domain: its courses', and those that its streams have declared, at their notify too (R335). -/
def State.dues (s : State) (d : Nat) : List Due :=
  let course (p : Launch × Stream) : Due := ⟨p.1.courseDue, fun op => ((s.domStreams d).map fun q => s.rem q.1 q.2 op).foldl max 0⟩
  (s.domStreams d).map course
    ++ (s.runningStreams.filter fun p => p.2.eng.cl == d && (s.eng p.2.eng).status != .off).filterMap fun p => s.declared p.1 p.2

/-- The least of the deadlines that apply to a domain (R335). -/
def State.domDue (s : State) (d : Nat) : Due :=
  (s.dues d).foldl (fun (m : Due) x => if x.tick < m.tick then x else m) ((s.dues d).headD ⟨0, fun _ => 0⟩)

/-! ## Estimates (R336) -/

/-- Ten times the frequency of a point in GHz (R331). -/
def freq10 (op : Nat) : Nat := 5 + op

/-- The converter ratio of a point (R331). -/
def ratioOf (op : Nat) : Nat := if op < 3 then 0 else if op < 6 then 1 else 2

/-- The first tick at or after `t` that is a multiple of 12 (R332). -/
def switchTick (t : Nat) : Nat := ceilDiv t 12 * 12

/-- The finishing tick of `r` cycles at point `o` moved to `n` at `sw`, evaluated at `e` (R336). -/
def finish' (e sw o n r : Nat) : Nat :=
  if n = o then e + ceilDiv (r * 12) (freq10 o)
  else sw + ceilDiv ((r - (sw - e) * freq10 o / 12) * 12) (freq10 n)

/-- An assignment: the point of each domain. -/
abbrev Assign := AMap Nat

def Assign.at_ (a : Assign) (d : Nat) : Nat := AMap.getD a d 0

/-- fin(d, n) (R336). -/
def State.fin (s : State) (sw d n : Nat) : Nat := finish' s.ptick sw (s.dom d).op n ((s.domDue d).rem n)

/-- The lowest point that meets a domain's target, or 7 (R337). -/
def State.wanted (s : State) (sw d : Nat) : Nat :=
  let target := (s.domDue d).tick - fld s.gov.govcfg 32 32
  ((List.range 8).find? fun n => decide (s.fin sw d n ≤ target)).getD 7

/-! ## Gauges (R41, R337, R338, R443) -/

/-- The gauges of running courses, in order, but those a domain of which has no stream short of its notify (R443). -/
def State.liveGauges (s : State) : List Gauge :=
  let live := s.runningDoms
  ((s.launches.filter fun l => l.state == .inCourse).flatMap (·.gauges)).filter fun g => live.contains g.prod && live.contains g.cons

def Gauge.slow (g : Gauge) (p c : Nat) : Bool := decide (4096 * freq10 p < g.lo * freq10 c)
def Gauge.inside (g : Gauge) (p c : Nat) : Bool := !g.slow p c && decide (4096 * freq10 p ≤ g.hi * freq10 c)

/-- One round of the gauge loop (R337). -/
def Gauge.repair (g : Gauge) (a : Assign) : Assign :=
  let p := a.at_ g.prod
  let c := a.at_ g.cons
  let above (n : Nat) : List Nat := (List.range 8).filter fun m => decide (n < m)
  if g.slow p c then
    match (above p).find? fun n => g.inside n c with
    | some n => a.put g.prod n
    | none => a.put g.cons (min 7 (c + 1))
  else
    match (above c).find? fun n => g.inside p n with
    | some n => a.put g.cons n
    | none => a.put g.prod (min 7 (p + 1))

def repairAll (gs : List Gauge) : Nat → Assign → Assign
  | 0, a => a
  | n + 1, a =>
    match gs.find? fun g => !g.inside (a.at_ g.prod) (a.at_ g.cons) with
    | none => a
    | some g => repairAll gs n (g.repair a)

/-- The assignment for a switch tick: targets, then gauges (R337). With the governor off, every running domain is at OP7
(R342). -/
def State.assign (s : State) (sw : Nat) : Assign :=
  let ds := s.runningDoms
  let first : Assign := ds.foldl (fun (a : Assign) d => a.put d (if s.gov.govcfg.getLsbD 0 then s.wanted sw d else 7)) []
  repairAll s.liveGauges (8 * ds.length + 1) first

/-- Whether any domain rises to a higher ratio under an assignment (R332). -/
def State.rises (s : State) (a : Assign) : Bool := a.any fun p => decide (ratioOf (s.dom p.1).op < ratioOf p.2)

/-- The switch tick of an evaluation (R332). -/
def State.switchFor (s : State) (a : Assign) : Nat := if s.rises a then switchTick (s.ptick + 1200) else switchTick (s.ptick + 60)

/-- The assignment before the cap (R337). -/
def State.decided (s : State) : Assign :=
  let a := s.assign (switchTick (s.ptick + 60))
  if s.rises a then s.assign (switchTick (s.ptick + 1200)) else a

/-! ## The package cap (R339, R341, R344) -/

/-- Every governed domain of the package's dies. -/
def State.governed (s : State) : List Nat :=
  (List.range 36).flatMap fun slot =>
    if s.slotGone slot then []
    else match dieKind slot with
      | some .md => (List.range 16).map (clKey slot)
      | some .vd => (List.range 16).map (clKey slot)
      | some _ => [clKey slot 0]
      | none => []

/-- EPARAM of a slot's kind (R341). -/
def State.eparamOf (s : State) (slot : Nat) : Word :=
  match dieKind slot with
  | some k => s.gov.eparam.getD (DieKind.code k) 0
  | none => 0

/-- 2,250 times P_dom in milliwatts: the squared voltage ratio in 225ths, the frequency in tenths (R339). -/
def domPower (ecyc op : Nat) : Nat := ecyc * (if op < 3 then 100 else if op < 6 then 144 else 225) * freq10 op

/-- 2,250 times P_mem in milliwatts (R339). -/
def State.memPower (s : State) (a : Assign) : Nat :=
  let doms := ((s.governed).map fun d => domPower (fld (s.eparamOf (d / 16)) 32 32) (a.at_ d)).sum
  let fixed := ((List.range 37).map fun k => if s.slotGone k then 0 else fld (s.eparamOf k) 0 32).sum
  2250 * 1000 * fld s.gov.pcap 0 16 - doms - 2250 * fixed

/-- floor(16,000 × P_mem / (EBYTE × n)) (R344). -/
def State.rawGrant (s : State) (a : Assign) (n : Nat) : Nat := 16000 * s.memPower a / (2250 * fld s.gov.ebyte 0 16 * n)

/-- Every point of an assignment lowered to a ceiling. -/
def Assign.capped (a : Assign) (c : Nat) : Assign := a.map fun p => (p.1, min p.2 c)

/-- The ceiling of R339: the first from 7 downwards at which the grants meet their floor, or 0. -/
def State.ceiling (s : State) (a : Assign) (n : Nat) : Nat :=
  ((List.range 8).reverse.find? fun c => decide (65536 ≤ s.rawGrant (a.capped c) n)).getD 0

/-! ## Risk (R340) -/

/-- The reasons a domain puts its deadline at risk: OP7 too slow; and met before the cap but not after it. -/
def State.riskOf (s : State) (before after : Assign) (d : Nat) : BitVec 2 :=
  let due := (s.domDue d).tick
  let sw := s.switchFor after
  let short := decide (due < finish' s.ptick s.ptick (s.dom d).op 7 ((s.domDue d).rem 7))
  let bound := decide (due < s.fin sw d (after.at_ d)) && decide (s.fin sw d (before.at_ d) ≤ due)
  (if short then 1 else 0) ||| (if bound then 2 else 0)

/-- Raise what is new for a course: DRISK, and the vector once for each reason (R340, R343). -/
def State.raiseRisk (s : State) (l : Launch) (r : BitVec 2) : State :=
  let new := r &&& ~~~l.risk
  if new = 0 then s
  else
    let drisk := BitVec.ofNat 64 (l.seq % 2 ^ 40 * 2 ^ 24 + l.course % 2 ^ 16 * 2 ^ 8 + (fld s.gov.drisk 0 2 ||| new.toNat))
    let s1 := { s with gov := { s.gov with drisk := drisk } }.updLaunch l.seq fun l => { l with risk := l.risk ||| new }
    if s.gov.govcfg.getLsbD 1 then s1.interrupt (fld s.gov.govcfg 8 16) else s1

def State.raiseRisks (s : State) (before after : Assign) : State :=
  (s.launches.filter fun l => l.state == .inCourse).foldl (fun (t : State) l =>
    let ds := (l.streams.map fun x => x.eng.cl).eraseDups.filter s.runningDoms.contains
    t.raiseRisk l (ds.foldl (fun (r : BitVec 2) d => r ||| s.riskOf before after d) 0)) s

/-! ## Power measured (R444) -/

def govCeil (g : Gov) : Nat := fld g.pstat 32 3

/-- PSTAT after a measurement of `w` watts: the breach bit, and the ceiling one step down or up. -/
def Gov.measure (g : Gov) (w : Nat) : Gov :=
  let cap := fld g.pcap 0 16
  let c := if cap < w then govCeil g - 1 else if 20 * w ≤ 19 * cap then min 7 (govCeil g + 1) else govCeil g
  { g with pstat := BitVec.ofNat 64 (w % 2 ^ 16 * 2 ^ 48 + c * 2 ^ 32 + fld g.pstat 1 1 * 2 + (if cap < w ∨ g.pstat.getLsbD 0 then 1 else 0)) }

/-! ## The evaluation -/

/-- Whether the governor closes a cluster's shutter: one that runs no stream of a course, when it chooses to (R114; log 4). -/
def State.closeIdle (s : State) : State :=
  ((s.governed).filter fun d => clusterSize d != 0 && !s.streamDoms.contains d && (s.die (d / 16)).phase == .up).foldl (fun (s : State) d =>
    let (k, s) := s.draw
    if !Config.coin k then s
    else s.updCluster d fun c =>
      match c.shutter with
      | .opened => { c with shutter := .closing s.ptick }
      | .waking _ => { c with closeAsked := true }
      | _ => c) s

/-- Set out for an assignment: every domain that changes point switches at one tick (R332); grants apply from the interval
after it, on the domains that run streams (R344). -/
def State.setPoints (s : State) (a : Assign) (g : Nat) : State :=
  let sw := s.switchFor a
  let lowers := s.governed.any fun d => decide (ratioOf (a.at_ d) < ratioOf (s.dom d).op)
  let ends := if lowers then sw + 1200 else sw
  let aim (d : Nat) (c : Cluster) : Cluster :=
    let n := AMap.getD a d 0
    let running := (AMap.find a d).isSome
    let dom : Domain := { c.dom with
      next := if n = c.dom.op then none else some (sw, n)
      transitEnd := if n = c.dom.op then c.dom.transitEnd else ends
      nextGrant := if running then some (sw + 1, g) else c.dom.nextGrant }
    { c with dom := dom }
  s.governed.foldl (fun (s : State) d =>
    if AMap.getD a d 0 = (s.dom d).op ∧ (s.dom d).next = none ∧ (AMap.find a d).isNone then s
    else s.updCluster d (aim d)) s

/-- The floor bit (R444). -/
def Gov.noteFloor (g : Gov) (floored : Bool) : Gov :=
  if govCeil g = 0 ∧ floored ∧ g.pstat.getLsbD 0 ∧ fld g.pcap 0 16 < fld g.pstat 48 16 then { g with pstat := g.pstat ||| 2 } else g

/-- Whether an evaluation is due: at every multiple of 2,400 ticks, and at the T0 of a course (R337). -/
def State.evaluates (s : State) : Bool :=
  s.gov.lastEval != some s.ptick
    && (s.ptick % 2400 == 0 || s.launches.any fun l => l.state == .inCourse && l.t0 == s.ptick)

/-- The state after an evaluation at this tick (R337, R339, R340, R344, R444). -/
def State.evaluate (s : State) : State :=
  let before := s.decided
  let n := s.runningDoms.length
  let (k, s1) := s.draw
  let gov := s1.gov.measure (Config.watts k).toNat
  let cap1 := if n = 0 then before else before.capped (s.ceiling before n)
  let after := cap1.capped (govCeil gov)
  let raw := if n = 0 then 0 else s.rawGrant after n
  let g := if n = 0 then 0 else max raw 65536
  let s2 := { s1 with gov := { gov.noteFloor (n != 0 && decide (raw ≤ 65536)) with lastEval := some s.ptick } }
  ((s2.raiseRisks before after).setPoints after g).closeIdle

/-- GOVERNOR_EVALUATION (R337). -/
def execGovernorEvaluation (s : State) : Out := event s s.evaluates s.evaluate

/-- The domains whose switch is due. -/
def Domain.switches (d : Domain) (t : Nat) : Bool := match d.next with | some (sw, _) => decide (sw ≤ t) | none => false

/-- CLOCK_SWITCH: every domain that changes point switches its clock at T_sw (R332, R451). -/
def execClockSwitch (s : State) : Out :=
  let go (c : Cluster) : Cluster :=
    match c.dom.next with
    | some (sw, n) => if sw ≤ s.ptick then { c with dom := { c.dom.switchAt sw n with next := none } } else c
    | none => c
  event s (s.clusters.any fun p => p.2.dom.switches s.ptick)
    { s with clusters := s.clusters.map fun (p : Nat × Cluster) => (p.1, go p.2) }

/-- Whether a transition is over (R332). -/
def Domain.settles (d : Domain) (t : Nat) : Bool := decide (d.transitEnd ≠ 0) && decide (d.transitEnd ≤ t)

/-- TRANSIT_END: the lowered ratios have settled and transit clears (R332, R343). -/
def execTransitEnd (s : State) : Out :=
  let go (c : Cluster) : Cluster := if c.dom.settles s.ptick then { c with dom := { c.dom with transitEnd := 0 } } else c
  event s (s.clusters.any fun p => p.2.dom.settles s.ptick)
    { s with clusters := s.clusters.map fun (p : Nat × Cluster) => (p.1, go p.2) }

/-- The cap a write stores (R342). -/
def capOf (v : Word) : Word := BitVec.ofNat 64 (max 1000 (min 8400 (fld v 0 16)))

/-- PCAP_WRITE (R342). -/
def execPcapWrite (v : Word) (s : State) : Out := .next { s with gov := { s.gov with pcap := capOf v } }

/-- DOMOP of a domain (R343). -/
def State.domop (s : State) (d : Nat) : Word :=
  let c := s.cluster d
  let gated : Bool := match c.shutter with | .off => true | .closing _ => true | _ => false
  BitVec.ofNat 64 (min c.dom.grant (2 ^ 32 - 1) * 2 ^ 32 + (if c.dom.transitEnd ≠ 0 then 16 else 0) + (if gated then 8 else 0) + c.dom.op)

end Sys2Proof.Machine
end

