-- ==== Sys2Proof/Machine/Preempt.lean ====
section
/-! DEFINITION. Pre-emption: the estimator (02 R60, R61), requests (12 R327-R330), the end of a stop and resumption (R62,
R329, 22 R418), the distributor's own requests (R328), and the soft thermal threshold (13 R346). -/

namespace Sys2Proof.Machine

/-! ## The cost estimator (R61) -/

/-- Ticks an engine of a stream still needs for its section, for T_drain. The spec names no rounding: up (log 22). -/
def State.drainTicks (s : State) (l : Launch) (x : Stream) : Nat :=
  let e := s.eng x.eng
  let op := (s.dom x.eng.cl).op
  if e.notifies then 0 else ceilDiv (s.remSection l x op * 12) (perTwelve op)

/-- The streams of a team. -/
def Launch.streamsOf (l : Launch) (team : Nat) : List Stream := l.streams.filter fun x => x.team == team

/-- The earliest begin mark among a team's open regions. -/
def State.firstMark (s : State) (l : Launch) (team : Nat) : Option Nat :=
  ((l.engsOf team).filterMap fun id => (s.eng id).region.map (·.tick)).min?

/-- The estimate for a team, its action and reason not yet chosen. -/
def State.estimate (s : State) (l : Launch) (team : Nat) : Estimate × State :=
  let (k, s1) := s.draw
  let b := Config.saveBytes true k
  let bd := Config.saveBytes false k
  let lost := match s.firstMark l team with | some t => s.ptick - t | none => 0
  let (n, s2) := s1.lat
  (⟨s.ptick, s.ptick + n, ((l.streamsOf team).map fun x => s.drainTicks l x).foldl max 0, ceilDiv b 256 + 600, 100, lost, b, bd, 0, false⟩, s2)

def Estimate.tSd (e : Estimate) : Nat := ceilDiv e.bd 256 + 600

/-- The stop time of an action (R61). -/
def Estimate.stopTime (e : Estimate) (action : Nat) : Nat :=
  match action with
  | 1 => e.tDrain + e.tSd
  | 2 => e.tSave
  | _ => e.tDisc

/-- The cost of an action (R61). -/
def Estimate.cost (e : Estimate) (action : Nat) : Nat :=
  match action with
  | 1 => e.tDrain + 2 * e.tSd
  | 2 => 2 * e.tSave
  | _ => e.tDisc + e.lost

/-- The first of a list of actions with the least measure. -/
def leastBy (f : Nat → Nat) : List Nat → Nat
  | [] => 0
  | [a] => a
  | a :: b :: rest => let m := leastBy f (b :: rest); if f a ≤ f m then a else m

/-- The estimator's choice among the eligible actions, and its reason: 0 least cost, 3 least stop time (R61, R330). A save is
always eligible; a drain unless an engine stands at brk (R385). -/
def Estimate.choose (e : Estimate) (drain discard : Bool) (deadline : Nat) : Nat × Nat :=
  let all_ : List Nat := (if drain then [1] else []) ++ [2] ++ if discard then [3] else []
  let quick := all_.filter fun a => decide (e.stopTime a ≤ deadline)
  if quick.isEmpty then (leastBy e.stopTime all_, 3) else (leastBy e.cost quick, 0)

/-- The action taken on a request, and the reason its record gives (R327, R330). -/
def Estimate.decide_ (e : Estimate) (drain discard : Bool) (asked deadline : Nat) : Nat × Nat :=
  if (asked = 1 ∧ drain) ∨ asked = 2 ∨ (asked = 3 ∧ discard) then (asked, 1)
  else
    let (a, r) := e.choose drain discard deadline
    (a, if asked = 3 then 2 else r)

/-! ## Requests (R327, R329) -/

/-- An engine stops at once for a save or a discard: results that land before its next issue have landed, and the matrix updates in
flight are complete (R48, R60). -/
def Engine.pause (e : Engine) (c : Nat) : Engine :=
  let c0 := max c e.nextIssue
  let e' := { e.settle c0 with nextIssue := c0, zLand := Vector.replicate 8 0, mtxUntil := 0 }
  match e.status with
  | .running => { e' with status := .paused none }
  | .blocked why since => { e' with status := .paused (some (why, c0)), fbNow := countWait e.fbNow why (c0 - since) }
  | _ => e

/-- The engines of a team stop for a save or a discard; a drain lets them run to their headers (R60). -/
def State.pauseTeam (s : State) (l : Launch) (team action : Nat) : State :=
  if action = 1 then s
  else (l.engsOf team).foldl (fun (s : State) id => s.updEng id fun e => e.pause ((s.dom id.cl).cycleFrom s.ptick)) s

/-- Whether a fault of a team waits for the fault stop of this tick (R418). -/
def State.teamFaulting (s : State) (seq team : Nat) : Bool := s.faults.any fun f => f.after == .stop && f.seq == seq && f.team == team

/-- The reason a request has no other effect than its record: 5 already stopping, 6 not running (R329, R418). -/
def State.noPreempt (s : State) (q : PreReq) : Option Nat :=
  match s.launch q.seq with
  | none => some 6
  | some l =>
    match l.teamState q.team with
    | some .running =>
      if l.state != .inCourse || (l.groupsOf q.team).all (fun g => l.hasFired (q.team, g)) then some 6
      else if s.teamFaulting q.seq q.team then some 5 else none
    | some (.saved _ _) => some 6
    | some (.past _) => some 6
    | none => some 6
    | _ => some 5

/-- A pre-emption request is handled: it is only recorded, or the team stops (R329). -/
def State.preempt (s : State) (q : PreReq) : State :=
  match s.noPreempt q, s.launch q.seq with
  | some r, _ => s.preRecord q Estimate.none_ 0 r false
  | none, none => s
  | none, some l =>
    let (e, s1) := s.estimate l q.team
    let discard := (l.engsOf q.team).all fun id => s.canDiscard id (s.eng id)
    let drain := (l.engsOf q.team).all fun id => (s.eng id).status != .atBrk
    let (action, reason) := e.decide_ drain discard q.action q.deadline
    let est := { e with reason := reason, met := decide (e.stopTime action ≤ q.deadline) }
    (s1.pauseTeam l q.team action).updLaunch q.seq fun l =>
      l.updTeam q.team fun t => { t with state := .stopping q action est }

/-- PREEMPT_ESTIMATOR: action 0 (R327). -/
def execPreemptEstimator (q : PreReq) (s : State) : Out := .next (s.preempt { q with action := 0 })

/-- PREEMPT_DRAIN: action 1 (R327). -/
def execPreemptDrain (q : PreReq) (s : State) : Out := .next (s.preempt { q with action := 1 })

/-- PREEMPT_SAVE: action 2 (R327). -/
def execPreemptSave (q : PreReq) (s : State) : Out := .next (s.preempt { q with action := 2 })

/-- PREEMPT_DISCARD: action 3 (R327). -/
def execPreemptDiscard (q : PreReq) (s : State) : Out := .next (s.preempt { q with action := 3 })

/-! ## The end of a stop (R60, R329, R418) -/

/-- The slot by which the saved state of a team names a logical die. -/
def savedSlot (n : Nat) : Nat := 128 + n

/-- An engine with another slot. -/
def moveEng (f : Nat → Nat) (id : EngId) : EngId := { id with slot := f id.slot }

def clMove (f : Nat → Nat) (cl : Nat) : Nat := clKey (f (cl / 16)) (cl % 16)

/-- A block with the engines it names moved, and its cycles counted from `c` in place of `c0`. A wait translates its address again. -/
def Block.moved (b : Block) (f : Nat → Nat) (c0 c : Nat) : Block :=
  match b with
  | .xwait e ch id => .xwait (moveEng f e) ch id
  | .takeEnds w r => .takeEnds w (c + (r - c0))
  | .wait _ va cls k x => .wait none va cls k x
  | .barrier _ va cls x => .barrier none va cls x
  | b => b

/-- An engine with the engines it names moved. -/
def Engine.movedRefs (e : Engine) (f : Nat → Nat) : Engine :=
  { e with
    follow := e.follow.map fun (x : Follow) => { x with ce := moveEng f x.ce }
    lend := e.lend.map fun (x : Lend) => { x with owner := moveEng f x.owner }
    status := match e.status with
      | .paused (some (b, c)) => .paused (some (b.moved f c c, c))
      | st => st }

/-- A cluster's fills with their engines moved. -/
def Cluster.movedRefs (k : Cluster) (f : Nat → Nat) : Cluster :=
  { k with fills := k.fills.map fun (x : Fill) => { x with by_ := moveEng f x.by_ } }

/-- Partials follow the engines they came from. -/
def State.movePartials (s : State) (engs : List EngId) (f : Nat → Nat) : State :=
  let go (p : Partial) : Partial := if engs.contains p.src then { p with src := moveEng f p.src } else p
  { s with dies := s.dies.map fun (p : Nat × Die) => (p.1, { p.2 with partials := p.2.partials.map go }) }

/-- The logical dies a team's streams run on. -/
def Launch.teamDies (l : Launch) (team : Nat) : List Nat := ((l.streamsOf team).map (·.ldie)).eraseDups

/-- Whether a team needs its dies no more: it has yielded, or every combiner of it has fired. -/
def Launch.teamAway (l : Launch) (team : Nat) : Bool :=
  match l.teamState team with
  | some (.saved _ _) => true
  | some .running => (l.unfired team).isEmpty
  | _ => false

/-- The logical dies that no team needs once a team has yielded: every other team on them has yielded or completed (R329). -/
def Launch.freedDies (l : Launch) (team : Nat) : List Nat :=
  (l.teamDies team).filter fun n => l.streams.all fun x => x.ldie != n || x.team == team || l.teamAway x.team

/-- The window entries of a course that belong to a team: a window lies within the team of its consumer (R30). -/
def State.teamWindows (s : State) (l : Launch) (team : Nat) : List Nat :=
  (List.range (s.nwin l.image l.course)).filter fun j =>
    let f (off n : Nat) : Nat := s.winEntry l.image l.course j off n
    let cfg := f 0 6
    match l.streams.find? fun x => x.ldie == f 6 1 && x.eng.cluster == cfg / 2 ^ 33 % 16 && x.eng.index == cfg / 2 ^ 37 % 32 with
    | some x => x.team == team
    | none => (l.teamDies team).contains (f 6 1)

/-- A window's place: its consumer's slot, its number and its size in bytes. -/
def State.windowAt (s : State) (l : Launch) (j : Nat) : Nat × Nat × Nat :=
  let slot := slotIn l.bind (s.winEntry l.image l.course j 6 1)
  let win := s.winEntry l.image l.course j 7 1 % 64
  let cfg := (s.die slot).wincfgOf win
  (slot, win, winDepth cfg * winSlotBytes cfg)

/-- Whether an engine of a team has stopped for a pre-emption. One at brk has not retired its section, so it is not drained
(R385). -/
def Engine.hasPaused (e : Engine) (action : Nat) : Bool :=
  match e.status with
  | .paused _ => true
  | .finished => true
  | .atBrk => action != 1
  | .off => true
  | _ => false

/-- Whether a transfer has to end before its team's state is read: one that has begun, but for what only waits for its tile or for a
lower ID; one not begun is part of the state (R60). -/
def State.xferPending (s : State) (id : EngId) (e : Engine) : Bool :=
  (List.range 4).any fun ch => e.chans[idx4 ch].out.any fun t =>
    if t.moved then s.xferSettled id ch t else t.begun || !e.isPaused

/-- Whether anything a team sent is still on its way: accesses, replies, transfers, pushes and pieces (R60). -/
def State.teamInFlight (s : State) (seq team : Nat) : Bool :=
  let mine (id : EngId) : Bool := (s.eng id).ofTeam seq team
  (s.engines.any fun p => p.2.ofTeam seq team && s.xferPending (EngId.ofKey p.1) p.2) || (s.accesses.any fun a => a.seq == seq && a.team == team) || (s.replies.any fun r => mine r.eng)
    || (s.pushes.any fun p => p.seq == seq && p.team == team) || s.pieces.any fun p => p.seq == seq && p.team == team

/-- Whether every lattice of a GD a team runs on is quiet (R306). -/
def State.latticesQuiet (s : State) (l : Launch) (team : Nat) : Bool :=
  (l.teamDies team).all fun n => dieKind (slotIn l.bind n) != some .gd || s.latticeQuiet (slotIn l.bind n)

/-- A poisoned slot of a window that is being saved, by the home's slot (R418). -/
def State.savePoisoned (s : State) (l : Launch) (team : Nat) : Option Nat :=
  ((s.teamWindows l team).map fun j => s.windowAt l j).findSome? fun (slot, win, n) =>
    if s.poisoned (slotPa slot win 0) n then some slot else none

/-- The state of a team, read from its dies (R60). -/
def State.takeTeam (s : State) (l : Launch) (team : Nat) : Saved :=
  let toSaved (slot : Nat) : Nat :=
    match l.bind.find? fun p => p.2 == slot with
    | some p => savedSlot p.1
    | none => slot
  let win (j : Nat) : Nat × Nat × Window × List Byte :=
    let (slot, k, n) := s.windowAt l j
    (s.winEntry l.image l.course j 6 1, k, (s.die slot).window k, s.bytes (slotPa slot k 0) n)
  { engines := (l.engsOf team).map fun id => (moveEng toSaved id, (s.eng id).movedRefs toSaved)
    clusters := (l.groupsOf team).map fun cl =>
      let k := s.cluster cl
      (clMove toSaved cl, { k with fills := k.fills.filter fun x => (s.eng x.by_).ofTeam l.seq team }.movedRefs toSaved)
    windows := (s.teamWindows l team).map win
    lattices := ((l.teamDies team).filter fun n => dieKind (slotIn l.bind n) == some .gd).map fun n =>
      (n, (s.die (slotIn l.bind n)).lattice) }

/-- A team leaves its dies: nothing of its engines stays there, its windows and routes are taken down, and the compute dies that no
other team needs are released (R329). -/
def State.leaveDies (s : State) (l : Launch) (team : Nat) : State :=
  let toSaved (slot : Nat) : Nat :=
    match l.bind.find? fun p => p.2 == slot with
    | some p => savedSlot p.1
    | none => slot
  let engs := l.engsOf team
  let gone := (l.freedDies team).filter fun n => !(s.ldieEntry l.image n).pinned
  let s1 := engs.foldl (fun (s : State) id =>
    (s.setEng id Engine.reset).updCluster id.cl fun c =>
      { c with engstop := c.engstop &&& ~~~((1 : BitVec 17) <<< id.index), fills := c.fills.filter fun x => x.by_ != id })
    (s.movePartials engs toSaved)
  let s2 := (s.teamWindows l team).foldl (fun (s : State) j =>
    let f (off : Nat) : Nat := s.winEntry l.image l.course j off 1
    (s.updDie (slotIn l.bind (f 6)) fun d => { d with wincfg := d.wincfg.erase (f 7) }).updDie (slotIn l.bind (f 8))
      fun d => { d with route := d.route.erase (f 9) }) s1
  let s3 := gone.foldl (fun (s : State) n =>
    if dieKind (slotIn l.bind n) = some .gd then s.setLattice (slotIn l.bind n) Lattice.reset else s) s2
  s3.updLaunch l.seq fun l => { l with
    bind := l.bind.filter fun p => !gone.contains p.1
    streams := l.streams.map fun (x : Stream) => if x.team = team then { x with eng := moveEng toSaved x.eng } else x
    teams := l.teams.map fun (t : Team) => if t.index = team then { t with fired := t.fired.map (clMove toSaved) } else t }

/-- PREEMPT_STOP_COMPLETE: every engine has stopped, nothing is on its way and the team's lattices are quiet; the state is at
the home BD, the record is written, and the dies are released. A poisoned slot found in it faults the team instead (R60, R306,
R329, R418). -/
def execPreemptStopComplete (seq team : Nat) (s : State) : Out :=
  match s.launch seq with
  | none => .next s
  | some l =>
    match l.teamState team with
    | some (.stopping q action est) =>
      if 4 ≤ action then .next s
      else if !((l.engsOf team).all fun id => (s.eng id).hasPaused action) || s.teamInFlight seq team || !s.latticesQuiet l team || decide (s.ptick < est.due) then
        .next s
      else if s.teamFaulting seq team then .next s
      else match s.savePoisoned l team with
        | some slot => .next (s.fault { teamEv s seq team 0x0106 (5 + slot * 256) 1 slot with after := .stop })
        | none =>
          let kept := s.takeTeam l team
          .next (((s.leaveDies l team).updLaunch seq fun l =>
            l.updTeam team fun t => { t with state := .saved action s.ptick, saved := some kept }).preRecord q est action est.reason est.met)
    | _ => .next s

/-! ## Resumption (R62, R329) -/

/-- The placement of a launch's missing logical dies for a team that resumes, keeping the quadrant map; none of its dies may have
reached 105 °C and not cooled since, or be on its way down (R324, R329, R346). -/
def State.rebind (s : State) (l : Launch) (team : Nat) : Option (List (Nat × Nat)) :=
  let missing := (l.teamDies team).filter fun n => !(l.bind.any fun p => p.1 == n)
  let ready (b : List (Nat × Nat)) : Bool := (l.teamDies team).all fun n => !(s.die (slotIn b n)).hot && s.dieUp (slotIn b n)
  (s.placeDies l.image (s.freeSlot l.seq) l.quads l.bind missing).filter ready

/-- An engine's cycles counted from `c` in place of its next issue (R48, R62). -/
def Engine.shift (e : Engine) (c : Nat) : Engine :=
  let c0 := e.nextIssue
  { e.rebase c with
    secPend := e.secPend.map fun (x : SecPend) => { x with landBy := c + (x.landBy - c0) }
    bc := e.bc.map fun (x : BcHold) => { x with cycle := c }
    stores := [] }

/-- A saved engine restarts at cycle `c` (R62, R449). -/
def Engine.resumed (e : Engine) (action c : Nat) : Engine :=
  if action = 3 then e.discarded c
  else match e.status with
    | .paused none => { e.shift c with status := .running }
    | .paused (some (b, c0)) => { e.shift c with status := .blocked (b.moved id c0 c) c }
    | _ => { e.shift c with status := e.status }

/-- A quiet lattice whose cycles are another die's from now on (R281, R306). -/
def Lattice.moved (l : Lattice) : Lattice := { l with freeAt := 0, cycle := 0, start := [], settled := [], fired := [] }

/-- What the teams of a launch that have yielded left, with the ticks at which they did. -/
def Launch.leftBehind (l : Launch) : List (Nat × Saved) :=
  l.teams.filterMap fun t => match t.state, t.saved with
    | .saved _ n, some k => some (n, k)
    | _, _ => none

/-- The last of some things by their ticks: what the last team to yield a die found there. -/
def lastLeft {α : Type} (xs : List (Nat × α)) : Option α :=
  (xs.foldl (fun (best : Option (Nat × α)) x => match best with
    | some b => if x.1 < b.1 then best else some x
    | none => some x) none).map (·.2)

/-- A cluster of a die that a resuming team binds anew holds the tiles and bank formats that were left in it (R62). -/
def State.restoreCluster (s : State) (l : Launch) (toDie : Nat → Nat) (cl : Nat) : State :=
  match lastLeft (l.leftBehind.flatMap fun x => (x.2.clusters.filter fun k => k.1 == cl).map fun k => (x.1, k.2)) with
  | some k => s.updCluster (clMove toDie cl) fun c => { c with bfmtlo := k.bfmtlo, bfmthi := k.bfmthi, tiles := k.tiles }
  | none => s

/-- The lattice of a GD that a resuming team binds anew. -/
def State.restoreLattice (s : State) (l : Launch) (n : Nat) : State :=
  match lastLeft (l.leftBehind.flatMap fun x => (x.2.lattices.filter fun k => k.1 == n).map fun k => (x.1, k.2)) with
  | some k => s.setLattice (slotIn l.bind n) k.moved
  | none => s

/-- A die that a resuming team binds anew: cleared as for a course, with what was left on its logical die (R62, R92, R100). A die that
other teams kept holds its own (R52). -/
def State.restoreDie (s : State) (l : Launch) (toDie : Nat → Nat) (n : Nat) : State :=
  let slot := slotIn l.bind n
  let s1 := (s.readyDie l l.course n slot).enterDie l.image slot
  let cls := if clusterSize (clKey slot 0) = 0 then [0] else List.range 16
  (cls.foldl (fun (s : State) c => s.restoreCluster l toDie (clKey (savedSlot n) c)) s1).restoreLattice l n

/-- The state after a team has been restored under a binding, its engines to restart at a tick; one saved at brk stands there
again; a discard leaves its tiles empty (R58, R62, R385). -/
def State.restoreTeam (s : State) (l : Launch) (b : List (Nat × Nat)) (team action start : Nat) (kept : Saved) : State :=
  let fresh := (b.filter fun p => !l.bind.contains p).map (·.1)
  let l := { l with bind := b }
  let toDie (slot : Nat) : Nat := if 128 ≤ slot then slotIn b (slot - 128) else slot
  let s1 := fresh.foldl (fun (s : State) n => s.restoreDie l toDie n) s
  let s2 := (s.teamWindows l team).foldl (fun (s : State) j => s.routeWindow l l.course j) s1
  let s3 := kept.windows.foldl (fun (s : State) x =>
    let slot := slotIn b x.1
    (s.store (slotPa slot x.2.1 0) x.2.2.2).updDie slot fun d => { d with windows := d.windows.put x.2.1 x.2.2.1 }) s2
  let s4 := kept.clusters.foldl (fun (s : State) x => s.updCluster (clMove toDie x.1) fun c => { c with
    fills := c.fills ++ (if action = 3 then [] else (x.2.movedRefs toDie).fills)
    shutter := .opened
    closeAsked := false }) s3
  let s5 := kept.engines.foldl (fun (s : State) x =>
    let id := moveEng toDie x.1
    let e := (x.2.movedRefs toDie).resumed action ((s.dom id.cl).cycleFrom start)
    let brk : BitVec 17 := if e.status = .atBrk then (1 : BitVec 17) <<< id.index else 0
    (s.setEng id e).updCluster id.cl fun c => { c with engstop := c.engstop ||| brk }) s4
  let l' := { l with
    streams := l.streams.map fun (x : Stream) => if x.team = team then { x with eng := moveEng toDie x.eng } else x
    teams := l.teams.map fun (t : Team) =>
      if t.index = team then { t with state := .running, saved := none, fired := t.fired.map (clMove toDie) } else t
    gauges := (List.range (s.ngauge l.image l.course)).map fun j => l.gauge (s.gaugeRec l.image l.course j) }
  let s6 := if action = 3 then s5.emptyTiles l' team else s5
  (s6.movePartials (kept.engines.map (·.1)) toDie).updLaunch l.seq fun _ => l'

/-- Whether a team stands at the head that is taken next (R323, R329). -/
def State.headIs (s : State) (seq team : Nat) : Bool :=
  match s.bestHead with
  | some h => h.seq == seq && h.team == some team && s.waitingPrios.all fun p => decide (p < h.prio)
  | none => false

/-- A team's save area, and its length less one (R418). -/
def Launch.saveArea (l : Launch) (team : Nat) : Nat × Nat := (l.areas.find team).getD (Config.saveArea l.seq team)

/-- TEAM_RESUME: the team is bound afresh, its state restored, and every engine restarts at one tick. A poisoned unit found
in its saved state raises 0x0106, kind 5, and the team stops before that (R62, R329, R418). -/
def execTeamResume (seq team : Nat) (s : State) : Out :=
  match s.launch seq with
  | none => .next s
  | some l =>
    match l.teamOf? team with
    | none => .next s
    | some t =>
      match t.state, t.saved, s.rebind l team with
      | .saved action _, some kept, some b =>
        if !s.headIs seq team || l.state != .inCourse then .next s
        else
          let (n, s) := s.lat
          let back := s.restoreTeam l b team action (s.ptick + 1 + n) kept
          let area := l.saveArea team
          let home := s.lrHomeBd l.image
          .next (if s.poisoned area.1 (area.2 + 1) then back.fault { teamEv s seq team 0x0106 (5 + home * 256) 1 home with after := .stop }
            else back)
      | _, _, _ => .next s

/-! ## The distributor's own requests (R328) -/

/-- Whether a launch's team holds a die that a task needs, alone or with other teams: of a compute type it needs, in a quadrant it may
use. -/
def State.holdsNeeded (s : State) (need : Launch) (l : Launch) (team : Nat) : Bool :=
  let pins := s.pinnedQuads need.image
  (l.teamDies team).any fun n =>
    let slot := slotIn l.bind n
    (s.quadsUsed need.image).any fun lq =>
      (match pins.find? fun p => p.1 == lq with | some p => p.2 == slot / 9 | none => true)
        && decide (0 < s.needs need.image lq (s.mixType slot)) && !(s.ldieEntry l.image n).pinned

/-- The teams that may be pre-empted for a task, with their launches. -/
def State.victims (s : State) (l : Launch) : List (Launch × Nat) :=
  (s.launches.filter fun x => x.state == .inCourse && decide (x.prio < l.prio)).flatMap fun x =>
    (x.teams.filter fun t => (s.noPreempt ⟨x.seq, t.index, 0, 0, 0, 0⟩).isNone && s.holdsNeeded l x t.index).map fun t => (x, t.index)

/-- Lowest priority first, then highest launch_seq, then lowest team (R328). -/
def victimBefore (p q : Launch × Nat) : Bool :=
  decide (p.1.prio < q.1.prio) || (p.1.prio == q.1.prio && (decide (q.1.seq < p.1.seq) || (p.1.seq == q.1.seq && decide (p.2 < q.2))))

def firstVictim : List (Launch × Nat) → Option (Launch × Nat)
  | [] => none
  | p :: ps => match firstVictim ps with
    | none => some p
    | some q => if victimBefore q p then some q else some p

/-- Whether a team is already stopping for a request of a queue. -/
def State.stoppingFor (s : State) (queue : Nat) : Bool :=
  s.launches.any fun l => l.teams.any fun t => match t.state with | .stopping q _ _ => q.source == 1 + queue | _ => false

/-- DISTRIBUTOR_PREEMPT_REQUEST: a selected task of a pre-empting queue waits for dies, and one team is asked to yield
(R328). -/
def execDistributorPreemptRequest (seq : Nat) (s : State) : Out :=
  match s.launch seq with
  | none => .next s
  | some l =>
    match firstVictim (s.victims l) with
    | none => .next s
    | some (x, team) =>
      let v := s.qcfg l.queue
      event s (l.state == .selected && qPreempt v && (s.place l.image (s.freeSlot seq)).isNone
          && (s.place l.image fun _ => true).isSome && !s.stoppingFor l.queue)
        (s.preempt ⟨x.seq, team, 0, qPdl v, 0, 1 + l.queue⟩)

/-! ## The soft thermal threshold (R346) -/

/-- 105 °C and 95 °C in sixteenths of a degree. -/
def softLimit : Int := 1680
def clearLimit : Int := 1520

/-- The teams with a stream on a die. -/
def State.teamsOn (s : State) (slot : Nat) : List (Nat × Nat) :=
  s.launches.flatMap fun l => ((l.streams.filter fun x => x.eng.slot == slot).map fun x => (l.seq, x.team)).eraseDups

/-- A domain set out for OP0 at the next tick its clock can switch (R332, R346). -/
def Domain.toOp0 (d : Domain) (t : Nat) : Domain :=
  if d.op = 0 then { d with next := none }
  else { d with next := some (switchTick t, 0), transitEnd := if ratioOf d.op = 0 then d.transitEnd else switchTick t + 1200 }

/-- The domains of a die at OP0 (R346). -/
def State.toOp0 (s : State) (slot : Nat) : State :=
  { s with clusters := s.clusters.map fun (p : Nat × Cluster) =>
      if p.1 / 16 = slot then (p.1, { p.2 with dom := p.2.dom.toOp0 s.ptick }) else p }

/-- SOFT_THERMAL_THRESHOLD: a die reads 105 °C or more: soft is set, its teams are saved, and its domains go to OP0
(R346). -/
def execSoftThermalThreshold (slot : Nat) (temp : BitVec 16) (s : State) : Out :=
  let s1 := s.updDie slot fun d => { d with temp := temp }
  if temp.toInt < softLimit ∨ 36 < slot then .next s1
  else
    let s2 := s1.updDie slot fun d => { d with soft := true, hot := true }
    .next (((s.teamsOn slot).foldl (fun (s : State) p => s.preempt ⟨p.1, p.2, 2, 0, 0, 0xFFFF⟩) s2).toOp0 slot)

/-- SOFT_THERMAL_CLEAR: a die reads below 95 °C and takes stopped teams again (R346). -/
def execSoftThermalClear (slot : Nat) (temp : BitVec 16) (s : State) : Out :=
  .next (s.updDie slot fun d => { d with temp := temp, hot := d.hot && decide (clearLimit ≤ temp.toInt) })

end Sys2Proof.Machine
end

