-- ==== Sys2Proof/Machine/Soft.lean ====
section
/-! DEFINITION. Soft errors and links (20 R371-R373): scrubs, corrected and uncorrectable units, parity errors, link CRC
failures and the abort of a course; missed deadlines (24 R441, R442); and the stop of every team of a launch. -/

namespace Sys2Proof.Machine

/-! ## Stopping a launch (R365, R368) -/

/-- Ticks in 24 hours (R375). -/
def dayTicks : Nat := 24 * 3600 * 1200000000

/-- The record a pre-emption leaves when a die-level or package-level fault ends it: reason 8 for a save that a hard trip
overtakes, else 7 (R330, R418, R440). -/
def State.endPreempt (s : State) (t : Team) (trip : Bool) : State :=
  match t.state with
  | .stopping q action est => s.preRecord q est 0 (if trip && action == 2 then 8 else 7) false
  | _ => s

/-- Whether a team of a launch is still to be stopped by a fault of its die or package: it runs, stops, waits to restart or
follows a peer. -/
def TeamState.stoppable (t : TeamState) : Bool :=
  match t with
  | .peer _ _ => true
  | t => t.live

/-- The teams of a launch that `pick` names and that have not stopped stop, with one record each at the end of the tick, after which
their combiners report (R365, R368, R370). -/
def State.stopSome (s : State) (l : Launch) (pick : Team → Bool) (ev : Team → FaultEv) (status : Nat) (trip : Bool)
    (after : Team → TeamState) : State :=
  let ts := l.teams.filter fun t => t.state.stoppable && pick t
  let s1 := ts.foldl (fun (s : State) t => s.haltTeam l.seq t.index) s
  let s2 := ts.foldl (fun (s : State) t => (s.endPreempt t trip).fault { ev t with after := .report l (l.unfired t.index) status }) s1
  s2.updLaunch l.seq fun l => { l with
    teams := l.teams.map fun (t : Team) => if t.state.stoppable && pick t then { t with state := after t, frozen := false } else t }

/-- Every team of a launch that has not stopped stops, with one record each, and its combiners report (R365, R368, R425). -/
def State.stopAll (s : State) (l : Launch) (ev : Team → FaultEv) (status : Nat) (trip : Bool) (after : Team → TeamState) : State :=
  s.stopSome l (fun _ => true) ev status trip after

/-- A launch whose teams are over, in a state. -/
def State.park (s : State) (seq : Nat) (st : LaunchState) : State :=
  s.updLaunch seq fun l => { l with
    state := st
    teams := l.teams.map fun (t : Team) => { t with state := (match t.state with | .past n => .past n | _ => .past 1), saved := none, frozen := false } }

/-- Whether a launch holds dies: it has been bound and has not ended. -/
def Launch.bound (l : Launch) : Bool :=
  match l.state with
  | .queued => false
  | .selected => false
  | .ended => false
  | _ => true

/-- Stop every bound launch at package level: its teams end, and it is held for an answer, or ends when its image is no
longer ready (R365, R434). -/
def State.stopPackage (s : State) (cause detail : Nat) (rerun : Bool) : State :=
  let s0 := if s.launches.any (fun l => l.teams.any fun t => t.state.stoppable) then s
    else s.fault (teamEv s 0 0 cause detail 3 36)
  (s.launches.filter Launch.bound).foldl (fun (s : State) l =>
    let s1 := (s.stopAll l (fun t => teamEv s l.seq t.index cause detail 3 36) 1 false fun _ => .past 1).park l.seq (.heldAnswer rerun)
    if (s1.image l.image).state = 2 then s1
    else match s1.launch l.seq with | some l => s1.killLaunch l | none => s1) s0

/-! ## ECC (R371, R372, R375, R428) -/

/-- The units of a slot that are poisoned. -/
def State.poisonCount (s : State) (slot : Nat) : Nat := (s.poison.filter fun u => paSlot u == slot).length

/-- ECCSTAT of a die (R371). -/
def State.eccstat (s : State) (slot : Nat) : Word :=
  let d := s.die slot
  BitVec.ofNat 64 (d.corr.toNat * 2 ^ 32 + d.uncorr.toNat * 2 ^ 16 + s.poisonCount slot % 2 ^ 16)

/-- SCRUB_PASS: the errors a BD corrects in a scrub are counted (R371). -/
def execScrubPass (slot : Nat) (units : List Nat) (s : State) : Out :=
  event s (dieKind slot == some .bd)
    (s.updDie slot fun d => { d with corr := BitVec.ofNat 32 (min (d.corr.toNat + units.length) (2 ^ 32 - 1)) })

/-- How often a die's uncorrectable count has risen within 24 hours. -/
def State.uncorrDay (s : State) (slot : Nat) : Nat := ((s.die slot).uncorrTicks.filter fun t => decide (s.ptick < t + dayTicks)).length

/-- Count an uncorrectable error of a die. -/
def State.countUncorr (s : State) (slot : Nat) : State :=
  s.updDie slot fun d => { d with
    uncorr := BitVec.ofNat 16 (min (d.uncorr.toNat + 1) (2 ^ 16 - 1))
    uncorrTicks := d.uncorrTicks.filter (fun t => decide (s.ptick < t + dayTicks)) ++ [s.ptick] }

/-- Whether an image's bytes still give its hash, none of them poisoned (R309, R434). -/
def State.hashHolds (s : State) (i : Nat) : Bool :=
  !s.poisoned (imagePa i 0) (s.imgLength i) && s.imageHash i == s.bytes (imagePa i 96) 32

/-- Every ready image is checked again; one that fails is refused (R434). -/
def State.recheckImages (s : State) : State :=
  { s with images := s.images.map fun (p : Nat × ImageSlot) =>
      (p.1, if p.2.state = 2 ∧ !s.hashHolds p.1 then { p.2 with state := 3 } else p.2) }

/-- An uncorrectable error in HD scheduler memory, or in the HD's tables: 0x0304 (R372, R434). -/
def State.schedError (s : State) : State := s.recheckImages.stopPackage 0x0304 0 true

/-- Mark the unit of an address poisoned (R372). A line that nothing has written since it was cleared reads zero without its ECC (R32). A
unit under an accumulator keeps its mark, which nothing reads: accumulators carry parity instead (log 24). -/
def State.poisonUnit (s : State) (pa : Nat) : State :=
  let u := unitOf pa
  if s.poison.contains u ∨ (carriesWritten u ∧ !s.written.contains (u / 256 * 256)) then s else { s with poison := s.poison ++ [u] }

/-- PARITY_ERROR: a parity error in an engine's logic faults its team with 0x0306 (R372). -/
def execParityError (id : EngId) (s : State) : Out :=
  let e := s.eng id
  if id.kind.isNone ∨ e.status = .off then .next s else .next (s.fault (faultAt s id 0x0306 0 e.pc))

/-! ## Links (R373) -/

/-- 1.2 × 10^9 ticks. -/
def crcSpan : Nat := 1200000000

/-- A module of the pair of `lo` and the rest of `k` fails in streaming mode: the second time in the span retires it. -/
def State.moduleFails (s : State) (lo k : Nat) : State :=
  s.updDie lo fun d => match d.crcTicks.find k with
    | some t => if s.ptick < t + crcSpan then { d with retired := d.retired.put k s.ptick } else { d with crcTicks := d.crcTicks.put k s.ptick }
    | none => { d with crcTicks := d.crcTicks.put k s.ptick }

/-- STREAMING_CRC_FAILURE: a piece on its way fails its CRC: it sets no full bit, and the HD will abort the course within
2,400 ticks (R373). -/
def execStreamingCrcFailure (piece mod : Nat) (s : State) : Out :=
  match s.pieces.find? fun p => p.id == piece with
  | none => .next s
  | some p =>
    let (k, s1) := s.draw
    let s2 := { s1 with pieces := s.pieces.filter fun q => q.id != piece }.moduleFails (mod / 512) (mod % 512)
    .next (s2.updLaunch p.seq fun l =>
      { l with crcDue := match l.crcDue with | some t => some t | none => some (s.ptick + Config.latency k % 2401) })

/-- The record of a CRC abort: the launch's, with no team; flags bit 2 while the course reruns (R366, R373). -/
def crcEv (s : State) (seq : Nat) (again : Bool) : FaultEv :=
  { teamEv s seq (2 ^ 32 - 1) 0x0303 0 1 36 with flags := if again then 4 else 0 }

/-- COURSE_ABORT_CRC: the course is aborted on every die and reruns from T0; the fourth abort stops the launch with status
4 (R373). -/
def execCourseAbortCrc (seq : Nat) (s : State) : Out :=
  match s.launch seq with
  | none => .next s
  | some l =>
    match l.crcDue with
    | none => .next s
    | some t =>
      let again := decide (l.crcAborts < 3)
      let noted (s : State) : State := s.updLaunch seq fun l => { l with crcAborts := l.crcAborts + 1, crcDue := none }
      let left := (l.teams.filter fun t => t.state.stoppable).flatMap fun t => l.unfired t.index
      let dead := s.fault { crcEv s seq again with after := .report l left 4 }
      event s (l.state == .inCourse && decide (t ≤ s.ptick))
        (if again then (noted (s.fault (crcEv s seq again))).toRerun l else (noted dead).killLaunch l)

/-- ORDINARY_CRC_RETRY: the retry is invisible to programs; the sixteenth in succession retires the module (R373). -/
def execOrdinaryCrcRetry (slot mod : Nat) (again : Bool) (s : State) : Out :=
  .next (s.updDie slot fun d =>
    let n := if again then d.retries.getD mod 0 + 1 else 1
    if 16 ≤ n then { d with retries := d.retries.erase mod, retired := d.retired.put mod s.ptick } else { d with retries := d.retries.put mod n })

/-! ## Missed deadlines (R441, R442) -/

/-- The code of a source. -/
def missCode : MissSource → Nat
  | .courseEntry => 1
  | .span => 2
  | .deadl _ => 3

/-- The deadline of a source for a running course, when it is checked: the tick, and for a deadl its engine and pc. -/
def State.deadlineOf (s : State) (l : Launch) (src : MissSource) : Option (Nat × Option (EngId × BitVec 32)) :=
  match src with
  | .courseEntry => if l.checkDl then some (l.deadline, none) else none
  | .span => if l.checkDl then l.span.map fun p => (p.1 + p.2, none) else none
  | .deadl id =>
    let e := s.eng id
    match e.deadl with
    | some d => if (l.streams.any fun x => x.eng == id) && !d.missed && e.sret != d.secNum then some (d.tick, some (id, d.pc)) else none
    | none => none

/-- The record of a miss for a team (R442). -/
def missEv (s : State) (l : Launch) (src : MissSource) (t team : Nat) (who : Option (EngId × BitVec 32)) : FaultEv :=
  let detail := missCode src + l.risk.toNat * 2 ^ 8 + (t - l.t0) % 2 ^ 32 * 2 ^ 32
  let f := teamEv s l.seq team 0x0309 detail 1 36
  match who with
  | none => f
  | some (id, pc) =>
    if (s.eng id).team = team then { f with eng := some id, slot := id.slot, cluster := id.cluster, pc := pc } else f

/-- The teams a miss concerns: every running team of the course, or the declaring engine's alone when nothing stops (R442). -/
def State.missTeams (s : State) (l : Launch) (who : Option (EngId × BitVec 32)) : List Nat :=
  let own (t : Nat) : Bool := match who with | some (id, _) => (s.eng id).team == t | none => true
  (l.teams.filter fun t => t.state.live && (fld l.dlact 0 2 != 0 || own t.index)).map (·.index)

/-- A miss acts: one record for each source, course attempt and team; action 0 stops nothing, 1 and 3 hold the teams, 2
abandons the launch (R441, R442). -/
def State.miss (s : State) (l : Launch) (src : MissSource) (t : Nat) (who : Option (EngId × BitVec 32)) : State :=
  let action := fld l.dlact 0 2
  let ts := (s.missTeams l who).filter fun n => !l.missed.contains (missCode src, n)
  let s0 := match who with
    | some (id, _) => s.updEng id fun e => { e with deadl := e.deadl.map fun d => { d with missed := true } }
    | none => s
  let s1 := if action = 0 then ts.foldl (fun (r : State) n => r.fault (missEv s l src t n who)) s0
    else if ts.isEmpty then s0
    else s0.stopAll l (fun x => missEv s l src t x.index who) 1 false fun x => .held 0x0309 (s.teamRetry l.seq x.index)
  let noted := s1.updLaunch l.seq fun l => { l with
    missed := l.missed ++ (ts.map fun n => (missCode src, n)) ++ (if who.isNone then [(missCode src, 2 ^ 32)] else []) }
  if action = 2 ∧ !ts.isEmpty then (match noted.launch l.seq with | some l => noted.killLaunch l | none => noted) else noted

/-- DEADLINE_MISS: a deadline has passed with its course not complete, or its section not retired (R441, R442). -/
def execDeadlineMiss (seq : Nat) (src : MissSource) (s : State) : Out :=
  match s.launch seq with
  | none => .next s
  | some l =>
    match s.deadlineOf l src with
    | none => .next s
    | some (t, who) =>
      event s (l.state == .inCourse && decide (t < s.ptick) && !l.missed.contains (missCode src, 2 ^ 32)) (s.miss l src t who)

end Sys2Proof.Machine
end

