-- ==== Sys2Proof/Machine/Dies.lean ====
section
/-! DEFINITION. Dies that fail (23 R422-R428, R434, 24 R437-R440, 20 R375, 01 R11-R14, R20): the loss of a die, binding round
it, restart, the hard trip, an error in a BD's tables, the reset of the package and its power-on. -/

namespace Sys2Proof.Machine

/-! ## The cut of a die (R425, R437) -/

/-- A request of a die being cut: it performs when it has reached its home, and is dropped otherwise; a write that another agent may
have seen performs (R116, R425). -/
def State.cutOne (s : State) (a : Access) : State :=
  let there := decide (a.due < s.ptick) && !a.pas.isEmpty && !a.merged
  if a.plainWrite then
    if there || (s.early a).isSome then ((s.settleUnits a true).1.dropAccess a.id).cleared a else s.dropAccess a.id
  else if there && !a.reads then (s.performAccess a).dropAccess a.id
  else s.dropAccess a.id

/-- Accesses in flight at the cut of a die (R425, R437). -/
def State.cutDie (s : State) (slot : Nat) : State :=
  let s1 := (s.crossings.filter fun x => x.slot == slot && x.ret.isNone && decide (x.due < s.ptick)).foldl
    (fun (s : State) x => s.performCrossing x) s
  let s2 := (s1.accesses.filter fun a => a.eng.slot == slot).foldl State.cutOne s1
  { s2 with
    crossings := s2.crossings.filter fun x => x.slot != slot
    replies := s2.replies.filter fun r => r.eng.slot != slot
    pushes := s2.pushes.filter fun p => p.eng.slot != slot
    pieces := s2.pieces.filter fun p => p.eng.slot != slot
    }.updDie slot fun d => { d with walks := [], merge := [], strays := [] }

/-- Whether a launch has a stream of its running course on a die. -/
def Launch.streamsOn (l : Launch) (slot : Nat) : Bool := l.streams.any fun x => x.eng.slot == slot

/-! ## Losing a die (R375, R424, R425, R427, R433) -/

/-- The status field of a slot's MIX byte becomes failed (R14). -/
def State.failSlot (s : State) (slot : Nat) : State :=
  { s with mix := s.mix.mapIdx fun i b => if i = slot then setFld b 3 2 2 else b }

/-- Tell the sessions that take measurement events that index 0x30 or a digest has changed (R359). -/
def State.measurementEvent (s : State) : State :=
  { s with outbox := s.outbox ++ ((s.trust.sessions.filter fun x => x.open_ && x.subscribed).map fun x => .spdmEvent x.id) }

/-- HEALTH after a loss (R359). -/
def healthLost (v : Word) (slot : Nat) : Word := setFld (v ||| BitVec.ofNat 64 (2 ^ slot + 2 ^ 39)) 40 8 slot

/-- Whether a launch stops when a die is lost: it has a stream there, or the die is a BD that it pins or maps (R425, R433). -/
def State.losesBy (s : State) (l : Launch) (slot : Nat) : Bool :=
  l.bound && (l.streamsOn slot || (dieKind slot == some .bd && (s.pins l slot || s.mapsSlot l slot)))

/-- EVACCTL when its BD is lost while extents remain (R433). -/
def State.evacLost (s : State) (slot : Nat) : State :=
  let v := s.mgmt.evacctl
  if s.mgmt.evacFrom = slot ∧ (fld v 16 4 = 1 ∨ fld v 16 4 = 3) then
    { s with mgmt := { s.mgmt with evacctl := setFld (setFld v 16 4 4) 0 1 0 } }
  else s

/-- One die is lost: its accesses are settled, its slot fails in MIX, the teams of its launches stop with one record each and
status 5, and each launch waits for other dies, or for abandon when it has lost a BD's memory (R424-R426, R433). -/
def State.loseOne (s : State) (slot reason : Nat) : State :=
  if s.slotGone slot ∨ 36 < slot then s
  else
    let hit := s.launches.filter fun l => s.losesBy l slot
    let s1 := ((s.cutDie slot).failSlot slot).evacLost slot
    let s2 := { s1 with mgmt := { s1.mgmt with health := healthLost s1.mgmt.health slot } }.measurementEvent
    let ev (seq team : Nat) : FaultEv := teamEv s seq team 0x0307 (reason % 256 + slot * 256) 2 slot
    let s3 := hit.foldl (fun (s : State) l =>
      (s.stopAll l (fun t => ev l.seq t.index) 5 false fun _ => .past 5).park l.seq
        (if dieKind slot = some .bd then .heldAnswer false else .waitDies)) s2
    let s4 := if hit.any fun l => l.teams.any fun t => t.state.stoppable then s3 else s3.fault (ev 0 0)
    (s4.updDie slot fun d => { d with phase := .lost, ckpt := [], keys := [] }).updDie slot fun d => { d with lattice := Lattice.reset }

/-- A die is lost; an SD takes the other dies of its quadrant with it, and the HD ends every launch, as a package-level loss
(R427, R434). -/
def State.loseDie (s : State) (slot reason : Nat) : State :=
  let s1 := s.loseOne slot reason
  if dieKind slot = some .sd ∧ !s.slotGone slot then
    ((List.range 8).map (9 * (slot / 9) + ·)).foldl (fun (s : State) k => s.loseOne k 4) s1
  else if slot = 36 ∧ !s.slotGone slot then s1.launches.foldl (fun (s : State) l => s.killLaunch l) s1
  else s1

/-- DIE_LOST_DECLARE: the HD declares a die lost (R375, R424). -/
def execDieLostDeclare (slot reason : Nat) (s : State) : Out := .next (s.loseDie slot reason)

/-! ## Binding round a lost or tripped slot (R426, R439) -/

/-- Whether a launch's binding of a slot no longer holds: the slot is gone, or it has tripped under a launch that stopped. -/
def State.badSlot (s : State) (l : Launch) (slot : Nat) : Bool := s.slotGone slot || (l.state == .waitDies && !s.dieUp slot)

/-- What becomes of a launch that has lost slots. -/
inductive Rebind
  | done (bind quads : List (Nat × Nat))
  | wait
  | held
  deriving DecidableEq, Repr

/-- The rebinding of one logical die: the lowest free slot of its type in the same quadrant; else its whole logical quadrant
afresh when it pins no die (R426). -/
def State.rebindDie (s : State) (l : Launch) (bind quads : List (Nat × Nat)) (n : Nat) : Rebind :=
  let i := l.image
  let e := s.ldieEntry i n
  let taken (k : Nat) : Bool := bind.any fun p => p.2 == k
  let pq := match quads.find? fun p => p.1 == e.quad with | some p => p.2 | none => 4
  let there (free : Nat → Bool) : List Nat := (s.slotsOf free pq e.ty).filter fun k => !taken k
  if bind.any fun p => p.1 == n then .done bind quads
  else if e.pinned then .held
  else match there (s.freeSlot l.seq), there fun _ => true with
    | k :: _, _ => .done (bind ++ [(n, k)]) quads
    | [], _ :: _ => .wait
    | [], [] =>
      if (s.pinnedQuads i).any fun p => p.1 == e.quad then .held
      else
        let ns := (List.range (s.nldie i)).filter fun m => (s.ldieEntry i m).quad == e.quad && (s.ldieEntry i m).ty != 6
        let bind' := bind.filter fun p => !ns.contains p.1
        let quads' := quads.filter fun p => p.1 != e.quad
        let go (free : Nat → Bool) : Option (List (Nat × Nat) × List (Nat × Nat)) :=
          match s.placeQuads i free quads' [e.quad] with
          | none => none
          | some qs => (s.placeDies i free qs bind' ns).map fun b => (b, qs)
        match go (s.freeSlot l.seq), go fun _ => true with
        | some r, _ => .done r.1 r.2
        | none, some _ => .wait
        | none, none => .held

/-- The rebinding of every logical die that has lost its slot. -/
def State.rebindAll (s : State) (l : Launch) : Rebind :=
  let bad := (l.bind.filter fun p => s.badSlot l p.2).map (·.1)
  bad.foldl (fun (r : Rebind) n => match r with
    | .done b q => s.rebindDie l b q n
    | r => r) (.done (l.bind.filter fun p => !s.badSlot l p.2) l.quads)

/-- REBIND_AFTER_LOSS: logical dies on lost slots are bound again, as at binding, and the launch reruns its course; or it waits, or is held
for abandon (R426). -/
def execRebindAfterLoss (seq : Nat) (s : State) : Out :=
  match s.launch seq with
  | none => .next s
  | some l =>
    if !(l.state == .waitDies || ((l.state == .walking || l.state == .rerun) && s.lostSlot l)) then .next s
    else match s.rebindAll l with
      | .wait => .next s
      | .held => .next (s.updLaunch seq fun l => { l with state := .heldAnswer false })
      | .done b q => .next ((s.enterDies l.image ((b.filter fun p => !l.bind.contains p || l.state == .waitDies).map (·.2))).updLaunch seq fun l =>
          { l with bind := b, quads := q, state := if l.state = .waitDies then .rerun else l.state })

/-! ## Restarting a compute die (R422, R423) -/

/-- A die yields for a restart: it takes no new work, and every team that holds it is asked to yield, in the order of R328
(R422). The request's source is the host's (log 25). -/
def State.yieldDie (s : State) (slot deadline : Nat) : State :=
  let s1 := s.updDie slot fun d => { d with phase := .yielding deadline }
  let teams := s.launches.flatMap fun l =>
    ((l.streams.filter fun x => x.eng.slot == slot).map (·.team)).eraseDups.filterMap fun t =>
      if (s.noPreempt ⟨l.seq, t, 0, 0, 0, 0⟩).isNone then some (l, t) else none
  let rec go : Nat → List (Launch × Nat) → State → State
    | 0, _, s => s
    | n + 1, ts, s =>
      match firstVictim ts with
      | none => s
      | some p => go n (ts.erase p) (s.preempt ⟨p.1.seq, p.2, 0, deadline, 0, 0⟩)
  go teams.length teams s1

/-- Whether everything a die has sent has performed or been answered; responses may still be on their way (R374, R422). -/
def State.dieIdle (s : State) (slot : Nat) : Bool :=
  let on (e : EngId) : Bool := e.slot == slot
  !(s.accesses.any fun a => on a.eng && !a.merged) && !(s.pushes.any fun p => on p.eng)
    && !(s.pieces.any fun p => on p.eng) && !(s.crossings.any fun x => x.slot == slot && x.ret.isNone) && (s.die slot).walks.isEmpty
    && (s.die slot).merge.isEmpty && s.engines.all fun p => !on (EngId.ofKey p.1) || p.2.transfers.isEmpty

/-- A cluster whose die has lost its logic state: its table stays, as the HD keeps what it wrote (R428; log 26). -/
def Cluster.lostState (c : Cluster) (size : Nat) : Cluster := { Cluster.reset size with acc := c.acc, shutter := .off }

/-- A die that has lost its logic state: a register whose reset value is 0 reads 0; what counts since power-on, and what the HD keeps,
stays (R4, R371, R374, R438). -/
def Die.lostState (d : Die) (phase : DiePhase) : Die :=
  { Die.reset with
    incarn := d.incarn, uncorr := d.uncorr, tripCause := d.tripCause, tripTemp := d.tripTemp,
    tripCount := d.tripCount, temp := d.temp, hot := d.hot, acc := d.acc, phase := phase, restarts := d.restarts,
    tripTicks := d.tripTicks, uncorrTicks := d.uncorrTicks, retired := d.retired, crcTicks := d.crcTicks, retries := d.retries,
    fwDigest := d.fwDigest, strays := d.strays }

/-- The reset of a die at its T_q: responses to it are all that is left on its way (R374, R422). -/
def State.resetDie (s : State) (slot : Nat) : State :=
  let d := (s.die slot).lostState (.quiet s.ptick)
  let back := (s.crossings.filter fun x => x.slot == slot).map fun x => (d.incarn, x.due)
  let s0 := { s with crossings := s.crossings.filter (fun x => x.slot != slot), accesses := s.accesses.filter fun a => a.eng.slot != slot }
  let s1 := s0.setDie slot { d with strays := d.strays ++ back }
  let cls := if clusterSize (clKey slot 0) = 0 then [clKey slot 0] else (List.range 16).map (clKey slot)
  cls.foldl (fun (s : State) d => s.updCluster d fun c => c.lostState (clusterSize d))
    { s1 with engines := s1.engines.filter fun p => (EngId.ofKey p.1).slot != slot }

/-- DIE_QUIET: no launch holds a yielding die and nothing of it is on its way: its reset begins (R422). -/
def execDieQuiet (slot : Nat) (s : State) : Out :=
  match (s.die slot).phase with
  | .yielding _ => event s (!(s.launches.any fun l => l.bind.any fun p => p.2 == slot) && s.dieIdle slot) (s.resetDie slot)
  | _ => .next s

/-- SELF_TEST_START: every SRAM unit of the die is written with zero and fresh ECC (R422). -/
def execSelfTestStart (slot : Nat) (s : State) : Out :=
  match (s.die slot).phase with
  | .quiet tq =>
    event s (decide (tq + 12000 ≤ s.ptick)) ((s.wipe (paOf slot 0) 0x80000000).updDie slot fun d => { d with phase := .selfTest tq })
  | _ => .next s

/-- REJOIN_START: the self-test has passed, or the die is lost; the die aligns PTICK, its shutters off (R422). Whether it
passes, and whether it will rejoin, are the die's (log 2). -/
def execRejoinStart (slot : Nat) (s : State) : Out :=
  match (s.die slot).phase with
  | .selfTest tq =>
    let (k, s1) := s.draw
    let (j, s2) := s1.draw
    event s (decide (tq + 108000 ≤ s.ptick))
      (if Config.coin k then s2.updDie slot fun d => { d with phase := .rejoin tq (Config.coin j) } else s2.loseDie slot 2)
  | _ => .next s

/-- REJOIN_COMPLETE: at T_q + 120,000 the incarnation rises and the die takes work (R374, R422, R423). -/
def execRejoinComplete (slot : Nat) (s : State) : Out :=
  match (s.die slot).phase with
  | .rejoin tq true =>
    event s (decide (tq + 120000 ≤ s.ptick)) (s.updDie slot fun d => { d with phase := .up, incarn := d.incarn + 1, restarts := 0 })
  | _ => .next s

/-- REJOIN_TIMEOUT: a die not back by T_q + 240,000 resets again; the second time it is lost (R422). -/
def execRejoinTimeout (slot : Nat) (s : State) : Out :=
  match (s.die slot).phase with
  | .rejoin tq false =>
    event s (decide (tq + 240000 ≤ s.ptick))
      (if 1 ≤ (s.die slot).restarts then s.loseDie slot 1
       else (s.resetDie slot).updDie slot fun d => { d with restarts := d.restarts + 1 })
  | _ => .next s

/-! ## The hard trip (R437-R440) -/

/-- TRIPCAUSE after a trip (R438). -/
def Die.tripped (d : Die) (cause : BitVec 8) (temp : BitVec 16) (t : Nat) : Die :=
  { d with
    tripCause := cause
    tripTemp := temp
    temp := temp
    tripCount := if d.tripCount = BitVec.allOnes 16 then d.tripCount else d.tripCount + 1
    tripTicks := d.tripTicks.filter (fun u => decide (t < u + dayTicks)) ++ [t]
    walks := []
    merge := []
    phase := .off }

/-- The detail of cause 0x0308 (R437). -/
def tripDetail (slot : Nat) (cause : BitVec 8) (temp : BitVec 16) : Nat := cause.toNat + slot * 256 + temp.toNat * 65536

/-- HARD_THERMAL_TRIP: the die's supply is cut; its accesses are settled, the teams with a stream on it stop with one record each,
and what follows depends on its kind: a compute die waits to restart, and the other teams of its launches stop for the rerun and report status 2
(R368, R420; log 62); another is lost (R437-R440). The loss of the HD ends every launch (R434). -/
def execHardThermalTrip (slot : Nat) (cause : BitVec 8) (temp : BitVec 16) (s : State) : Out :=
  if 36 < slot ∨ s.slotGone slot ∨ (s.die slot).phase = .off ∨ (s.die slot).phase = .lost then .next s
  else if slot = 36 then
    let s1 := s.launches.foldl (fun (s : State) l => s.killLaunch l) s
    .next (s1.updDie 36 fun d => { d.tripped cause temp s.ptick with phase := .lost })
  else
    let ev (seq team : Nat) : FaultEv := teamEv s seq team 0x0308 (tripDetail slot cause temp) 2 slot
    let onDie (l : Launch) (t : Team) : Bool := l.streams.any fun x => x.team == t.index && x.eng.slot == slot
    let hit := s.launches.filter fun l => l.bound && l.streamsOn slot
    let s1 := hit.foldl (fun (s : State) l => s.stopSome l (onDie l) (fun t => ev l.seq t.index) 1 true fun _ => .past 1) (s.cutDie slot)
    let s2 := if hit.any fun l => l.teams.any fun t => t.state.stoppable && onDie l t then s1 else s1.fault (ev 0 0)
    let s3 := s2.updDie slot fun d => d.tripped cause temp s.ptick
    let third := decide (3 ≤ (s3.die slot).tripTicks.length)
    let others (l : Launch) : List (Nat × Nat) :=
      (l.teams.filter fun t => t.state.stoppable && !onDie l t).flatMap fun t => l.unfired t.index
    let waits (s : State) (l : Launch) : State :=
      ((l.teams.foldl (fun (s : State) t => s.haltTeam l.seq t.index) s).reportGroups l (others l) 2).park l.seq .waitDies
    .next (if !computeDie slot || third then s3.loseDie slot 6 else hit.foldl waits s3)

/-- TRIPPED_DIE_COOLDOWN: a tripped compute die below 95 °C restarts from Reset (R439). -/
def execTrippedDieCooldown (slot : Nat) (temp : BitVec 16) (s : State) : Out :=
  event s ((s.die slot).phase == .off && computeDie slot)
    (if temp.toInt < clearLimit then (s.updDie slot fun d => { d with temp := temp, hot := false }).resetDie slot
     else s.updDie slot fun d => { d with temp := temp })

/-- TRIPCAUSE of a die (R438). -/
def Die.tripWord (d : Die) : Word := BitVec.ofNat 64 (d.tripCount.toNat * 2 ^ 48 + d.tripTemp.toNat * 2 ^ 32 + d.tripCause.toNat)

/-- TRIPCAUSE_WRITE: writing 0 clears the cause; any other value is ignored (R438). -/
def execTripcauseWrite (slot : Nat) (v : Word) (s : State) : Out :=
  event s (decide (slot ≤ 36) && fld v 0 8 == 0) (s.updDie slot fun d => { d with tripCause := 0 })

/-! ## An error in a BD's tables (R428) -/

/-- BD_TABLE_ERROR: the HD rewrites the tables from its copies; a checkpoint set whose index held the error loses its current
generation; every team that uses the BD stops and is held, and the BD takes no new work (R365, R428; log 59). It is not
counted in ECCSTAT (R371; log 75). -/
def execBdTableError (slot : Nat) (set_ : Option Nat) (s : State) : Out :=
  if dieKind slot ≠ some .bd then .next s
  else
    let s1 := s.updDie slot fun d => { d with barred := true }
    let s0 := match set_ with
      | some n => s1.updDie slot fun d => { d with ckpt := d.ckpt.put n { d.ckpt.getD n CkSet.reset with current := none } }
      | none => s1
    let hit := s.launches.filter fun l => s.losesBy l slot
    let ev (seq team : Nat) : FaultEv := teamEv s seq team 0x0305 0 2 slot
    let s1 := hit.foldl (fun (s : State) l => s.stopAll l (fun t => ev l.seq t.index) 1 false fun _ => .held 0x0305 false) s0
    .next (if hit.any fun l => l.teams.any fun t => t.state.stoppable then s1 else s1.fault (ev 0 0))

/-! ## Package reset and power-on (R11, R20, R331, R434) -/

/-- A die after a package reset: its incarnation rises; what the spec counts since power-on stays (R371, R374, R438). -/
def Die.packageReset (d : Die) : Die :=
  { d.lostState (match d.phase with | .lost => .lost | .off => .off | _ => .up) with incarn := d.incarn + 1, acc := [] }

/-- A MIX byte at boot: the type, revision and status of the fuses; a slot that its self-test fails is failed, but for one that is
fused off (R11, R12). -/
def bootByte (fuse : Byte) (pass : Bool) : Byte := if fld fuse 3 2 = 1 ∨ pass then fuse else setFld fuse 3 2 2

/-- MIX as a boot fills it; of slots that have failed since power-on, those stay failed (R11, R434). What a self-test answers is the
die's (log 2). -/
def State.bootMix (s : State) (failed : Nat → Bool) : Vector Byte 37 :=
  s.fuse.mapIdx fun i b => if failed i then setFld b 3 2 2 else bootByte b (Config.coin (s.fresh + i))

/-- The status of a slot in MIX. -/
def mixStatus (mix : Vector Byte 37) (slot : Nat) : Nat := match mix[slot]? with | some b => fld b 3 2 | none => 1

/-- HEALTH after a boot: the slots that MIX shows failed, and `replace` when it marked one (R359; log 48). -/
def bootHealth (mix : Vector Byte 37) (was : Nat → Bool) : Word :=
  let failed := (List.range 37).filter fun k => mixStatus mix k == 2
  BitVec.ofNat 64 ((failed.map fun k => 2 ^ k).sum + if failed.all was then 0 else 2 ^ 39)

/-- PACKAGE_RESET: a link reset ends every launch without records and resets every die; device memory and every table read
zero; PTICK and what is counted since power-on stay; MIX is filled again, a failed slot staying so (R4, R11, R434). -/
def execPackageReset (s : State) : Out :=
  let was (k : Nat) : Bool := mixStatus s.mix k == 2
  let mix := s.bootMix was
  .next { State.reset with
    ptick := s.ptick
    fresh := s.fresh + 37
    nextId := s.nextId
    inbox := s.inbox
    outbox := s.outbox
    fuse := s.fuse
    mix := mix
    arithrev := s.arithrev
    dies := (List.range 37).map fun k => (k, (s.die k).packageReset)
    nextSeq := s.nextSeq
    mgmt := { Mgmt.reset with
      fltcfg := setFld Mgmt.reset.fltcfg 32 32 (fld s.mgmt.fltcfg 32 32)
      health := bootHealth mix was }
    trust := { Trust.reset with rootDigest := s.trust.rootDigest, safeCopies := s.trust.safeCopies } }

/-- PACKAGE_POWER_ON: PTICK is zero, MIX is filled from fuses and self-test, every domain is at OP0 (R11, R20, R331). -/
def execPackagePowerOn (s : State) : Out :=
  let mix := s.bootMix fun _ => false
  .next { State.reset with
    fresh := s.fresh + 37
    inbox := s.inbox
    outbox := s.outbox
    fuse := s.fuse
    mix := mix
    arithrev := s.arithrev
    dies := (List.range 37).map fun k => (k, { Die.reset with fwDigest := (s.die k).fwDigest })
    mgmt := { Mgmt.reset with health := bootHealth mix fun _ => false }
    trust := { Trust.reset with rootDigest := s.trust.rootDigest, safeCopies := s.trust.safeCopies } }

end Sys2Proof.Machine
end

