-- ==== Sys2Proof/Machine/Xts.lean ====
section
/-! DEFINITION. AES-256-XTS of a 256-byte line (14 R355): the cipher of FIPS 197 under the mode of IEEE 1619, which the spec
names (log 11). A block is sixteen bytes; byte 4c + r is row r of column c. -/

namespace Sys2Proof.Machine

/-! ## The field of AES -/

/-- Multiply by the field's generator. -/
def aesDouble (b : Byte) : Byte := if b.msb then (b <<< 1) ^^^ 0x1B else b <<< 1

/-- The product of two field elements: bits of the second from the top. -/
def aesMul (a b : Byte) : Byte :=
  [7, 6, 5, 4, 3, 2, 1, 0].foldl (fun (p : Byte) k => aesDouble p ^^^ if b.getLsbD k then a else 0) 0

/-- The inverse, the power 254; zero for zero. -/
def aesInv (b : Byte) : Byte :=
  (List.range 7).foldl (fun (p : Byte) _ => aesMul (aesMul p b) (aesMul p b)) 1

/-- The substitution: the inverse, then an affine map of its bits. -/
def aesSub (b : Byte) : Byte :=
  let v := aesInv b
  [1, 2, 3, 4].foldl (fun (p : Byte) k => p ^^^ v.rotateLeft k) (v ^^^ 0x63)

/-- The substitution backwards. -/
def aesUnsub (b : Byte) : Byte := aesInv (b.rotateLeft 1 ^^^ b.rotateLeft 3 ^^^ b.rotateLeft 6 ^^^ 0x05)

/-! ## Blocks -/

def xorBytes (a b : List Byte) : List Byte := a.zipWith (· ^^^ ·) b

/-- Take byte `k * i mod 16` to place `i`: 5 shifts the rows, 13 shifts them back. -/
def aesShift (k : Nat) (bs : List Byte) : List Byte := (List.range 16).map fun i => bs.getD (k * i % 16) 0

/-- One column under a circulant matrix, given by its first row. -/
def aesColumn (row col : List Byte) : List Byte :=
  (List.range 4).map fun r => (List.range 4).foldl (fun (p : Byte) k => p ^^^ aesMul (col.getD k 0) (row.getD ((k + 4 - r) % 4) 0)) 0

def aesMix (row bs : List Byte) : List Byte := (List.range 4).flatMap fun c => aesColumn row ((bs.drop (4 * c)).take 4)

/-! ## Keys -/

/-- The next word of the key schedule, from the words before it, the newest first; `i` is its number. -/
def aesNextWord (i : Nat) (ws : List (List Byte)) : List Byte :=
  let last := ws.getD 0 []
  let turn (w : List Byte) : List Byte := w.drop 1 ++ w.take 1
  let rcon : Byte := BitVec.ofNat 8 (2 ^ (i / 8 - 1))
  xorBytes (ws.getD 7 [])
    (if i % 8 = 0 then xorBytes ((turn last).map aesSub) [rcon, 0, 0, 0] else if i % 8 = 4 then last.map aesSub else last)

/-- The fifteen round keys of a 32-byte key. -/
def aesRoundKeys (key : List Byte) : List (List Byte) :=
  let seed := ((List.range 8).map fun k => (key.drop (4 * k)).take 4).reverse
  let ws := ((List.range 52).foldl (fun ws k => aesNextWord (k + 8) ws :: ws) seed).reverse
  (List.range 15).map fun r => ((ws.drop (4 * r)).take 4).flatten

/-! ## The cipher -/

/-- The rounds after the first key: every one mixes columns but the last. -/
def aesRounds : List (List Byte) → List Byte → List Byte
  | [], bs => bs
  | [k], bs => xorBytes (aesShift 5 (bs.map aesSub)) k
  | k :: ks, bs => aesRounds ks (xorBytes (aesMix [2, 3, 1, 1] (aesShift 5 (bs.map aesSub))) k)

def aesEncrypt (keys : List (List Byte)) (bs : List Byte) : List Byte :=
  match keys with | k :: ks => aesRounds ks (xorBytes bs k) | [] => bs

/-- The rounds backwards, with the keys backwards. -/
def aesUnrounds : List (List Byte) → List Byte → List Byte
  | [], bs => bs
  | [k], bs => xorBytes ((aesShift 13 bs).map aesUnsub) k
  | k :: ks, bs => aesUnrounds ks (aesMix [14, 11, 13, 9] (xorBytes ((aesShift 13 bs).map aesUnsub) k))

def aesDecrypt (keys : List (List Byte)) (bs : List Byte) : List Byte :=
  match keys.reverse with | k :: ks => aesUnrounds ks (xorBytes bs k) | [] => bs

/-! ## XTS -/

/-- The masks of a line's sixteen blocks: the enciphered tweak, then each the one before times the generator of the field of
128 bits, little-endian. -/
def xtsMasks : Nat → Nat → List Nat
  | 0, _ => []
  | n + 1, t => t :: xtsMasks n (if t < 2 ^ 127 then 2 * t else (2 * t - 2 ^ 128) ^^^ 0x87)

/-- A 256-byte line enciphered, or deciphered, under a 512-bit key and a tweak. The key's low half, little-endian, enciphers the
data, its high half the tweak (log 11). -/
def xts (deciphers : Bool) (key : BitVec 512) (tweak : Nat) (line : List Byte) : List Byte :=
  let data := aesRoundKeys (bytesOf 32 (fld key 0 256))
  let mask := natOf (aesEncrypt (aesRoundKeys (bytesOf 32 (fld key 256 256))) (bytesOf 16 tweak))
  ((xtsMasks 16 mask).zipIdx).flatMap fun p =>
    let m := bytesOf 16 p.1
    let b := xorBytes ((line.drop (16 * p.2)).take 16) m
    xorBytes (if deciphers then aesDecrypt data b else aesEncrypt data b) m

end Sys2Proof.Machine
end

