-- ==== Sys2Proof/Machine/Evacuate.lean ====
section
/-! DEFINITION. Evacuating a buffer die (23 R429-R433), and an uncorrectable unit (20 R371, R372, R375, 23 R428). -/

namespace Sys2Proof.Machine

/-! ## Extents (R430) -/

/-- The physical address an extent starts at; a generation has none of its own. -/
def Extent.pa : Extent → Nat
  | .generation _ => 0
  | .leaf _ _ _ _ pa => pa
  | .range _ _ pa _ _ => pa
  | .log pa _ => pa
  | .save _ _ pa _ => pa

/-- The bytes of an extent. -/
def State.extentSize (s : State) (slot : Nat) (x : Extent) : Nat :=
  match x with
  | .generation n => match ((s.die slot).ckSet n).current with | some g => (g.extents.map fun e => e.2.length).sum | none => 0
  | .leaf _ _ n bytes _ => n * bytes
  | .range _ _ _ size _ => size
  | .log _ size => size
  | .save _ _ _ size => size

/-- The extents of a launch on a slot. -/
def State.launchExtents (s : State) (l : Launch) (slot : Nat) : List Extent :=
  let ranges := (s.rangeList l.image 0).filterMap fun r =>
    if paSlot r.pa.toNat = slot ∧ r.rights ≠ 0 then some (.range l.image r.index r.pa.toNat (r.limit.toNat + 1 - r.base.toNat) r.rights.toNat) else none
  let asid := s.lrAsid l.image
  ranges ++ ((s.spaceLeaves (s.lrHomeBd l.image) asid).filter fun x => paSlot x.2.2.2 == slot).map fun x =>
    .leaf asid x.1 x.2.1 x.2.2.1 x.2.2.2

/-- The save areas of a launch on a slot (R418). -/
def Launch.savesOn (l : Launch) (slot : Nat) : List Extent :=
  (l.areas.filter fun p => paSlot p.2.1 == slot).map fun p => .save l.seq p.1 p.2.1 (p.2.2 + 1)

/-- What a launch holds on a slot: its teams' save areas and what it maps (R430). -/
def State.extentsFor (s : State) (l : Launch) (slot : Nat) : List Extent := l.savesOn slot ++ s.launchExtents l slot

/-- The place of a tenant in the order of provisioning; tenant 0 comes last (R430). -/
def State.tenantRank (s : State) (tag : Nat) : Nat :=
  match s.trust.tenants.findIdx? fun t => t.tag.toNat == tag with
  | some k => k
  | none => if tag = 0 then 2 ^ 17 else 2 ^ 16

/-- Whether an address lies in a region that a tenant's provisioning named as pinned. -/
def State.pinnedRegion (s : State) (pa : Nat) : Bool :=
  s.trust.tenants.any fun t => t.entries.any fun g =>
    g.pinned && g.slot == paSlot pa && decide (g.entry.base.toNat ≤ paOff pa) && decide (paOff pa ≤ g.entry.limit.toNat)

/-- The place of an extent in the order of R430: checkpoint regions, pinned regions, then the rest by tenant and address. -/
def State.extentRank (s : State) (tag : Nat) (x : Extent) : Nat :=
  match x with
  | .generation n => n
  | .save _ _ pa _ => 2 ^ 16 + pa
  | x => if s.pinnedRegion x.pa then 2 ^ 58 + x.pa else 2 ^ 60 + s.tenantRank tag * 2 ^ 60 + x.pa

def insertRanked (x : Nat × Extent) : List (Nat × Extent) → List (Nat × Extent)
  | [] => [x]
  | y :: ys => if x.1 < y.1 then x :: y :: ys else y :: insertRanked x ys

/-- The extents that lie on a BD, in the order in which they move: FLOG goes with tenant 0's (R430; log 27). -/
def State.extentsOn (s : State) (slot : Nat) : List Extent :=
  let gens := (((s.die slot).ckpt.filter fun p => p.2.current.isSome).map fun p => (p.1, Extent.generation p.1))
  let mapped := (s.launches.filter Launch.bound).flatMap fun l =>
    (s.extentsFor l slot).map fun x => (s.extentRank (s.lrTenant l.image) x, x)
  let base := fld s.mgmt.flog 12 44 * 4096
  let log : List (Nat × Extent) :=
    if inBd base && paSlot base == slot then [(s.extentRank 0 (.log base 0), .log base (64 * 2 ^ fld s.mgmt.flog 0 4))] else []
  (((gens ++ mapped ++ log).foldl (fun l x => insertRanked x l) []).map (·.2)).eraseDups

/-- Whether a launch pins both BDs of a quadrant, one of them this one (R430). -/
def State.pinsBoth (s : State) (l : Launch) (slot : Nat) : Bool := s.pins l slot && s.pins l (otherBd slot)

/-- Whether an extent belongs to a launch that cannot be rebound. -/
def State.stuck (s : State) (slot : Nat) (x : Extent) : Bool :=
  (s.launches.filter fun l => l.bound && s.pinsBoth l slot).any fun l => (s.extentsFor l slot).contains x

/-! ## Where an extent can go (R430) -/

/-- The first offset of the 64 KiB granule of an offset, and the end of the granules of a run: access-table entries cover granules
(R353). -/
def granule (off : Nat) : Nat := off / 65536 * 65536
def granuleEnd (off n : Nat) : Nat := ceilDiv (off + n) 65536 * 65536

/-- Whether an entry is valid and meets the granules of an offset range. -/
def entryMeets (a : AccEntry) (off n : Nat) : Bool :=
  a.rights.getLsbD 3 && decide (a.base.toNat < granuleEnd off n) && decide (granule off ≤ a.limit.toNat)

/-- Whether the granules of an offset range of a BD meet a valid entry of its table. -/
def Die.covered (d : Die) (off n : Nat) : Bool := d.acc.any fun a => entryMeets a off n

/-- The end of a BD's HBM4E below its checkpoint area, which the spec does not place: at the top (log 27). -/
def hbmEnd (slot : Nat) : Nat := 0x12000000000 - min 0x2000000000 (Config.ckptBytes slot)

/-- What lies in a BD's HBM4E without an access-table entry of its own: save areas and the fault log, with the ends of their
granules (R418, R430; log 27). -/
def State.hdAreas (s : State) (slot : Nat) : List (Nat × Nat) :=
  let saves := (s.launches.filter Launch.bound).flatMap fun l => l.savesOn slot
  let log := Extent.log (fld s.mgmt.flog 12 44 * 4096) (64 * 2 ^ fld s.mgmt.flog 0 4)
  ((saves ++ if paSlot log.pa = slot then [log] else []).filter fun x => decide (0x10000000000 ≤ paOff x.pa)).map fun x =>
    (granule (paOff x.pa), granuleEnd (paOff x.pa) (s.extentSize slot x))

/-- The lowest free offset for `n` bytes in a BD's HBM4E that lies as an offset does in a block of `align` bytes (log 27). -/
def State.freeHbm (s : State) (slot n align off : Nat) : Option Nat :=
  let d := s.die slot
  let held := s.hdAreas slot
  let up (x : Nat) : Nat := ceilDiv x align * align + off % align
  let ends := (d.acc.map fun (a : AccEntry) => max 0x10000000000 (a.limit.toNat + 1)) ++ held.map fun (h : Nat × Nat) => h.2
  let starts := (0x10000000000 :: ends).map up
  (starts.filter fun o => decide (granuleEnd o n ≤ hbmEnd slot) && !d.covered o n && !held.any fun h => decide (h.1 < granuleEnd o n) && decide (granule o < h.2)).min?

/-- The alignment of an extent's new place: a leaf keeps its own, all others their place in a granule. -/
def Extent.align : Extent → Nat
  | .leaf _ _ n bytes _ => max 65536 (n * bytes)
  | _ => 65536

/-- The BDs an extent may go to: the other of the quadrant, then in ascending slot order (R430). -/
def State.targets (s : State) (slot : Nat) : List Nat :=
  let other := otherBd slot
  let rest := (List.range 36).filter fun k => dieKind k == some .bd && k != slot && k != other
  ((other :: rest).filter fun k => s.usable k)

/-- The entries of a BD's table that meet an extent. -/
def Die.entriesOf (d : Die) (off n : Nat) : List AccEntry := d.acc.filter fun a => entryMeets a off n

/-- The part of an entry that covers the granules of an extent (R353). -/
def entryCut (a : AccEntry) (off n : Nat) : AccEntry :=
  { a with base := BitVec.ofNat 48 (max a.base.toNat (granule off)), limit := BitVec.ofNat 48 (min a.limit.toNat (granuleEnd off n - 1)) }

/-- An entry of an extent at `off`, for the same extent at `goal`, with another key slot. -/
def entryMoved (a : AccEntry) (off goal key : Nat) : AccEntry :=
  { a with base := BitVec.ofNat 48 (a.base.toNat + goal - off), limit := BitVec.ofNat 48 (a.limit.toNat + goal - off), key := BitVec.ofNat 8 key }

/-- Where a BD holds, or can take, a key that another BD holds for a tenant (R355, R430): the slot, and the key when it is to be loaded. -/
def Die.placeKey (d : Die) (key : KeySlot) : Option (Nat × Option KeySlot) :=
  match d.keys.find? fun p => p.2.tenant == key.tenant && p.2.key == key.key with
  | some p => some (p.1, none)
  | none => (((List.range 16).drop 1).find? fun j => (d.keys.find j).isNone).map fun j => (j, some { key with reload := none })

/-- The BD that takes entries of an extent, and the entries as it holds them; none when its table or its key slots have no room
(R353, R430). `keyOf` is the key that an entry names. -/
def Die.takeEntries (d : Die) (keyOf : AccEntry → Option KeySlot) (off goal : Nat) : List AccEntry → Option (Die × List AccEntry)
  | [] => some (d, [])
  | a :: as =>
    let put (d : Die) (k : Nat) : Option (Die × List AccEntry) :=
      let e := entryMoved a off goal k
      if 128 ≤ d.acc.length then none
      else (Die.takeEntries { d with acc := d.acc ++ [e] } keyOf off goal as).map fun p => (p.1, e :: p.2)
    match keyOf a with
    | none => put d 0
    | some key => match d.placeKey key with
      | none => none
      | some (k, none) => put d k
      | some (k, some v) => put { d with keys := d.keys.put k v } k

/-- The key that an entry of a BD names. -/
def State.keyNamed (s : State) (slot : Nat) (a : AccEntry) : Option KeySlot :=
  if fld a.key 0 4 = 0 then none else (s.die slot).keys.find (fld a.key 0 4)

/-- A BD with the entries of an extent of another BD, and those entries (R430). -/
def State.moveEntries (s : State) (src dst off n goal : Nat) : Option (Die × List AccEntry) :=
  (s.die dst).takeEntries (s.keyNamed src) off goal (((s.die src).entriesOf off n).map fun a => entryCut a off n)

/-- A place for an extent on a BD: its physical address. -/
def State.placeOn (s : State) (slot dst : Nat) (x : Extent) : Option Nat :=
  let n := s.extentSize slot x
  match x with
  | .generation k =>
    if ((s.die dst).ckSet k).current.isNone && decide ((s.die dst).ckBytes + n ≤ Config.ckptBytes dst) then some 0 else none
  | x =>
    match placeOf x.pa with
    | .bdSram _ off =>
      if dst = otherBd slot ∧ !(s.die dst).covered off n ∧ !s.slotGone dst ∧ off + n ≤ explicitBytes (s.die dst).bdcfg ∧ (s.moveEntries slot dst off n off).isSome
      then some (paOf dst off) else none
    | _ =>
      match s.freeHbm dst n x.align (paOff x.pa) with
      | some o => if (s.moveEntries slot dst (paOff x.pa) n o).isSome then some (paOf dst o) else none
      | none => none

/-- Where an extent goes, or none when it fits nowhere. -/
def State.destination (s : State) (slot : Nat) (x : Extent) : Option (Nat × Nat) :=
  if s.stuck slot x then none
  else (s.targets slot).findSome? fun dst => (s.placeOn slot dst x).map fun pa => (dst, pa)

/-! ## Sealed lines (R355) -/

/-- The key under which a BD holds the line of an offset: that of the first valid entry over it in HBM4E. -/
def Die.lineKey (d : Die) (off : Nat) : Option (BitVec 512) :=
  if off < 0x10000000000 then none
  else match d.acc.find? fun a => a.rights.getLsbD 3 && decide (a.base.toNat ≤ off) && decide (off ≤ a.limit.toNat) with
    | some a => if fld a.key 0 4 = 0 then none else (d.keys.find (fld a.key 0 4)).map fun k => k.key
    | none => none

/-- A line's plaintext as a table holds it, from its plaintext under another table: what lies in HBM4E stays (R355). -/
def recipher (old new : Option (BitVec 512)) (tweak : Nat) (bs : List Byte) : List Byte :=
  let raw := match old with | some k => xts false k tweak bs | none => bs
  match new with | some k => xts true k tweak raw | none => raw

/-- A change of a BD's table or keys: a line whose key changes reads as its bytes in HBM4E decipher under the new one. A line of
zeros reads zero under every key (log 11). -/
def State.retable (s : State) (slot : Nat) (f : Die → Die) : State :=
  let old := s.die slot
  let new := f old
  let lines := ((s.mem.filter fun c => paSlot c.1 == slot && decide (0x10000000000 ≤ paOff c.1)).map fun c => c.1 / 256).eraseDups
  (lines.filter fun l => old.lineKey (paOff (256 * l)) != new.lineKey (paOff (256 * l))).foldl
    (fun (s : State) l => s.store (256 * l) (recipher (old.lineKey (paOff (256 * l))) (new.lineKey (paOff (256 * l))) l (s.bytes (256 * l) 256)))
    (s.setDie slot new)

/-! ## Moving (R430) -/

/-- Write the physical address of a page-table entry. -/
def State.setPte (s : State) (pte : Nat) (valid : Bool) (pa : Nat) : State :=
  let v := setFld (setFld (s.pte pte) 12 44 (pa / 4096)) 0 1 (if valid then 1 else 0)
  s.store pte (bytesOf 8 v.toNat)

/-- Rewrite what maps an extent: the leaf's entries, the range list and every die's range table, or FLOG (R430). `valid`
false makes the translation invalid (R431). -/
def State.remap (s : State) (x : Extent) (valid : Bool) (pa : Nat) : State :=
  match x with
  | .generation _ => s
  | .leaf _ pte n bytes _ => (List.range n).foldl (fun (s : State) k => s.setPte (pte + 8 * k) valid (pa + k * bytes)) s
  | .range i k _ _ rights =>
    let r := if valid then rights else 0
    let at_ := s.rangePa i + 32 * k
    let asid := BitVec.ofNat 16 (s.lrAsid i)
    let s1 := (s.store (at_ + 20) (bytesOf 7 pa)).store (at_ + 27) (bytesOf 1 r)
    { s1 with dies := s1.dies.map fun (p : Nat × Die) => (p.1, { p.2 with ranges := p.2.ranges.map fun (e : RangeEntry) =>
        if e.asid = asid ∧ e.index = k then { e with pa := BitVec.ofNat 56 pa, rights := BitVec.ofNat 8 r } else e }) }
  | .log _ _ => { s with mgmt := { s.mgmt with flog := setFld s.mgmt.flog 12 44 (pa / 4096) } }
  | .save seq team _ size => s.updLaunch seq fun l => { l with areas := l.areas.put team (pa, size - 1) }

/-- The address space of an extent. -/
def State.extentAsid (s : State) (x : Extent) : Option Nat :=
  match x with
  | .leaf asid _ _ _ _ => some asid
  | .range i _ _ _ _ => some (s.lrAsid i)
  | _ => none

/-- Complete a translation-invalidate of a whole address space (R103). -/
def State.invalidate (s : State) (asid : Option Nat) : State :=
  match asid with
  | none => s
  | some a => match execTranslationInvalidate a 0 (BitVec.allOnes 80) none s with
    | .next s' => s'
    | _ => s

/-- Copy bytes with master 0xFFFE; poison goes with them. -/
def State.copyBytes (s : State) (src dst n : Nat) : State :=
  let bad := (s.poison.filter fun u => decide (src ≤ u) && decide (u < src + n)).map fun u => unitOf (dst + (u - src))
  let s1 := s.store dst (s.bytes src n)
  { s1 with poison := (s1.poison ++ bad).eraseDups }

/-- Remove the entries of a BD that cover an extent and nothing that remains on it, and with them the grants they come from. -/
def State.dropEntries (s : State) (slot off n : Nat) (rest : List Extent) : State :=
  let gone (a : AccEntry) : Bool := entryMeets a off n && !rest.any fun x => paSlot x.pa == slot && entryMeets a (paOff x.pa) (s.extentSize slot x)
  let old (g : GrantEntry) : Bool := g.slot == slot && gone g.entry
  let s1 := s.retable slot fun d => { d with acc := d.acc.filter fun a => !gone a }
  { s1 with trust := { s1.trust with tenants := s1.trust.tenants.map fun (t : Tenant) => { t with entries := t.entries.filter fun g => !old g } } }

/-- The grants whose entries meet an extent of a BD, cut to it, with the tags of their tenants (R351). -/
def State.grantsOf (s : State) (slot off n : Nat) : List (BitVec 16 × GrantEntry) :=
  s.trust.tenants.flatMap fun t => (t.entries.filter fun g => g.slot == slot && entryMeets g.entry off n).map fun g => (t.tag, { g with entry := entryCut g.entry off n })

/-- Give grants to their tenants for an extent's new place: a later RELEASE or REPROVISION removes its entries there (R351). `es` are
the entries written. -/
def State.giveGrants (s : State) (gs : List (BitVec 16 × GrantEntry)) (dst off goal : Nat) (es : List AccEntry) : State :=
  let at_ (g : GrantEntry) : Option GrantEntry :=
    (es.find? fun e => { e with key := 0 } == entryMoved g.entry off goal 0).map fun e => { g with slot := dst, entry := e }
  { s with trust := { s.trust with tenants := s.trust.tenants.map fun (t : Tenant) =>
      { t with entries := t.entries ++ (gs.filter fun p => p.1 == t.tag).filterMap fun p => at_ p.2 } } }

/-- Move one extent to its destination (R430). -/
def State.moveExtent (s : State) (slot : Nat) (x : Extent) (dst pa : Nat) : State :=
  let n := s.extentSize slot x
  match x with
  | .generation k =>
    let src := (s.die slot).ckSet k
    (s.updDie dst fun d => { d with ckpt := d.ckpt.put k { d.ckSet k with current := src.current, last := max (d.ckSet k).last src.last } }).updDie slot
      fun d => { d with ckpt := d.ckpt.put k { src with current := none } }
  | x =>
    match s.moveEntries slot dst (paOff x.pa) n (paOff pa) with
    | none => s
    | some (d, es) =>
      let gs := s.grantsOf slot (paOff x.pa) n
      let s1 := ((s.retable dst fun _ => d).copyBytes x.pa pa n).giveGrants gs dst (paOff x.pa) (paOff pa) es
      let s2 := (s1.remap x true pa).invalidate (s.extentAsid x)
      s2.dropEntries slot (paOff x.pa) n (s2.extentsOn slot)

/-! ## Spilling (R431) -/

/-- Bytes already in the spill region. -/
def State.spillUsed (s : State) : Nat := (s.trust.spilled.map fun x => x.data.length).sum

/-- Whether an extent still fits in the spill region. -/
def State.spillFits (s : State) (slot : Nat) (x : Extent) : Bool :=
  decide (s.spillUsed + s.extentSize slot x ≤ fld s.mgmt.spillsize 0 32 * 2 ^ 20)

/-- A run of a BD in the form that leaves the package: the bytes of sealed lines in XTS form, the others as they are (R355, R431). A
sealed line that the run covers in part is taken with zeros for the rest of it (log 11). -/
def State.outerForm (s : State) (pa : Nat) (bs : List Byte) : List Byte :=
  let first := pa / 256
  let pad := List.replicate (pa % 256) (0 : Byte) ++ bs
  let line (k : Nat) : List Byte :=
    let l := (pad.drop (256 * k)).take 256
    match (s.die (paSlot pa)).lineKey (paOff (256 * (first + k))) with
    | some key => xts false key (first + k) (l ++ List.replicate (256 - l.length) 0)
    | none => l
  ((List.range (ceilDiv pad.length 256)).flatMap line).drop (pa % 256)

/-- What leaves for host memory: each run of an extent in its outer form (R431). -/
def State.spillForm (s : State) (x : Extent) (gen : Option Generation) (bs : List Byte) : List Byte :=
  match gen with
  | some g => g.extents.flatMap fun e => s.outerForm e.1 e.2
  | none => s.outerForm x.pa bs

/-- Spill one extent; its translations are made invalid (R431). -/
def State.spillExtent (s : State) (slot : Nat) (x : Extent) : State :=
  let n := s.extentSize slot x
  let gen := match x with | .generation k => ((s.die slot).ckSet k).current | _ => none
  let bs := match gen with | some g => g.extents.flatMap (·.2) | none => s.bytes x.pa n
  let off := paOff x.pa
  let es := match gen with | some _ => [] | none => ((s.die slot).entriesOf off n).map fun a => entryCut a off n
  let gs := match gen with | some _ => [] | none => s.grantsOf slot off n
  let sp : Spill := ⟨slot, x, es, gs, bs, gen⟩
  let out := Output.hostWrite (fld s.mgmt.spillbase 12 52 * 4096 + s.spillUsed) (s.spillForm x gen bs)
  let s1 := { s with trust := { s.trust with spilled := s.trust.spilled ++ [sp] }, outbox := s.outbox ++ [out] }
  match x with
  | .generation k => s1.updDie slot fun d => { d with ckpt := d.ckpt.put k { d.ckSet k with current := none } }
  | x =>
    let s2 := (s1.remap x false x.pa).invalidate (s.extentAsid x)
    s2.dropEntries slot (paOff x.pa) n (s2.extentsOn slot)

/-! ## Launches under an evacuation (R430-R432) -/

/-- Whether a spilled extent belongs to a launch. -/
def State.spilledOf (s : State) (l : Launch) : Bool :=
  s.trust.spilled.any fun x => match x.what with
    | .leaf asid _ _ _ _ => asid == s.lrAsid l.image
    | .range i _ _ _ _ => i == l.image
    | .save seq _ _ _ => seq == l.seq
    | _ => false

/-- The root pointers of a BD go to the other one with the launches that leave it. -/
def State.moveRoots (s : State) (slot : Nat) : State :=
  let rs := (s.die slot).roots
  s.updDie (otherBd slot) fun d => { d with roots := rs.foldl (fun (m : AMap Nat) p => m.put p.1 p.2) d.roots }

/-- A launch whose extents have all left goes on, bound to the other BD where it pinned this one (R430, R432). -/
def State.releaseLaunch (s : State) (slot : Nat) (l : Launch) : State :=
  if !l.waits || s.spilledOf l || !(s.extentsFor l slot).isEmpty || s.pinsBoth l slot then s
  else
    let pins := s.pins l slot || s.lrHomeBd l.image == slot
    let s1 := s.updLaunch l.seq fun l => { l with
      waits := false, bind := l.bind.map fun p => if p.2 = slot then (p.1, otherBd slot) else p }
    if pins then { s1 with mgmt := { s1.mgmt with moved := s1.mgmt.moved ++ [(l.image, slot)] } }.moveRoots slot else s1

def State.releaseAll (s : State) (slot : Nat) : State := s.launches.foldl (fun (s : State) l => s.releaseLaunch slot l) s

/-- Set EVACCTL's status; go reads 1 while it is 1 or 3 (R429). -/
def State.setEvac (s : State) (status short : Nat) : State :=
  let v := setFld (setFld (setFld s.mgmt.evacctl 16 4 status) 40 24 short) 0 1 (if status = 1 ∨ status = 3 then 1 else 0)
  { s with mgmt := { s.mgmt with evacctl := v } }

/-- Everything has left: the BD is lost with reason 5, and whoever pins it binds to the other (R430, R431). -/
def State.finishEvac (s : State) (slot : Nat) : State :=
  let s1 := (s.releaseAll slot).setEvac 2 0
  { s1 with mgmt := { s1.mgmt with
      moved := s1.mgmt.moved ++ ((List.range 64).map fun i => (i, slot)).filter fun p => !s1.mgmt.moved.contains p } }.loseDie slot 5

/-- Extents remain: each launch held for them has one record and one completion record (R432). -/
def State.shortEvac (s : State) (slot : Nat) (xs : List Extent) : State :=
  let mib := ceilDiv ((xs.map fun x => s.extentSize slot x).sum) (2 ^ 20)
  let s1 := (s.releaseAll slot).setEvac 3 mib
  (s1.launches.filter fun l => l.waits && (!(s1.extentsFor l slot).isEmpty || s1.pinsBoth l slot)).foldl (fun (s : State) l =>
    s.fault { teamEv s l.seq (2 ^ 32 - 1) 0x0302 (slot + mib % 2 ^ 32 * 256) 1 36 with after := .report l [(0, clKey 36 0)] 3 }) s1

/-- Start the evacuation of a BD; ignored while one runs (R429, R430). -/
def State.startEvac (s : State) (slot : Nat) (auto : Bool) : State :=
  if evacActive s.mgmt.evacctl ∨ dieKind slot ≠ some .bd ∨ s.slotGone slot then s
  else
    let v := setFld (setFld (setFld s.mgmt.evacctl 32 8 slot) 1 1 (if auto then 1 else 0)) 40 24 0
    let s1 := { s with mgmt := { s.mgmt with evacctl := v, evacFrom := slot } }.setEvac 1 0
    { s1 with launches := s1.launches.map fun (l : Launch) =>
        if l.bound && (s.pins l slot || s.mapsSlot l slot) then { l with waits := true } else l }

/-- EVACUATION_START: EVACCTL go (R429). -/
def execEvacuationStart (s : State) : Out := .next (s.startEvac (fld s.mgmt.evacctl 32 8) false)

/-- Whether a launch that an evacuation holds is still in a course. -/
def State.evacWaits (s : State) : Bool := s.launches.any fun l => l.waits && l.state == .inCourse

/-- The first extent that can move, with its destination. -/
def State.movable (s : State) (slot : Nat) : Option (Extent × Nat × Nat) :=
  (s.extentsOn slot).findSome? fun x => (s.destination slot x).map fun d => (x, d.1, d.2)

/-- EXTENT_MOVE: the next extent moves; with none that fits, the next is spilled; then the evacuation is done or short
(R430-R432). -/
def execExtentMove (s : State) : Out :=
  let slot := s.mgmt.evacFrom
  if fld s.mgmt.evacctl 16 4 ≠ 1 ∨ s.evacWaits then .next s
  else match s.movable slot with
    | some (x, dst, pa) => .next (s.moveExtent slot x dst pa)
    | none =>
      let xs := s.extentsOn slot
      match xs.find? fun x => s.spillFits slot x with
      | some x => .next (s.spillExtent slot x)
      | none => .next (if xs.isEmpty then s.finishEvac slot else s.shortEvac slot xs)

/-- EVACUATION_RESUME: with capacity free again a remaining extent moves; the last to go ends the evacuation (R432). -/
def execEvacuationResume (s : State) : Out :=
  let slot := s.mgmt.evacFrom
  if fld s.mgmt.evacctl 16 4 ≠ 3 then .next s
  else match s.movable slot with
    | none => .next s
    | some (x, dst, pa) =>
      let s1 := (s.moveExtent slot x dst pa).releaseAll slot
      .next (if (s1.extentsOn slot).isEmpty then s1.finishEvac slot else s1)

/-- The key with which a spilled extent's entry is sealed again: that of its tenant (R351, R431). -/
def State.returnKey (s : State) (a : AccEntry) : Option KeySlot :=
  if fld a.key 0 4 = 0 then none
  else (s.trust.tenants.find? fun t => t.tag == a.master).map fun t => ⟨t.tag, t.key, none⟩

/-- A place for a spilled extent: the BD, the physical address, the BD with the extent's entries, and those entries. -/
def State.spillHome (s : State) (x : Spill) : Option (Nat × Nat × Die × List AccEntry) :=
  (List.range 36).findSome? fun k =>
    if dieKind k ≠ some .bd ∨ !s.usable k ∨ k = x.slot then none
    else match x.what with
      | .generation n =>
        if ((s.die k).ckSet n).current.isNone && decide ((s.die k).ckBytes + x.data.length ≤ Config.ckptBytes k) then some (k, 0, s.die k, []) else none
      | w => (s.freeHbm k x.data.length w.align (paOff w.pa)).bind fun o =>
        ((s.die k).takeEntries s.returnKey (paOff w.pa) o x.entries).map fun p => (k, paOf k o, p)

/-- SPILLED_EXTENT_RETURN: a spilled extent comes back into free HBM4E; its launch goes on when all of them are back
(R431). -/
def execSpilledExtentReturn (s : State) : Out :=
  match s.trust.spilled.findSome? fun x => (s.spillHome x).map fun d => (x, d) with
  | none => .next s
  | some (x, k, pa, d, es) =>
    let s0 := { s with trust := { s.trust with spilled := s.trust.spilled.erase x } }
    let s1 := match x.what with
      | .generation n => s0.updDie k fun d => { d with ckpt := d.ckpt.put n { d.ckSet n with current := x.gen } }
      | w => ((((s0.retable k fun _ => d).store pa x.data).giveGrants x.grants k (paOff w.pa) (paOff pa) es).remap w true pa).invalidate (s.extentAsid w)
    .next (s1.releaseAll x.slot)

/-! ## Uncorrectable errors (R371, R372, R375, R428) -/

/-- UNCORRECTABLE_ERROR: the unit is poisoned without a record and counted; in scheduler memory it is a package-level fault;
a BD over its limits is evacuated, and a die over its own is lost (R372, R375, R428, R434). -/
def execUncorrectableError (pa : Nat) (s : State) : Out :=
  let slot := paSlot pa
  let s1 := (s.poisonUnit pa).countUncorr slot
  let hd (s : State) : State := if 16 ≤ s.uncorrDay 36 then s.schedError.loseDie 36 3 else s.schedError
  match placeOf pa with
  | .nothing => .next s
  | .mgmt _ => .next (if slot = 36 then hd (s.countUncorr slot) else s)
  | .sched _ => .next (hd s1)
  | _ =>
    if 16 ≤ s1.uncorrDay slot ∧ slot ≠ 36 then .next (s1.loseDie slot 3)
    else if dieKind slot = some .bd ∧ (4 ≤ s1.uncorrDay slot ∨ 64 ≤ s1.poisonCount slot) then .next (s1.startEvac slot true)
    else .next s1

end Sys2Proof.Machine
end

