-- ==== Sys2Proof/Machine/Switch.lean ====
section
/-! DEFINITION. The switch engine's instructions (10 R275-R278): messages, armed launches and collectives. The other
packages of a pod are outside the machine: what they contribute is free (log 2). -/

namespace Sys2Proof.Machine

/-! ## Messages and armed launches (R277, R278) -/

/-- The package's number in the pod (R357). -/
def State.package (s : State) : BitVec 12 := s.mgmt.podcfg.extractLsb' 0 12

/-- The flow of a package and a tag (R356). -/
def flowKey (pkg : BitVec 12) (tag : BitVec 16) : Nat := pkg.toNat * 65536 + tag.toNat

/-- The port of its SD by which a master sends: the lowest that the SD's table admits it on, or the denial of port 0 (R353, R356;
log 58). -/
def State.sendPort (s : State) (slot : Nat) (master : BitVec 16) : Except MemFault Nat :=
  let judge (p : Nat) : Option MemFault := admitBy (s.die slot).acc master (p * 0x10000) rWrite (paOf slot (p * 0x10000)) slot 0
  match ([0, 1, 2] : List Nat).find? (fun p => (judge p).isNone), judge 0 with
  | some p, _ => .ok p
  | none, some f => .error f
  | none, none => .ok 0

/-- A message as packets of at most 9,000 payload bytes, in order, numbered in its flow (R356; log 58). -/
def podFrames (port number : Nat) (m : Message) : List PodPacket :=
  let n := max 1 (ceilDiv m.payload.length 9000)
  (List.range n).map fun k => ⟨port, number + k, true, { m with payload := (m.payload.drop (9000 * k)).take 9000 }, decide (k + 1 < n)⟩

/-- Hand a message to the pod transport: its packets leave by a port of the SD's own quadrant, and are kept for retransmission
(R356). -/
def State.sendPod (s : State) (slot p : Nat) (m : Message) : State :=
  let k := flowKey m.dst m.tag
  let n := s.trust.podSent.getD k 0
  let ps := podFrames (3 * (slot / 9) + p) n m
  { s with
    outbox := s.outbox ++ ps.map fun x => .pod x.port x
    trust := { s.trust with podSent := s.trust.podSent.put k (n + ps.length), podKept := s.trust.podKept ++ ps } }

/-- The scope code of a pod (R125). -/
def podScope : Nat := 5

/-- msend: sends val(x) bytes from EA under a tag to a package, as a release at pod scope (R277). -/
def execMsend (f : LG) (s : State) : Out :=
  onEngine s fun e c =>
    let va := e.val80 f.a.toNat + BitVec.ofInt 80 f.imm.val
    let n := (e.val f.x.toNat).toNat
    guarded s e c [e.destOf f.a.toNat, e.destOf f.x.toNat, e.destOf f.d.toNat] [] [scopeFault f.scope f.imm.len 0x380 44] <|
      if s.acquiring e ∨ s.unreleased s.cur e c podScope then .next (holdOne s)
      else onReach s e (s.takeReach s.cur e pathK f.cls.toNat rRead va n) fun pas =>
        match s.sendPort s.cur.slot e.master with
        | .error x => .next (accessFault s e va x)
        | .ok port =>
          let d := e.val f.d.toNat
          let m : Message :=
            ⟨d.extractLsb' 0 16, s.package, d.extractLsb' 16 12, e.master, e.seq, e.team, (s.viewAll (.eng s.cur) pas).flatten⟩
          finish (s.sendPod s.cur.slot port m) e c f.imm.words f.stall.toNat []

/-- Put an entry into a launch table of 256: it replaces the entry of its tag; with the table full of other tags, the entry
it replaces is not stated (log 2). -/
def armEntry (k : Nat) (l : List Armed) (a : Armed) : List Armed :=
  let rest := l.filter fun x => x.tag != a.tag
  if rest.length < 256 then rest ++ [a] else rest.eraseIdx (Config.pick k 0 % 256) ++ [a]

/-- karm: copies a descriptor into the SD's launch table under a tag (R278). -/
def execKarm (f : LG) (s : State) : Out :=
  onEngine s fun e c =>
    let va := e.val80 f.a.toNat + BitVec.ofInt 80 f.imm.val
    guarded s e c [e.destOf f.a.toNat, e.destOf f.d.toNat] [] [] <|
      if s.acquiring e then .next (holdOne s)
      else onReach s e (s.takeReach s.cur e pathK f.cls.toNat rRead va 64) fun pas =>
        let a : Armed := ⟨(e.val f.d.toNat).extractLsb' 0 16, (s.viewAll (.eng s.cur) pas).flatten⟩
        let (k, s) := s.draw
        finish (s.updDie s.cur.slot fun d => { d with armed := armEntry k d.armed a }) e c f.imm.words f.stall.toNat []

/-- kdisarm: removes a tag's entry (R278). -/
def execKdisarm (f : LG) (s : State) : Out :=
  onEngine s fun e c =>
    guarded s e c [e.destOf f.d.toNat] [] [] <|
      let tag := (e.val f.d.toNat).extractLsb' 0 16
      finish (s.updDie s.cur.slot fun d => { d with armed := d.armed.filter fun a => a.tag != tag }) e c f.imm.words f.stall.toNat []

/-! ## Collectives (R275, R276) -/

/-- The collectives. -/
inductive Coll
  | red (unordered : Bool) (ty : BitVec 3)
  | gath
  | bcast (root : Nat)
  | sync
  deriving DecidableEq, Repr

/-- A member's call: what it does, its count or length, its buffer's address and its group descriptor's. -/
structure Call where
  coll : Coll
  n : Nat
  va : Addr
  gva : Addr
  cls : Nat
  words : Nat
  stall : Nat
  deriving DecidableEq, Repr

/-- The call an instruction makes, by the registers of an engine. -/
def collOf (i : Instr) (e : Engine) : Option Call :=
  let mk (k : Coll) (f : LG) (n : Nat) (off : Int) : Call :=
    ⟨k, n, e.val80 f.a.toNat + BitVec.ofInt 80 off, e.val80 f.x.toNat, f.cls.toNat, f.imm.words, f.stall.toNat⟩
  match i with
  | .kred f => some (mk (.red (f.mod.getLsbD 2) (BitVec.ofNat 3 (f.imm.bits % 8))) f (e.val f.b.toNat).toNat 0)
  | .kgath f => some (mk .gath f (e.val f.b.toNat).toNat f.imm.val)
  | .kbcast f => some (mk (.bcast (fld (e.val f.d.toNat) 0 14)) f (e.val f.b.toNat).toNat f.imm.val)
  | .ksync f => some (mk .sync f 0 0)
  | _ => none

/-- Members of a group descriptor: package and quadrant, in rank order (R275). -/
def groupMembers (b : List Byte) : List (Nat × Nat) :=
  (List.range (bytesFld b 0 2)).map fun k => let v := bytesFld b (16 + 2 * k) 2; (v % 4096, v / 4096 % 4)

/-- The bytes of a call's buffer that it writes, in a group of `k` (R276). -/
def Call.bytes (c : Call) (k : Nat) : Nat :=
  match c.coll with
  | .red _ t => c.n * typeBytes t
  | .gath => k * c.n
  | .bcast _ => c.n
  | .sync => 0

/-- Where in its buffer the member of rank `r` has what it contributes, and how many bytes (R276). -/
def Call.source (c : Call) (r : Nat) : Nat × Nat :=
  match c.coll with
  | .red _ t => (0, c.n * typeBytes t)
  | .gath => (r * c.n, c.n)
  | .bcast root => (0, if r = root then c.n else 0)
  | .sync => (0, 0)

/-- The contribution of a member of another package: free (log 2). -/
def freeBytes (k n : Nat) : List Byte := (List.range n).map fun i => Config.freeByte (k + i)

/-- Element `i` of a reduction of contributions (R145, R276). -/
def reduceElem (unord : Bool) (t : BitVec 3) (k i : Nat) (cs : List (List Byte)) : List Byte :=
  let w := typeBytes t
  let vs := cs.map fun b => natOf ((b.drop (i * w)).take w)
  if t = 4 ∨ t = 5 then
    let xs := vs.map fun v => widenOpnd t (BitVec.ofNat 64 v)
    let sum := if unord then someSum (k + i) (xs.length - 1) xs else xs.tail.foldl fadd32 (xs.headD 0)
    bytesOf w ((typeFmt t).round (val32 sum))
  else bytesOf w ((vs.foldl (· + ·) 0) % 2 ^ (8 * w))

/-- The bytes every member's buffer holds afterwards (R276). -/
def Call.result (c : Call) (k : Nat) (cs : List (List Byte)) : List Byte :=
  match c.coll with
  | .red u t => (List.range c.n).flatMap fun i => reduceElem u t k i cs
  | .gath => cs.flatten
  | .bcast root => cs.getD root []
  | .sync => []

/-- A member on this package that stands at its call: its engine, registers settled, its rank, and the pieces of its buffer that it
contributes and that it writes. -/
structure Member where
  id : EngId
  rank : Nat
  eng : Engine
  call : Call
  src : List (Nat × Nat)
  pas : List (Nat × Nat)

/-- The call at which an engine stands, once its cycle has begun and its sources are there. -/
def State.standing (s : State) (id : EngId) : Option (Engine × Call) :=
  let e0 := s.eng id
  if !s.engineDue id e0 then none
  else match s.found id .ke e0 with
    | .inst i =>
      let e := (e0.replayAt e0.nextIssue).settle e0.nextIssue
      if e.collected ∨ s.unreleased id e e.nextIssue podScope ∨ !e.inter.isEmpty then none else (collOf i e).map fun c => (e, c)
    | _ => none

/-- Whether two calls are of one collective (R276). -/
def Call.matches (a b : Call) : Bool := a.coll == b.coll && a.n == b.n

/-- The pieces that a member of rank `r` reads, and those it writes, of its buffer in a group of `k` (R276). -/
def State.buffer (s : State) (id : EngId) (e : Engine) (c : Call) (k r : Nat) : Except (Addr × MemFault) (List (Nat × Nat) × List (Nat × Nat)) :=
  match s.reachRun id e rRead (c.va + BitVec.ofNat 80 (c.source r).1, (c.source r).2), s.reachRun id e rWrite (c.va, c.bytes k) with
  | .ok src, .ok pas => .ok (src, pas)
  | .error x, _ => .error x
  | .ok _, .error x => .error x

/-- A member's rank: its own group descriptor says it (R275). -/
def State.ownRank (s : State) (id : EngId) (e : Engine) (c : Call) : Option Nat :=
  match s.reachRun id e rRead (c.gva, 16) with
  | .ok pas => some (bytesFld (s.viewAll (.eng id) pas).flatten 8 8)
  | .error _ => none

/-- A member, when it stands at a matching call (R276). -/
def State.member (s : State) (c : Call) (k : Nat) (id : EngId) : Option Member :=
  match s.standing id with
  | none => none
  | some (e, d) =>
    if !d.matches c then none
    else match s.ownRank id e d with
      | none => none
      | some r => match s.buffer id e d k r with
        | .ok (src, pas) => some ⟨id, r, e, d, src, pas⟩
        | .error _ => none

/-- The members of a group on this package, each at the call; none while one of them is not (R276). -/
def State.members (s : State) (c : Call) (ms : List (Nat × Nat)) : Option (List Member) :=
  (ms.filter fun p => p.1 == s.package.toNat).foldl (fun (l : Option (List Member)) p =>
    match l, s.member c ms.length ⟨p.2 * 9 + 8, 0, 0⟩ with
    | some l, some m => some (l ++ [m])
    | _, _ => none) (some [])

/-- The collective performs for every member on this package; the others learn that their part is complete (R276). -/
def State.collective (s : State) (c : Call) (ms : List (Nat × Nat)) (here : List Member) : State :=
  let k := s.fresh
  let n := c.bytes ms.length
  let one (r : Nat) : List Byte :=
    match here.find? fun m => m.rank == r with
    | some m => (s.viewAll (.eng m.id) m.src).flatten
    | none => freeBytes (k + r * n) (c.source r).2
  let out := c.result k ((List.range ms.length).map one)
  let s1 := here.foldl (fun (s : State) m => s.storePieces m.eng.seq m.eng.team m.pas (out.take n)) { s with fresh := k + (ms.length + 1) * (n + 1) }
  here.foldl (fun (s : State) m => s.updEng m.id fun e => { e with collected := true }) s1

/-- Whether every member is on this package, or a port lets the engine's packets out to the others (R325, R353). -/
def State.portFor (s : State) (e : Engine) (ms : List (Nat × Nat)) : Except MemFault Nat :=
  if ms.all fun p => p.1 == s.package.toNat then .ok 0 else s.sendPort s.cur.slot e.master

/-- A collective at its engine: it is held until every member on this package stands at its own; then it performs for all
of them, and each retires (R276, R279). -/
def collect (regs : List Nat) (i : Instr) (s : State) : Out :=
  onEngine s fun e c =>
    guarded s e c (regs.map e.destOf) [] [] <|
      match collOf i e with
      | none => .next s
      | some k =>
        if e.collected then finish s { e with collected := false } c k.words k.stall []
        else if s.acquiring e ∨ s.unreleased s.cur e c podScope then .next (holdOne s)
        else if k.gva.toNat % 64 ≠ 0 then .next (accessFault s e k.gva (.misaligned 6))
        else onReach s e (s.takeReach s.cur e pathK k.cls rRead k.gva 16) fun head =>
          let h := (s.viewAll (.eng s.cur) head).flatten
          onReach s e (s.takeReach s.cur e pathK k.cls rRead k.gva (16 + 2 * bytesFld h 0 2)) fun gpas =>
            let ms := groupMembers (s.viewAll (.eng s.cur) gpas).flatten
            let src := k.source (bytesFld h 8 8)
            onReach s e (s.takeReach s.cur e pathK k.cls rRead (k.va + BitVec.ofNat 80 src.1) src.2) fun _ =>
              onReach s e (s.takeReach s.cur e pathK k.cls rWrite k.va (k.bytes ms.length)) fun _ =>
                match s.portFor e ms, s.members k ms with
                | .error x, _ => .next (accessFault s e k.va x)
                | .ok _, none => .next (holdOne s)
                | .ok _, some here => finish (s.collective k ms here) { e with collected := false } c k.words k.stall []

/-- kred (R276). -/
def execKred (f : LG) (s : State) : Out := collect [f.a.toNat, f.b.toNat, f.x.toNat] (.kred f) s

/-- kgath (R276). -/
def execKgath (f : LG) (s : State) : Out := collect [f.a.toNat, f.b.toNat, f.x.toNat] (.kgath f) s

/-- kbcast (R276). -/
def execKbcast (f : LG) (s : State) : Out := collect [f.a.toNat, f.b.toNat, f.x.toNat, f.d.toNat] (.kbcast f) s

/-- ksync (R276). -/
def execKsync (f : LG) (s : State) : Out := collect [f.x.toNat] (.ksync f) s

end Sys2Proof.Machine
end

