-- ==== Sys2Proof/Machine/Trust.lean ====
section
/-! DEFINITION. Trust (14 R347-R360, 23 R435, 24 R447, R448): TDIs, SPDM, Caerba's requests, firmware, sealing keys and
measurements, the pod transport, and the safe tier. Signatures and certificates are opaque (log 11). -/

namespace Sys2Proof.Machine

/-! ## TDISP (R348) -/

/-- The tenant whose PROVISION bound a TDI (R351). -/
def State.boundTo (s : State) (n : Nat) : Option (BitVec 16) := (s.trust.tenants.find? fun t => t.tdi == n).map fun t => t.tag

/-- LOCK_INTERFACE: a TDI is bound to a tenant, image slots and queues; a TDI that PROVISION has bound takes no other tenant's tag
(R348, R351; log 63). -/
def execLockInterface (n tag : Nat) (images queues : List Nat) (s : State) : Out :=
  let other : Bool := match s.boundTo n with | some t => t != BitVec.ofNat 16 tag | none => false
  event s (isTdi n && (s.tdi n).state == .unlocked && !other) (s.setTdi n ⟨.locked, false, BitVec.ofNat 16 tag, images, queues⟩)

/-- START_INTERFACE_REQUEST: CONFIG_LOCKED to RUN (R348). -/
def execStartInterfaceRequest (n : Nat) (s : State) : Out :=
  event s (isTdi n && (s.tdi n).state == .locked) (s.setTdi n { s.tdi n with state := .run })

/-- STOP_INTERFACE_REQUEST: back to CONFIG_UNLOCKED; what PROVISION bound stays (R348, R351). -/
def execStopInterfaceRequest (n : Nat) (s : State) : Out :=
  event s (isTdi n) (s.setTdi n { Tdi.reset with tenant := (s.boundTo n).getD 0 })

/-! ## SPDM (R349, R350) -/

/-- Answer a request of a session. -/
def State.spdm (s : State) (session : Nat) (r : SpdmReply) : State := { s with outbox := s.outbox ++ [.spdm session r] }

/-- Answer with a body that SPDM and the device's keys give (log 11). -/
def State.spdmBody (s : State) (q : SpdmReq) : State :=
  let (k, s1) := s.draw
  s1.spdm q.session (.response (Config.spdmBody k q.body))

def State.session? (s : State) (id : Nat) : Option Session := s.trust.sessions.find? fun x => x.id == id

/-- Whether a request travels in an open session. -/
def State.inSession (s : State) (q : SpdmReq) : Bool := match s.session? q.session with | some x => x.open_ | none => false

def State.updSession (s : State) (id : Nat) (f : Session → Session) : State :=
  { s with trust := { s.trust with sessions := s.trust.sessions.map fun (x : Session) => if x.id = id then f x else x } }

/-- Requests answered with Unspecified once measurement has failed (R448). -/
def State.unlessFailed (s : State) (q : SpdmReq) (ok : State) : State :=
  if s.trust.measFail then s.spdm q.session (.error .unspecified) else ok

/-- A request that only an open session may make. -/
def State.ifOpen (s : State) (q : SpdmReq) (ok : State) : State :=
  if s.inSession q then ok else s.spdm q.session (.error .unstated)

/-- GET_VERSION: SPDM 1.3 (R349). -/
def execGetVersion (q : SpdmReq) (s : State) : Out := .next (s.spdm q.session (.version 1 3))

/-- GET_CAPABILITIES (R349). -/
def execGetCapabilities (q : SpdmReq) (s : State) : Out := .next (s.spdmBody q)

/-- NEGOTIATE_ALGORITHMS: the one set (R349). -/
def execNegotiateAlgorithms (q : SpdmReq) (s : State) : Out :=
  .next (s.spdm q.session (.algorithms .ecdsaP256 .sha256 .ecdheP256 .aes256Gcm))

/-- GET_DIGESTS: the digests of certificate slots 0 and 1 (R349). -/
def execGetDigests (q : SpdmReq) (s : State) : Out :=
  .next (s.spdm q.session (.digests (([0, 1] : List Nat).map fun k => (k, sha256 (Config.certChain k)))))

/-- The certificate slot a request names: the low bits of its body's first byte (log 11). -/
def certSlot (q : SpdmReq) : Nat := fld (q.body.getD 0 0) 0 4

/-- GET_CERTIFICATE: the chain of slot 0 or 1 (R349). -/
def execGetCertificate (q : SpdmReq) (s : State) : Out :=
  .next (s.spdm q.session (if certSlot q ≤ 1 then .certificate (certSlot q) (Config.certChain (certSlot q)) else .error .unstated))

/-- CHALLENGE (R349, R448). -/
def execChallenge (q : SpdmReq) (s : State) : Out := .next (s.unlessFailed q (s.spdmBody q))

/-- MIXW0 to MIXW4 as 40 bytes (R11). -/
def State.mixBytes (s : State) : List Byte := s.mix.toList ++ [0, 0, 0]

/-- A measurement of an image slot: its hash, then its promise byte (R309, R350). -/
def State.imageMeasure (s : State) (i : Nat) : List Byte :=
  if (s.image i).state = 2 then s.bytes (imagePa i 96) 32 ++ s.bytes (imagePa i 88) 1 else List.replicate 33 0

/-- The measurement of a slot's active firmware (R350). -/
def State.firmwareMeasure (s : State) (slot : Nat) : List Byte :=
  if s.slotGone slot then List.replicate 32 0 else bytesOf 32 (s.die slot).fwDigest.toNat

/-- Every measurement, at one instant (R350). -/
def State.measurements (s : State) : List (Nat × List Byte) :=
  [(0x01, bytesOf 32 s.trust.rootDigest.toNat)] ++ ((List.range 37).map fun k => (2 + k, s.firmwareMeasure k))
    ++ [(0x30, s.mixBytes), (0x31, bytesOf 8 s.arithrev.toNat)] ++ (List.range 64).map fun i => (0x40 + i, s.imageMeasure i)

/-- Answer with every measurement and a signature (log 11). -/
def State.measured (s : State) (q : SpdmReq) : State :=
  let (k, s1) := s.draw
  s1.spdm q.session (.measurements s.measurements (Config.spdmBody k q.body))

/-- GET_MEASUREMENTS: every index (R350, R448). -/
def execGetMeasurements (q : SpdmReq) (s : State) : Out := .next (s.unlessFailed q (s.measured q))

/-- KEY_EXCHANGE: a session is set up; FINISH opens it (R349, R448). -/
def execKeyExchange (q : SpdmReq) (s : State) : Out :=
  let (k, s1) := s.newId
  .next (s.unlessFailed q ({ s1 with trust := { s1.trust with sessions := s1.trust.sessions ++ [Session.mk k false false] } }.spdm q.session (.session k)))

/-- FINISH (R349). -/
def execFinish (q : SpdmReq) (s : State) : Out :=
  match s.session? q.session with
  | some x => .next (if x.open_ then s.spdm q.session (.error .unstated) else (s.updSession x.id fun x => { x with open_ := true }).spdmBody q)
  | none => .next (s.spdm q.session (.error .unstated))

/-- HEARTBEAT (R349). -/
def execHeartbeat (q : SpdmReq) (s : State) : Out := .next (s.ifOpen q (s.spdmBody q))

/-- KEY_UPDATE (R349). -/
def execKeyUpdate (q : SpdmReq) (s : State) : Out := .next (s.ifOpen q (s.spdmBody q))

/-- END_SESSION (R349). -/
def execEndSession (q : SpdmReq) (s : State) : Out :=
  .next (s.ifOpen q ({ s with trust := { s.trust with sessions := s.trust.sessions.filter fun x => x.id != q.session } }.spdmBody q))

/-- SUBSCRIBE_EVENT_TYPES: the session takes measurement events (R349, R359). -/
def execSubscribeEventTypes (q : SpdmReq) (s : State) : Out :=
  .next (s.ifOpen q ((s.updSession q.session fun x => { x with subscribed := true }).spdmBody q))

/-! ## Caerba's requests (R351, R353, R354) -/

/-- A Caerba request, inside an open session (R351, R448): its state and answer. -/
def State.caerba (s : State) (q : SpdmReq) (f : State × SpdmReply) : Out :=
  .next (s.unlessFailed q (s.ifOpen q (f.1.spdm q.session f.2)))

/-- The access table of a target; cluster 0 for a die that has one table. -/
def State.table (s : State) (slot cluster : Nat) : List AccEntry :=
  if clusterSize (clKey slot 0) = 0 then (s.die slot).acc else (s.cluster (clKey slot cluster)).acc

def State.setTable (s : State) (slot cluster : Nat) (t : List AccEntry) : State :=
  if clusterSize (clKey slot 0) = 0 then s.retable slot fun d => { d with acc := t }
  else s.updCluster (clKey slot cluster) fun c => { c with acc := t }

/-- The targets that hold tables (R353). -/
def allTargets : List (Nat × Nat) :=
  (List.range 37).flatMap fun k => if clusterSize (clKey k 0) = 0 then [(k, 0)] else (List.range 16).map fun c => (k, c)

def isTarget (slot cluster : Nat) : Bool :=
  decide (slot ≤ 36) && (if clusterSize (clKey slot 0) = 0 then cluster == 0 else decide (cluster < 16))

/-- Whether the ranges of two entries overlap. -/
def accMeets (a b : AccEntry) : Bool := decide (a.base.toNat ≤ b.limit.toNat) && decide (b.base.toNat ≤ a.limit.toNat)

/-- An entry as the HD writes it: valid, its reserved bits zero. -/
def writtenEntry (a : AccEntry) (key : Nat) : AccEntry :=
  { a with rights := BitVec.ofNat 8 (fld a.rights 0 3 + 8), key := BitVec.ofNat 8 key }

/-- Whether an entry of a request can be written: its target, its alignment, and its master, the tenant's or the host's. -/
def grantOk (g : GrantEntry) (tag : BitVec 16) : Bool :=
  isTarget g.slot g.cluster && fld g.entry.base 0 16 == 0 && fld g.entry.limit 0 16 == 0xFFFF
    && decide (g.entry.base.toNat ≤ g.entry.limit.toNat) && (g.entry.master == tag || g.entry.master == 0xFFFF)

/-- No entry for the host overlaps one with a key (R354). -/
def hostApart (t : List AccEntry) : Bool :=
  t.all fun a => t.all fun b => !(a.master == 0xFFFF && a.rights.getLsbD 3 && b.rights.getLsbD 3 && fld b.key 0 4 != 0 && accMeets a b)

/-- Add entries, each with the key slot its tenant has on its BD, or none when a check fails (R351, R353, R354). -/
def State.addEntries (s : State) (tag : BitVec 16) : List GrantEntry → Option (State × List GrantEntry)
  | [] => some (s, [])
  | g :: gs =>
    let key : Option Nat :=
      if fld g.entry.key 0 4 = 0 ∨ tag = 0 ∨ dieKind g.slot ≠ some .bd ∨ g.entry.base.toNat < 0x10000000000 then some 0
      else ((s.die g.slot).keys.find? fun p => p.2.tenant == tag).map (·.1)
    match key with
    | none => none
    | some k =>
      let a := writtenEntry g.entry (if g.entry.master = tag then k else 0)
      let t := s.table g.slot g.cluster ++ [a]
      if !grantOk g tag || decide (128 < t.length) || !hostApart t then none
      else match State.addEntries (s.setTable g.slot g.cluster t) tag gs with
        | none => none
        | some (s', l) => some (s', { g with entry := a } :: l)

/-- Remove a tenant's entries: those with its master, and one for each that its requests wrote for the host. -/
def State.dropTenantEntries (s : State) (t : Tenant) : State :=
  let host := t.entries.filter fun g => g.entry.master != t.tag
  let s1 := host.foldl (fun (s : State) g => s.setTable g.slot g.cluster ((s.table g.slot g.cluster).erase g.entry)) s
  allTargets.foldl (fun (s : State) p => s.setTable p.1 p.2 ((s.table p.1 p.2).filter fun a => a.master != t.tag)) s1

/-- Load a tenant's key into a free slot on each BD named, or none when one has no slot free (R351, R355). -/
def State.loadKeys (s : State) (tag : BitVec 16) (key : BitVec 512) : List Nat → Option State
  | [] => some s
  | b :: bs =>
    if dieKind b ≠ some .bd then none
    else match ((List.range 16).drop 1).find? fun j => ((s.die b).keys.find j).isNone with
      | none => none
      | some j => State.loadKeys (s.retable b fun d => { d with keys := d.keys.put j ⟨tag, key, none⟩ }) tag key bs

/-- The state after a PROVISION, or none when a part of it fails (R351). -/
def State.provision (s : State) (q : SpdmReq) (g : Grant) : Option State :=
  if g.tag = 0xFFFE ∨ g.tag = 0xFFFF ∨ s.trust.tenants.any (fun t => t.tag == g.tag) then none
  else if g.tdi ≠ 0 ∧ (!isTdi g.tdi ∨ (s.tdi g.tdi).state ≠ .unlocked ∨ (s.boundTo g.tdi).isSome) then none
  else
    let keyed := if g.tag = 0 then some s else s.loadKeys g.tag g.key g.bds
    match keyed.bind fun s => s.addEntries g.tag g.entries with
    | none => none
    | some (s1, es) =>
      let s2 := { s1 with trust := { s1.trust with tenants := s1.trust.tenants ++ [⟨g.tag, q.session, g.tdi, g.key, es⟩] } }
      some (if g.tdi = 0 then s2 else s2.setTdi g.tdi { s2.tdi g.tdi with tenant := g.tag })

/-- PROVISION: fails as a whole if any part fails (R351). -/
def execProvision (q : SpdmReq) (g : Grant) (s : State) : Out :=
  s.caerba q (match s.provision q g with | some s' => (s', .done) | none => (s, .failed))

/-- A tenant that the session provisioned (R351). -/
def State.ownTenant (s : State) (q : SpdmReq) (tag : BitVec 16) : Option Tenant :=
  s.trust.tenants.find? fun t => t.tag == tag && t.session == q.session

/-- The spill region without what it holds for a tenant's entries. -/
def dropSpilled (tag : BitVec 16) (xs : List Spill) : List Spill :=
  xs.map fun x => { x with entries := x.entries.filter (fun a => a.master != tag), grants := x.grants.filter fun g => g.1 != tag }

/-- What a change of a tenant's entries waits for: its accesses and host requests that were admitted under the old ones (R354). -/
def State.admitted (s : State) (tag : BitVec 16) : List Nat × List HeldReq :=
  ((s.accesses.filter fun a => !a.pas.isEmpty && (s.eng a.eng).master == tag).map fun a => a.id,
   s.mgmt.hostHeld.filter fun x => s.hostMaster x.req.fn == tag)

/-- Whether they have performed. -/
def State.drained (s : State) (old : List Nat × List HeldReq) : Bool :=
  !(s.accesses.any fun a => old.1.contains a.id) && !(s.mgmt.hostHeld.any fun x => old.2.contains x)

/-- The state after a REPROVISION's entries have replaced the tenant's. -/
def State.reprovision (s : State) (g : Grant) (t : Tenant) : Option State :=
  ((s.dropTenantEntries t).addEntries g.tag g.entries).map fun p =>
    { p.1 with trust := { p.1.trust with
        spilled := dropSpilled g.tag p.1.trust.spilled
        tenants := p.1.trust.tenants.map fun (x : Tenant) => if x.tag = g.tag then { x with entries := p.2 } else x } }

/-- REPROVISION: the tenant's entries are replaced, keys are kept; it is done when every access admitted under the old entries has
performed (R351, R354). -/
def execReprovision (q : SpdmReq) (g : Grant) (s : State) : Out :=
  match s.trust.changes.find? fun c => c.1 == q && c.2.1 == g with
  | some c => event s (s.drained c.2.2) ({ s with trust := { s.trust with changes := s.trust.changes.erase c } }.spdm q.session .done)
  | none =>
    .next (s.unlessFailed q (s.ifOpen q (match (s.ownTenant q g.tag).bind (s.reprovision g) with
      | none => s.spdm q.session .failed
      | some s1 =>
        let old := s.admitted g.tag
        if s1.drained old then s1.spdm q.session .done
        else { s1 with trust := { s1.trust with changes := s1.trust.changes ++ [(q, g, old)] } })))

/-- The memory an entry of a target covers reads zero (R351). -/
def State.zeroRegion (s : State) (slot cluster : Nat) (a : AccEntry) : State :=
  let n := a.limit.toNat + 1 - a.base.toNat
  match dieKind slot with
  | some .sd => s
  | some .hd => s
  | _ => s.wipe (paOf slot (cluster * 0x1000000 + a.base.toNat)) n

/-- Zeros over every region a tenant holds, those under a key that was lost among them (R351, R447). -/
def State.zeroTenant (s : State) (tag : BitVec 16) : State :=
  allTargets.foldl (fun (s : State) p =>
    ((s.table p.1 p.2).filter fun a => a.master == tag).foldl (fun (s : State) a => s.zeroRegion p.1 p.2 a) s) s

/-- A team of a tenant being released: one that runs stops as R60's save or discard does, one that has stopped is over (R351,
R404). -/
def State.releaseTeam (s : State) (l : Launch) (save : Bool) (t : Team) : State :=
  let set (s : State) (st : TeamState) : State := s.updLaunch l.seq fun l => l.updTeam t.index fun t => { t with state := st, frozen := false }
  let ends (s : State) : State := set s (.past 6)
  let a := releaseAction save
  match t.state with
  | .running =>
    if (l.unfired t.index).isEmpty then s
    else set (s.pauseTeam l t.index a) (.stopping ⟨l.seq, t.index, a, 0, 0, 0⟩ a Estimate.none_)
  | .stopping _ _ _ => s
  | .past _ => s
  | .restart _ => ends ((s.haltTeam l.seq t.index).reportGroups l (l.unfired t.index) 6)
  | .peer _ _ => ends ((s.haltTeam l.seq t.index).reportGroups l (l.unfired t.index) 6)
  | .saved _ _ => ends s
  | .held _ _ => ends s

/-- The launches of a tenant. -/
def State.launchesOf (s : State) (tag : Nat) : List Launch := s.launches.filter fun l => s.lrTenant l.image == tag

/-- A RELEASE stops what runs of the tenant; a launch with no team that stops ends (R351). -/
def State.releaseBegin (s : State) (tag : Nat) (save : Bool) : State :=
  let stops (l : Launch) : Bool := l.teams.any fun t => match t.state with | .stopping _ _ _ => true | _ => false
  let s1 := (s.launchesOf tag).foldl (fun (s : State) l => l.teams.foldl (fun (s : State) t => s.releaseTeam l save t) s) s
  ((s1.launchesOf tag).filter fun l => !stops l).foldl (fun (s : State) l => s.killLaunch l) s1

/-- Whether every team of a tenant being released has stopped with nothing on its way, and no host request of the tenant waits
(R60, R351, R354). -/
def State.releaseQuiet (s : State) (tag : Nat) : Bool :=
  let quiet (l : Launch) (t : Team) : Bool :=
    match t.state with
    | .stopping _ a _ =>
      decide (4 ≤ a) && ((l.engsOf t.index).all fun id => (s.eng id).hasPaused a) && !s.teamInFlight l.seq t.index
        && s.latticesQuiet l t.index && !s.teamFaulting l.seq t.index
    | .past _ => true
    | .running => (l.unfired t.index).isEmpty
    | _ => false
  ((s.launchesOf tag).all fun l => l.teams.all (quiet l)) && s.drained (s.admitted (BitVec.ofNat 16 tag))

/-- The end of a RELEASE: the combiners of the stopped teams report status 6 and the launches end; the tenant's regions read zero, and
its keys, entries, spilled data and TDI binding are gone (R351, R368). What a save leaves of its teams is erased with the regions
(log 28). -/
def State.releaseEnd (s : State) (t : Tenant) : State :=
  let report (l : Launch) (s : State) (x : Team) : State :=
    match x.state with | .stopping _ _ _ => s.reportGroups l (l.unfired x.index) 6 | _ => s
  let s1 := (s.launchesOf t.tag.toNat).foldl (fun (s : State) l => (l.teams.foldl (report l) s).killLaunch l) s
  let s2 := (s1.zeroTenant t.tag).dropTenantEntries t
  let s3 := (List.range 37).foldl (fun (s : State) k => s.retable k fun d => { d with keys := d.keys.filter fun p => p.2.tenant != t.tag }) s2
  let mine (x : Spill) : Bool := x.entries.any (fun a => a.master == t.tag) || x.grants.any fun g => g.1 == t.tag
  { s3 with trust := { s3.trust with
      tenants := s3.trust.tenants.filter fun x => x.tag != t.tag
      spilled := s3.trust.spilled.filter fun x => !mine x
      tdis := s3.trust.tdis.map fun (p : Nat × Tdi) => (p.1, if p.2.tenant = t.tag then Tdi.reset else p.2) } }

/-- A RELEASE goes on: it ends once its teams have stopped. -/
def State.releaseGo (s : State) (q : SpdmReq) (t : Tenant) (save : Bool) : State :=
  let s1 := s.releaseBegin t.tag.toNat save
  if s1.releaseQuiet t.tag.toNat then
    let s2 := s1.releaseEnd t
    { s2 with trust := { s2.trust with releases := s2.trust.releases.filter fun r => r.2.1 != t.tag.toNat } }.spdm q.session .done
  else s1

/-- RELEASE: the tenant's teams stop by the discard or the save of R60, as the request says; then its regions read zero and its keys,
entries and TDI binding are gone (R351). -/
def execRelease (q : SpdmReq) (tag : Nat) (save : Bool) (s : State) : Out :=
  let id := BitVec.ofNat 16 tag
  if s.trust.releases.contains (q, id.toNat, save) then
    .next (match s.trust.tenants.find? fun t => t.tag == id with | some t => s.releaseGo q t save | none => s)
  else
    .next (s.unlessFailed q (s.ifOpen q (match s.ownTenant q id with
      | none => s.spdm q.session .failed
      | some t => { s with trust := { s.trust with releases := s.trust.releases ++ [(q, id.toNat, save)] } }.releaseGo q t save)))

/-- ATTEST: the measurements, signed over the nonce and the transcript (R351). -/
def execAttest (q : SpdmReq) (s : State) : Out := .next (s.unlessFailed q (s.ifOpen q (s.measured q)))

/-! ## In-service repair (R360, R448) -/

/-- DIE_RESTART_REQUEST: a compute die is to restart once its launches have yielded (R360, R422). -/
def execDieRestartRequest (q : SpdmReq) (slot deadline : Nat) (s : State) : Out :=
  s.caerba q (if computeDie slot && (s.die slot).phase == .up && !s.slotGone slot then (s.yieldDie slot deadline, .done) else (s, .failed))

/-- HEALTH.staged: an image is staged and not yet active (R359). -/
def State.noteStaged (s : State) : State :=
  { s with mgmt := { s.mgmt with health := setFld s.mgmt.health 37 1 (if s.trust.staged.isEmpty then 0 else 1) } }

/-- FIRMWARE_STAGE: one slot's firmware (R360). -/
def execFirmwareStage (q : SpdmReq) (f : Firmware) (s : State) : Out :=
  let rest := s.trust.staged.filter fun x => x.slot != f.slot
  s.caerba q (if f.slot ≤ 36 then ({ s with trust := { s.trust with staged := rest ++ [f] } }.noteStaged, .done) else (s, .failed))

/-- Take an image off the stage. -/
def State.unstage (s : State) (slot : Nat) : State :=
  { s with trust := { s.trust with
      staged := s.trust.staged.filter fun x => x.slot != slot
      activations := s.trust.activations.filter fun p => p.2 != slot } }.noteStaged

/-- Whether a launch holds a die. -/
def State.heldDie (s : State) (slot : Nat) : Bool := s.launches.any fun l => l.bind.any fun p => p.2 == slot

/-- A staged image becomes active: the slot's measurement changes, and the event is sent (R359, R360). -/
def State.activate (s : State) (f : Firmware) : State :=
  ((s.unstage f.slot).updDie f.slot fun d => { d with fwDigest := f.digest }).measurementEvent

/-- Whether an activation waits and can take effect now. -/
def State.activates (s : State) (q : SpdmReq) (slot : Nat) : Bool := s.trust.activations.contains (q, slot) && !s.heldDie slot

/-- FIRMWARE_ACTIVATE: takes effect once no launch holds the die: the measurement changes and the event is sent; an image whose
signature fails is discarded, and the request returns InvalidRequest (R360, R448). -/
def execFirmwareActivate (q : SpdmReq) (slot : Nat) (s : State) : Out :=
  match s.trust.staged.find? fun x => x.slot == slot with
  | none => s.caerba q (s, .failed)
  | some f =>
    let bad := (s.unstage slot, SpdmReply.error .invalidRequest)
    if s.activates q slot then .next (if f.sigOk then (s.activate f).spdm q.session .done else bad.1.spdm q.session bad.2)
    else s.caerba q
      (if !f.sigOk then bad
       else if s.heldDie slot then
        ({ s with trust := { s.trust with activations := s.trust.activations.filter (fun p => p.2 != slot) ++ [(q, slot)] } }, .response [])
       else (s.activate f, .done))

/-! ## Sealing keys and measurements (R447, R448) -/

/-- Whether a launch maps a line under a key slot of a BD (R447). -/
def State.mapsKey (s : State) (l : Launch) (slot key : Nat) : Bool :=
  (s.launchExtents l slot).any fun x =>
    ((s.die slot).entriesOf (paOff x.pa) (s.extentSize slot x)).any fun a => fld a.key 0 4 == key && a.master.toNat == s.lrTenant l.image

/-- The loss of a key: its slot is erased, entries naming it are invalid, and the teams that used it stop with only abandon
admitted; the BD takes no new work (R365, R447; log 59). -/
def State.loseKey (s : State) (slot key : Nat) (k : KeySlot) : State :=
  let bad (a : AccEntry) : AccEntry := if fld a.key 0 4 = key then { a with rights := a.rights &&& 0xF7 } else a
  let onBd (l : Launch) (t : Team) : Bool := (l.streamsOf t.index).any fun x => x.eng.slot == slot
  let all_ (l : Launch) : Bool := s.lrTenant l.image == k.tenant.toNat && s.mapsKey l slot key
  let ev (seq team : Nat) : FaultEv := teamEv s seq team 0x030B (key % 16 + slot * 256 + k.tenant.toNat * 2 ^ 32) 2 slot
  let pick (l : Launch) (t : Team) : Bool := all_ l || onBd l t
  let s1 := s.launches.foldl (fun (s : State) l => s.stopSome l (pick l) (fun t => ev l.seq t.index) 1 false fun _ => .held 0x030B false) s
  let s2 := if s.launches.any fun l => l.teams.any fun t => t.state.stoppable && pick l t then s1 else s1.fault (ev 0 0)
  s2.retable slot fun d => { d with keys := d.keys.erase key, acc := d.acc.map bad, barred := true }

/-- KEY_SLOT_ECC_FAILURE: the key is reloaded from its wrapped copy within 12,000 ticks, or lost (R447). -/
def execKeySlotEccFailure (slot key : Nat) (wrappedOk : Bool) (s : State) : Out :=
  match (s.die slot).keys.find key with
  | none => .next s
  | some k =>
    let (n, s1) := s.draw
    .next (if wrappedOk then s1.updDie slot fun d => { d with keys := d.keys.put key { k with reload := some (s.ptick + Config.latency n % 12001) } }
      else s.loseKey slot key k)

/-- KEY_RELOAD_COMPLETE: the key is back, and waiting accesses go on (R447). -/
def execKeyReloadComplete (slot key : Nat) (s : State) : Out :=
  match (s.die slot).keys.find key with
  | some k => event s (match k.reload with | some t => decide (t ≤ s.ptick) | none => false)
      (s.updDie slot fun d => { d with keys := d.keys.put key { k with reload := none } })
  | none => .next s

/-- MEASUREMENT_FAILURE: every launch stops, every session ends, and every TDI enters ERROR once what it issued has performed (R348,
R448). -/
def execMeasurementFailure (reason : Nat) (s : State) : Out :=
  let s1 := s.stopPackage 0x030C (reason % 256) false
  .next (State.failTdis { s1 with trust := { s1.trust with
    measFail := true
    sessions := []
    tdis := (List.range 16).map fun k => (k + 1, { s1.tdi (k + 1) with failing := true }) } })

/-! ## The pod transport (R356, R357) -/

/-- POD_JOIN: Caerba sets PODCFG (R357). -/
def execPodJoin (pkg ports : BitVec 12) (s : State) : Out :=
  .next { s with mgmt := { s.mgmt with podcfg := BitVec.ofNat 64 (ports.toNat * 4096 + pkg.toNat) } }

/-- Whether an SD's table admits a packet's tenant on its port (R353, R356). -/
def State.podAdmits (s : State) (slot : Nat) (p : PodPacket) : Bool :=
  p.port / 3 == slot / 9 &&
  match accEntryFor (s.die slot).acc p.msg.tenant (p.port % 3 * 0x10000) with
  | some a => rightsOk rWrite (a.rights.extractLsb' 0 3)
  | none => false

/-- Whether a packet's port has joined the pod: its two packages then share a key (R356, R357). -/
def State.joined (s : State) (port : Nat) : Bool := decide (port < 12) && s.mgmt.podcfg.getLsbD (12 + port)

/-- POD_PACKET_RECEIVE: an authentic packet, next in its flow, is taken when the table admits it; a message whose last packet it is
then waits at the SD (R320, R356). -/
def execPodPacketReceive (slot : Nat) (p : PodPacket) (s : State) : Out :=
  let k := flowKey p.msg.src p.msg.tag
  let got := s.trust.podParts.getD k [] ++ p.msg.payload
  let s1 : State := { s with trust := { s.trust with
    podNext := s.trust.podNext.put k (p.number + 1)
    podParts := if p.more then s.trust.podParts.put k got else s.trust.podParts.erase k } }
  event s (dieKind slot == some .sd && s.joined p.port && p.authentic && s.trust.podNext.getD k 0 == p.number && s.podAdmits slot p
      && decide (p.msg.payload.length ≤ 9000))
    (if p.more then s1 else s1.updDie slot fun d => { d with messages := d.messages ++ [⟨{ p.msg with payload := got }, s.ptick, none⟩] })

/-- POD_PACKET_RETRANSMIT: a packet that was sent, and lost or rejected, is sent again (R356). -/
def execPodPacketRetransmit (slot : Nat) (p : PodPacket) (s : State) : Out :=
  event s (dieKind slot == some .sd && p.port / 3 == slot / 9 && s.trust.podKept.contains p) { s with outbox := s.outbox ++ [.pod p.port p] }

/-! ## The safe tier (R358, R435) -/

/-- The tenant and key that seal an address on a BD. -/
def State.sealOwner (s : State) (pa : Nat) : Option (BitVec 16 × BitVec 512) :=
  ((s.die (paSlot pa)).lineKey (paOff pa)).bind fun key =>
    ((s.die (paSlot pa)).keys.find? fun p => p.2.key == key).map fun p => (p.2.tenant, key)

/-- The current generations that a copy takes (R358). -/
def State.copiesOf (s : State) (slot : Nat) (pick : Nat → Bool) : List SafeCopy :=
  (s.die slot).ckpt.filterMap fun p =>
    match p.2.current with
    | some g => if pick p.1 then some ⟨s.package, slot, p.1, g, g.extents.map fun x => s.sealOwner x.1⟩ else none
    | none => none

/-- A copy as it leaves over the pod transport: each extent with its tenant's tag, its address, and its bytes in their outer form
(R358). -/
def State.copyOut (s : State) (c : SafeCopy) : Output :=
  .safeCopy c.slot c.set_ ((c.gen.extents.zip c.owners).map fun x =>
    ((match x.2 with | some o => o.1 | none => 0), x.1.1, s.outerForm x.1.1 x.1.2))

/-- SAFE_TIER_COPY: the current generations of the named sets on every BD leave for the pod store (R358). -/
def execSafeTierCopy (s : State) : Out :=
  let v := s.mgmt.safectl
  let pick (n : Nat) : Bool := v.getLsbD 1 || n == fld v 8 8
  let (l, s1) := s.lat
  let copies := (List.range 37).flatMap fun k => if dieKind k = some .bd then s.copiesOf k pick else []
  event s (fld v 16 4 != 1)
    { s1 with
      outbox := s1.outbox ++ copies.map s.copyOut
      mgmt := { s1.mgmt with safectl := setFld (setFld v 16 4 1) 0 1 1, safeDue := some (s.ptick + l) }
      trust := { s1.trust with copying := copies } }

/-- SAFE_TIER_COPY_DONE: status reads done or failed (R358). -/
def execSafeTierCopyDone (ok : Bool) (s : State) : Out :=
  let v := s.mgmt.safectl
  let old (c : SafeCopy) : Bool := s.trust.copying.any fun d => d.pkg == c.pkg && d.slot == c.slot && d.set_ == c.set_
  event s (fld v 16 4 == 1)
    { s with
      fresh := s.fresh + 1
      mgmt := { s.mgmt with safectl := setFld (setFld v 16 4 (if ok then 2 else 3)) 0 1 0, safeDue := none }
      trust := { s.trust with
        copying := []
        safeCopies := if ok then s.trust.safeCopies.filter (fun c => !old c) ++ s.trust.copying else s.trust.safeCopies } }

/-- A run that left under one key, as it reads when the HD deciphers it under another: line by line (R355, R435). -/
def resealed (old new : BitVec 512) (pa : Nat) (bs : List Byte) : List Byte :=
  let pad := List.replicate (pa % 256) (0 : Byte) ++ bs
  let line (k : Nat) : List Byte :=
    let l := (pad.drop (256 * k)).take 256
    recipher (some old) (some new) (pa / 256 + k) (l ++ List.replicate (256 - l.length) 0)
  if old = new then bs else (((List.range (ceilDiv pad.length 256)).flatMap line).drop (pa % 256)).take bs.length

/-- The bytes of an extent for a BD, resealed under the key slot it holds for the extent's tenant; none when it holds none (R435). -/
def State.resealFor (s : State) (dst pa : Nat) (bs : List Byte) (owner : Option (BitVec 16 × BitVec 512)) : Option (List Byte) :=
  match owner with
  | none => some bs
  | some (tag, key) => ((s.die dst).keys.find? fun p => p.2.tenant == tag).map fun p => resealed key p.2.key pa bs

/-- Write the extents of a copy at their addresses on the destination BD; false when one is not covered, or no key seals it (R435). -/
def State.restoreExtentsTo (s : State) (dst : Nat) : List ((Nat × List Byte) × Option (BitVec 16 × BitVec 512)) → State × Bool
  | [] => (s, true)
  | ((pa, bs), owner) :: rest =>
    let tag := match owner with | some o => o.1 | none => 0
    match accEntryFor (s.die dst).acc tag (paOff pa), accEntryFor (s.die dst).acc tag (paOff pa + (bs.length - 1)), s.resealFor dst pa bs owner with
    | some _, some _, some data => State.restoreExtentsTo (s.store (paOf dst (paOff pa)) data) dst rest
    | _, _, _ => (s, false)

/-- A generation at its new addresses. -/
def Generation.onBd (g : Generation) (dst : Nat) : Generation := { g with extents := g.extents.map fun x => (paOf dst (paOff x.1), x.2) }

/-- SAFE_RESTORE: the latest copy of a set is written to the destination BD and becomes its current generation (R435). A copy
that this package's store does not hold fails (log 29). -/
def execSafeRestore (s : State) : Out :=
  let v := s.mgmt.saferst
  let dst := fld v 32 8
  let fail (s : State) : State := { s with mgmt := { s.mgmt with saferst := setFld (setFld v 48 4 3) 0 1 0, restDue := none } }
  let copy := s.trust.safeCopies.find? fun c => c.pkg.toNat == fld v 52 12 && c.slot == fld v 40 8 && c.set_ == fld v 24 8
  if fld v 48 4 = 1 then .next s
  else match copy with
    | none => .next (fail s)
    | some c =>
      if dieKind dst ≠ some .bd ∨ s.slotGone dst then .next (fail s)
      else
        let (s1, ok) := s.restoreExtentsTo dst (c.gen.extents.zip c.owners)
        if !ok then .next (fail s1)
        else
          let (l, s2) := s1.lat
          let s3 := s2.updDie dst fun d =>
            { d with ckpt := d.ckpt.put c.set_ { d.ckSet c.set_ with current := some (c.gen.onBd dst), last := max (d.ckSet c.set_).last c.gen.number } }
          .next { s3 with mgmt := { s3.mgmt with saferst := setFld (setFld v 48 4 1) 0 1 1, restDue := some (s.ptick + l) } }

/-- SAFE_RESTORE_DONE: status reads done or failed (R435). -/
def execSafeRestoreDone (ok : Bool) (s : State) : Out :=
  let v := s.mgmt.saferst
  event s (fld v 48 4 == 1) { s with fresh := s.fresh + 1, mgmt := { s.mgmt with saferst := setFld (setFld v 48 4 (if ok then 2 else 3)) 0 1 0, restDue := none } }

end Sys2Proof.Machine
end

