-- ==== Sys2Proof/Machine/Regs.lean ====
section
/-! DEFINITION. The HD's management registers as the host reads and writes them (00 R4, 24 R450 and each register's own rule),
host requests (14 R347, R348, R352, R353, 24 R446, R455), shape-table writes (04 R104, R454) and BDCFG (R98). -/

namespace Sys2Proof.Machine

/-- A register of the management region. -/
inductive MReg
  | mixw (k : Nat) | arithrev | ptick | orient (slot : Nat) | zero
  | lctl (i : Nat) | ltrig (i : Nat) | lstat (i : Nat) | rstcfg (i : Nat) | dlact (i : Nat)
  | qcfg (n : Nat) | preq (k : Fin 4)
  | govcfg | pcap | drisk | pstat | eparam (k : Nat) | ebyte | domop (cl : Nat) | dietemp (slot : Nat)
  | health | podcfg | safectl | saferst | evacctl | spillbase | spillsize | denylog
  | flog | fltcfg | eccstat (slot : Nat) | tripcause (slot : Nat) | incarn (slot : Nat)
  | fresp0 | fresp1 | engstop (cl : Nat)
  deriving DecidableEq, Repr

/-- The registers at single offsets. -/
def fixedRegs : AMap MReg :=
  [(0x80000028, .arithrev), (0x80000030, .ptick), (0x80130000, .govcfg), (0x80130008, .pcap), (0x80130010, .drisk),
   (0x80130018, .pstat), (0x80130140, .ebyte), (0x80140000, .health), (0x80140008, .podcfg), (0x80140010, .safectl),
   (0x80140018, .saferst), (0x80140020, .evacctl), (0x80140028, .spillbase), (0x80140030, .spillsize), (0x80140038, .denylog),
   (0x80150000, .flog), (0x80150008, .fltcfg), (0x80151000, .fresp0), (0x80151008, .fresp1)]

/-- The arrays of registers: base, stride, count, and the register of an index (R310, R322, R327, R341, R343, R346, R371, R374,
R385, R419, R438, R441, R450). -/
def arrayRegs : List (Nat × Nat × Nat × (Nat → MReg)) :=
  [(0x80000000, 8, 5, .mixw), (0x80000100, 8, 37, .orient), (0x80100000, 0x40, 64, .lctl), (0x80100008, 0x40, 64, .ltrig),
   (0x80100010, 0x40, 64, .lstat), (0x80100018, 0x40, 64, .rstcfg), (0x80100020, 0x40, 64, .dlact), (0x80110000, 8, 32, .qcfg),
   (0x80120000, 8, 4, fun k => .preq (idx4 k)), (0x80130100, 8, 8, .eparam), (0x80131000, 8, 592, .domop),
   (0x80134000, 8, 37, .dietemp), (0x80150100, 8, 37, .eccstat), (0x80150400, 8, 37, .tripcause), (0x80150800, 8, 37, .incarn),
   (0x80154000, 8, 592, .engstop)]

/-- The register at an offset (R450 gives the rest of the first 64 KiB as zero). -/
def mregAt (off : Nat) : Option MReg :=
  match fixedRegs.find off with
  | some r => some r
  | none =>
    match arrayRegs.find? fun a => decide (a.1 ≤ off) && decide ((off - a.1) / a.2.1 < a.2.2.1) && (off - a.1) % a.2.1 == 0 with
    | some a => some (a.2.2.2 ((off - a.1) / a.2.1))
    | none => if 0x80000000 ≤ off ∧ off < 0x80010000 then some .zero else none

/-- A cluster key that names a domain: any cluster of an MD or VD, cluster 0 of another die. -/
def isDomain (cl : Nat) : Bool := decide (cl / 16 ≤ 36) && (clusterSize cl != 0 || cl % 16 == 0)

/-! ## Reads -/

/-- LSTAT, whose held bits show the frames held now (R318). -/
def ImageSlot.lstatReg (m : ImageSlot) : Word := setFld m.lstat 8 2 m.framesHeld.toNat

/-- The value a management register reads. -/
def State.readReg (s : State) (r : MReg) : Word :=
  match r with
  | .mixw k => s.mixw k
  | .arithrev => BitVec.ofNat 64 (fld s.arithrev 0 16)
  | .ptick => BitVec.ofNat 64 s.ptick
  | .orient k => if s.slotGone k then 0 else orient k
  | .zero => 0
  | .lctl i => BitVec.ofNat 64 ((s.image i).queue.toNat * 2 ^ 11 + (s.image i).state % 8 * 2 ^ 8)
  | .ltrig i => (s.image i).ltrig
  | .lstat i => (s.image i).lstatReg
  | .rstcfg i => (s.image i).rstcfg
  | .dlact i => (s.image i).dlact
  | .qcfg n => s.qcfg n
  | .preq k => s.mgmt.preq[k]
  | .govcfg => s.gov.govcfg
  | .pcap => s.gov.pcap
  | .drisk => s.gov.drisk
  | .pstat => s.gov.pstat
  | .eparam k => s.gov.eparam.getD k 0
  | .ebyte => BitVec.ofNat 64 (fld s.gov.ebyte 0 16)
  | .domop d => if isDomain d then s.domop d else 0
  | .dietemp k => BitVec.ofNat 64 ((if (s.die k).soft then 2 ^ 16 else 0) + (s.die k).temp.toNat)
  | .health => s.mgmt.health
  | .podcfg => s.mgmt.podcfg
  | .safectl => s.mgmt.safectl
  | .saferst => s.mgmt.saferst
  | .evacctl => s.mgmt.evacctl
  | .spillbase => s.mgmt.spillbase
  | .spillsize => s.mgmt.spillsize
  | .denylog => s.mgmt.denylog
  | .flog => s.mgmt.flog
  | .fltcfg => s.mgmt.fltcfg
  | .eccstat k => s.eccstat k
  | .tripcause k => (s.die k).tripWord
  | .incarn k => BitVec.ofNat 64 ((s.die k).stale.toNat * 2 ^ 16 + (s.die k).incarn.toNat)
  | .fresp0 => s.mgmt.fresp0
  | .fresp1 => s.mgmt.fresp1
  | .engstop cl => if isDomain cl then BitVec.ofNat 64 (s.cluster cl).engstop.toNat else 0

/-! ## Writes (R4) -/

/-- A register with some fields RW. -/
def writeRw (old v mask : Word) : Word := (old &&& ~~~mask) ||| (v &&& mask)

/-- A register with some fields W1C. -/
def writeW1c (old v mask : Word) : Word := old &&& ~~~(v &&& mask)

/-- The state an operation leaves, when it leaves one. -/
def State.after (s : State) (o : Out) : State := match o with | .next s' => s' | _ => s

def State.updMgmt (s : State) (f : Mgmt → Mgmt) : State := { s with mgmt := f s.mgmt }
def State.updGov (s : State) (f : Gov → Gov) : State := { s with gov := f s.gov }

/-- A write of LCTL: the queue, then the command (R310). -/
def State.writeLctl (s : State) (i : Nat) (v : Word) : State :=
  let s1 := s.updImage i fun m => { m with queue := v.extractLsb' 11 5 }
  match fld v 0 2 with
  | 1 => s1.after (execImageOpen i s1)
  | 2 => s1.after (execImageCommit i s1)
  | 3 => s1.after (execImageUnload i s1)
  | _ => s1

/-- A write of PREQ3 submits the request that PREQ0 to PREQ3 hold (R327). -/
def State.writePreq (s : State) (k : Fin 4) (v : Word) : State :=
  let s1 := s.updMgmt fun m => { m with preq := m.preq.set k v }
  let w (j : Fin 4) : Word := s1.mgmt.preq[j]
  if k.val = 3 then s1.preempt ⟨(w 0).toNat, fld (w 1) 0 32, fld (w 1) 32 2, fld (w 2) 0 32, fld (w 3) 6 50 * 64, 0⟩ else s1

/-- A write of SAFECTL: the set, then go (R358). -/
def State.writeSafectl (s : State) (v : Word) : State :=
  let s1 := s.updMgmt fun m => { m with safectl := writeRw m.safectl v 0xFF02 }
  if v.getLsbD 0 then s1.after (execSafeTierCopy s1) else s1

/-- A write of SAFERST: the copy and the destination, then go (R435). -/
def State.writeSaferst (s : State) (v : Word) : State :=
  let s1 := s.updMgmt fun m => { m with saferst := writeRw m.saferst v 0xFFF0FFFFFF000000 }
  if v.getLsbD 0 then s1.after (execSafeRestore s1) else s1

/-- A write of EVACCTL: the slot, then go, which is ignored while an evacuation runs (R429). -/
def State.writeEvacctl (s : State) (v : Word) : State :=
  let s1 := s.updMgmt fun m => { m with evacctl := writeRw m.evacctl v 0xFF00000000 }
  if v.getLsbD 0 then s1.after (execEvacuationStart s1) else s1

/-- A write of a management register, by the access of each of its fields. -/
def State.writeReg (s : State) (r : MReg) (v : Word) : State :=
  match r with
  | .mixw _ => s
  | .arithrev => s
  | .ptick => s
  | .orient _ => s
  | .zero => s
  | .lctl i => s.writeLctl i v
  | .ltrig i => s.after (execLaunchTrigger i v s)
  | .lstat _ => s
  | .rstcfg i => s.updImage i fun m => { m with rstcfg := v &&& 0x100FF }
  | .dlact i => s.updImage i fun m => { m with dlact := v &&& 3 }
  | .qcfg n => s.updMgmt fun m => { m with qcfg := m.qcfg.put n (v &&& 0xFFFFFFFF000000C7) }
  | .preq k => s.writePreq k v
  | .govcfg => s.updGov fun g => { g with govcfg := v &&& 0xFFFFFFFF00FFFF03 }
  | .pcap => s.after (execPcapWrite v s)
  | .drisk => s.updGov fun g => { g with drisk := writeW1c g.drisk v 3 }
  | .pstat => s.updGov fun g => { g with pstat := writeW1c g.pstat v 3 }
  | .eparam _ => s
  | .ebyte => s
  | .domop _ => s
  | .dietemp k => s.updDie k fun d => { d with soft := d.soft && !v.getLsbD 16 }
  | .health => s.updMgmt fun m => { m with health := writeW1c m.health v 0x8000000000 }
  | .podcfg => s
  | .safectl => s.writeSafectl v
  | .saferst => s.writeSaferst v
  | .evacctl => s.writeEvacctl v
  | .spillbase => s.updMgmt fun m => { m with spillbase := v &&& 0xFFFFFFFFFFFFF000 }
  | .spillsize => s.updMgmt fun m => { m with spillsize := v &&& 0xFFFFFFFF }
  | .denylog => s.updMgmt fun m => { m with denylog := writeW1c m.denylog v 0xFFFFFFFF00000000 }
  | .flog => s.updMgmt fun m => { m with flog := v &&& 0x00FFFFFFFFFFF00F }
  | .fltcfg => s.updMgmt fun m => { m with fltcfg := writeRw m.fltcfg v 0xFFFF0001 }
  | .eccstat k => s.updDie k fun d => { d with corr := d.corr &&& ~~~(v.extractLsb' 32 32) }
  | .tripcause k => s.after (execTripcauseWrite k v s)
  | .incarn _ => s
  | .fresp0 => s.updMgmt fun m => { m with fresp0 := v }
  | .fresp1 => s.answer s.mgmt.fresp0.toNat (fld v 0 32) (fld v 32 2)
  | .engstop cl => if isDomain cl then s.after (execEngstopResume cl v s) else s

/-- REGISTER_WRITE: a write to a management register, by R4's access types. -/
def execRegisterWrite (off : Nat) (v : Word) (s : State) : Out :=
  .next (match mregAt off with | some r => s.writeReg r v | none => s)

/-! ## Host requests -/

/-- The link's state once IDE has taken a request, or none when the HD rejects it: it fails integrity, names no stream of the port's
nine, or is plaintext on a stream on which IDE is enabled (R347). A request that IDE passes shows that IDE is enabled on its stream;
a link reset ends that (log 64). -/
def State.ideTake (s : State) (h : HostReq) : Option State :=
  match h.ide with
  | some true => if 8 < h.stream then none else some (if s.trust.ideOn.contains h.stream then s else { s with trust := { s.trust with ideOn := s.trust.ideOn ++ [h.stream] } })
  | some false => none
  | none => if s.trust.ideOn.contains h.stream then none else some s

/-- What the access tables and the address map say of a host access (R353, R446, R455). -/
inductive HostVerdict
  | ok | denied | unmapped
  deriving DecidableEq, Repr

/-- The verdict on one byte. Only pushes write window slots, and no table covers them (R108, R353). -/
def State.hostByte (s : State) (master : BitVec 16) (need : Rights) (pa : Nat) : HostVerdict :=
  let by_ (t : List AccEntry) (off : Nat) (there : Bool) : HostVerdict :=
    if (admitBy t master off need pa (paSlot pa) 0).isSome then .denied else if there then .ok else .unmapped
  if s.slotGone (paSlot pa) then .unmapped
  else match placeOf pa with
    | .nothing => .unmapped
    | .mgmt off => if paSlot pa = 36 then by_ (s.die 36).acc off (mregAt (off / 8 * 8)).isSome else .unmapped
    | .sched _ => by_ (s.die 36).acc (paOff pa) true
    | .window _ _ _ => if need = rRead then .ok else .denied
    | .pool slot c off =>
      let k := s.cluster (clKey slot c)
      by_ k.acc off (decide (scrBase k.partw ≤ off) && decide (off < scrBase k.partw + scrSize k.partw))
    | .gdScr slot off => by_ (s.die slot).acc off true
    | .bdSram slot off => by_ (s.die slot).acc off (decide (off < explicitBytes (s.die slot).bdcfg))
    | .hbm slot off => by_ (s.die slot).acc (0x10000000000 + off) true

/-- The verdict on `n` bytes: tables and maps change at multiples of 64 KiB, and registers at multiples of eight. -/
def State.hostJudge (s : State) (master : BitVec 16) (need : Rights) (pa n : Nat) : HostVerdict :=
  let step := match placeOf pa with | .mgmt _ => 8 | _ => 0x10000
  let at_ := pa :: ((List.range (n / step + 1)).map fun k => (pa / step + k + 1) * step).filter fun a => decide (a < pa + n)
  let vs := at_.map (s.hostByte master need)
  if vs.contains .denied then .denied else if vs.contains .unmapped then .unmapped else .ok

/-- A denied host request: DENYLOG counts it, a TDI in RUN goes to ERROR once its earlier accesses have performed, and a
non-posted request is completed as unsupported (R446, R348). -/
def State.denyHost (s : State) (h : HostReq) : State :=
  let master := s.hostMaster h.fn
  let count := min (fld s.mgmt.denylog 32 32 + 1) 0xFFFFFFFF
  let s1 := s.updMgmt fun m => { m with
    denylog := BitVec.ofNat 64 (count * 2 ^ 32 + master.toNat * 2 ^ 16 + paSlot h.pa.toNat * 2 ^ 8) }
  let s2 := if isTdi h.fn && (s.tdi h.fn).state == .run then (s1.setTdi h.fn { s.tdi h.fn with failing := true }).failTdis else s1
  s2.complete h .unsupported []

/-- Whether a register or an aperture belongs to what a TDI in ERROR is bound to (R348). -/
def State.tdiShut (s : State) (fn : Nat) (image queue : Option Nat) : Bool :=
  let t := s.tdi fn
  isTdi fn && t.state == .error
    && ((match image with | some i => t.images.contains i | none => false) || match queue with | some q => t.queues.contains q | none => false)

def MReg.image : MReg → Option Nat
  | .lctl i => some i
  | .ltrig i => some i
  | .lstat i => some i
  | .rstcfg i => some i
  | .dlact i => some i
  | _ => none

def MReg.queue : MReg → Option Nat
  | .qcfg n => some n
  | _ => none

/-- The fields of a register that clear by writing 1: an access that does not cover them writes 0 there. -/
def MReg.w1c : MReg → Word
  | .drisk => 3
  | .pstat => 3
  | .dietemp _ => 0x10000
  | .health => 0x8000000000
  | .denylog => 0xFFFFFFFF00000000
  | .eccstat _ => 0xFFFFFFFF00000000
  | _ => 0

/-- A byte of the management region as a function reads it: all ones for a TDI in ERROR (R348). -/
def State.regByte (s : State) (fn off : Nat) : Byte :=
  match mregAt (off / 8 * 8) with
  | some r => if s.tdiShut fn r.image r.queue then 0xFF else (s.readReg r).extractLsb' (8 * (off % 8)) 8
  | none => 0

/-- The registers that a run of bytes touches, with their offsets. -/
def regsOf (off n : Nat) : List (Nat × MReg) :=
  (List.range ((off % 8 + n + 7) / 8)).filterMap fun k => (mregAt (off / 8 * 8 + 8 * k)).map fun r => (off / 8 * 8 + 8 * k, r)

/-- The value that a write of bytes at an offset writes to the register at another: where it has no byte, what stands there, with
zero for what clears by writing 1 (log 30). -/
def State.regMerge (s : State) (r : MReg) (at_ off : Nat) (bs : List Byte) : Word :=
  BitVec.ofNat 64 (natOf ((bytesOf 8 (s.readReg r &&& ~~~r.w1c).toNat).mapIdx fun i old =>
    if off ≤ at_ + i then bs.getD (at_ + i - off) old else old))

/-- Whether all that a request touches is what its TDI, in ERROR, is bound to (R348). -/
def State.hostShut (s : State) (h : HostReq) : Bool :=
  match placeOf h.pa.toNat with
  | .mgmt off =>
    let rs := regsOf off h.len
    paSlot h.pa.toNat == 36 && !rs.isEmpty && rs.all fun p => s.tdiShut h.fn p.2.image p.2.queue
  | .sched off => s.tdiShut h.fn (some (off / 0x400000)) none
  | _ => false

/-- A read that the tables admit. -/
def State.hostFetch (s : State) (h : HostReq) : State :=
  match placeOf h.pa.toNat with
  | .mgmt off => s.complete h .success ((List.range h.len).map fun k => s.regByte h.fn (off + k))
  | .sched _ => s.hostServe h none
  | _ => s.hostMemory h none

/-- HOST_READ (R348, R353, R455). Nothing answers while the HD is lost (R434). -/
def execHostRead (h : HostReq) (s : State) : Out :=
  if (s.die 36).phase = .lost then .next s
  else if 16 < h.fn then .next (s.complete h .unsupported [])
  else match s.ideTake h with
    | none => .next s
    | some s1 =>
      .next (if s1.hostShut h then s1.complete h .success (List.replicate h.len 0xFF)
        else match s1.hostJudge (s1.hostMaster h.fn) rRead h.pa.toNat h.len with
          | .denied => s1.denyHost h
          | .unmapped => s1.complete h .unsupported []
          | .ok => s1.hostFetch h)

/-- Write the registers that a run of bytes touches, but for those of a TDI in ERROR. -/
def State.writeRegs (s : State) (fn off : Nat) (bs : List Byte) : State :=
  (regsOf off bs.length).foldl (fun (s : State) p =>
    if s.tdiShut fn p.2.image p.2.queue then s else s.writeReg p.2 (s.regMerge p.2 p.1 off bs)) s

/-- A write that the tables admit. -/
def State.hostPut (s : State) (h : HostReq) (bs : List Byte) : State :=
  match placeOf h.pa.toNat with
  | .mgmt off => (s.writeRegs h.fn off bs).complete h .success []
  | .sched off => if (s.image (off / 0x400000)).state != 1 then s.complete h .success [] else s.hostServe h (some bs)
  | _ => s.hostMemory h (some bs)

/-- HOST_WRITE (R348, R353, R455): the request's length is that of its bytes. -/
def execHostWrite (h : HostReq) (bytes : List Byte) (s : State) : Out :=
  let h := { h with len := bytes.length }
  if (s.die 36).phase = .lost then .next s
  else if 16 < h.fn then .next (s.complete h .unsupported [])
  else match s.ideTake h with
    | none => .next s
    | some s1 =>
      .next (if s1.hostShut h then s1.complete h .success []
        else match s1.hostJudge (s1.hostMaster h.fn) rWrite h.pa.toNat h.len with
          | .denied => s1.denyHost h
          | .unmapped => s1.complete h .unsupported []
          | .ok => s1.hostPut h bytes)

/-! ## Shape table and BDCFG (R98, R104, R454) -/

/-- An entry as the HD writes it: its tenant field is the tag of the TDI in RUN that wrote it, else 0 (R454). -/
def State.shapeBytes (s : State) (fn : Nat) (bytes : List Byte) : List Byte :=
  let tag := if isTdi fn && (s.tdi fn).state == .run then (s.tdi fn).tenant.toNat else 0
  bytes.take 16 ++ bytesOf 2 tag ++ (bytes.drop 18).take 46

/-- SHAPEBASE as the HD sets it: no rule says when, so only while no course runs, as the table's entries (R104; log 51). -/
def State.setShapebase (s : State) (base : Option Nat) : State :=
  match base with
  | some b => if s.launches.any fun l => l.state == .inCourse then s else s.updMgmt fun m => { m with shapebase := BitVec.ofNat 64 (b % 2 ^ 56 / 64 * 64) }
  | none => s

/-- SHAPE_TABLE_WRITE: a host write of an entry, applied when no course runs (R104, R454). `base` is the table's physical address,
if the HD sets it with the write (log 51). -/
def execShapeTableWrite (index fn : Nat) (bytes : List Byte) (base : Option Nat) (s : State) : Out :=
  event s (decide (index < 65536) && bytes.length == 64)
    ((s.setShapebase base).updMgmt fun m => { m with shapePend := m.shapePend ++ [(index, s.shapeBytes fn bytes)] }).applyShapes

/-- BDCFG_WRITE: the HD sets a BD's cache size between courses (R98). The cache holds the same bytes as its HBM4E here, so its
flush changes nothing. The rule gives no outcome for 17 to 31 units: such a write is ignored; DESIGN CHOICE (log 68). -/
def execBdcfgWrite (slot : Nat) (v : Word) (s : State) : Out :=
  event s (dieKind slot == some .bd && decide (fld v 0 5 ≤ 16) && !s.launches.any fun l => l.state == .inCourse)
    (s.updDie slot fun d => { d with bdcfg := BitVec.ofNat 64 (fld v 0 5) })

end Sys2Proof.Machine
end

