-- ==== Sys2Proof/Machine/Alu.lean ====
section
/-! DEFINITION. The values of integer and logic operations (07 R176-R181), shared by the 32-bit, 64-bit and W forms. -/

namespace Sys2Proof.Machine

/-- The high half of the 128-bit product (R176). -/
def mulHigh (uns : Bool) (a b : Word) : Word :=
  if uns then BitVec.ofNat 64 (a.toNat * b.toNat / 2 ^ 64)
  else BitVec.ofInt 64 (a.toInt * b.toInt / 2 ^ 64)

/-- The quotient, truncated toward zero; a divisor of zero gives all ones (R176, R177). -/
def divOf (uns : Bool) (a b : Word) : Word :=
  if b = 0 then BitVec.allOnes 64
  else if uns then BitVec.ofNat 64 (a.toNat / b.toNat)
  else BitVec.ofInt 64 (a.toInt.tdiv b.toInt)

/-- A − B × quotient; a divisor of zero gives A (R176, R177). -/
def remOf (uns : Bool) (a b : Word) : Word := if b = 0 then a else a - b * divOf uns a b

def shlOf (a b : Word) : Word := a <<< (b.toNat % 64)

/-- A right shift by B mod 64, zero-filled or sign-filled (R176). -/
def shrOf (ari : Bool) (a b : Word) : Word :=
  if ari then a.sshiftRight (b.toNat % 64) else a >>> (b.toNat % 64)

def rotlOf (a b : Word) : Word := a.rotateLeft (b.toNat % 64)
def minOf (uns : Bool) (a b : Word) : Word := if ltOf uns b a then b else a
def maxOf (uns : Bool) (a b : Word) : Word := if ltOf uns a b then b else a

/-- The number of one bits (R178). -/
def popcount (v : Word) : Word := BitVec.ofNat 64 (((List.range 64).filter fun i => v.getLsbD i).length)

/-- Leading zero bits; 64 for zero (R178). -/
def leadZeros (v : Word) : Word := BitVec.ofNat 64 (if v = 0 then 64 else 63 - v.toNat.log2)

/-- Trailing zero bits; 64 for zero (R178). -/
def trailZeros (v : Word) : Word :=
  BitVec.ofNat 64 (match (List.range 64).find? fun i => v.getLsbD i with | some i => i | none => 64)

/-- Bits 63:n+1 replaced by copies of bit n (R178). -/
def signFrom (v : Word) (n : Nat) : Word := (v <<< (63 - n)).sshiftRight (63 - n)

/-- A 32-bit register-register operation (R176). -/
def alu32 (lat : Nat) (op : Bool → Word → Word → Word) (f : L32) (s : State) : Out :=
  regOp s 1 f.stall.toNat lat [f.a.toNat, f.b.toNat] f.d.toNat fun e =>
    zext80 (op f.suffix (e.val f.a.toNat) (e.val f.b.toNat))

/-- A 32-bit operation whose second operand is the 6-bit field b (R178). -/
def aluQ (op : Bool → Word → BitVec 6 → Word) (f : L32) (s : State) : Out :=
  regOp s 1 f.stall.toNat 1 [f.a.toNat] f.d.toNat fun e => zext80 (op f.suffix (e.val f.a.toNat) f.b)

/-- A 64-bit register-register operation, its second operand val(b) + sext(imm) (R176). -/
def alu64 (lat : Nat) (op : Bool → Word → Word → Word) (f : LG) (s : State) : Out :=
  regOp s f.imm.words f.stall.toNat lat [f.a.toNat, f.b.toNat] f.d.toNat fun e =>
    zext80 (op f.suffix (e.val f.a.toNat) (e.op2 f))

/-- A 64-bit single-source operation (R178). -/
def alu64u (op : Word → Word) (f : LG) (s : State) : Out :=
  regOp s f.imm.words f.stall.toNat 1 [f.a.toNat] f.d.toNat fun e => zext80 (op (e.val f.a.toNat))

/-- A W-form operation on val(a) and I (R180). -/
def aluW (lat : Nat) (op : Bool → Word → Word → Word) (f : LW) (s : State) : Out :=
  regOp s f.imm.words f.stall.toNat lat [f.a.toNat] f.d.toNat fun e =>
    zext80 (op f.suffix (e.val f.a.toNat) (BitVec.ofInt 64 f.imm.val))

/-- A condition as the value of a compare (R181). -/
def cmpOf (p : Bool → Word → Word → Bool) (sfx : Bool) (a b : Word) : Word := if p sfx a b then 1 else 0

/-- The write of part 1 of a mov (R179): bits 79:64 of a into d, or bits 15:0 of val(a) into bits 79:64 of d. -/
def movHigh (e : Engine) (d a : Nat) : Option Write :=
  match Reg.ofCode a, Reg.ofCode d with
  | .a i, .a j => some (.aHi j ((e.a[i]).extractLsb' 64 16))
  | .a i, _ => e.writeTo d (BitVec.ofNat 80 (fld (e.a[i]) 64 16))
  | _, .a j => some (.aHi j ((e.val a).extractLsb' 0 16))
  | _, _ => e.writeTo d (zext80 (e.val a))

/-- The write of a mov (R179): part 0 moves a value, all 80 bits between address registers. -/
def movWrite (e : Engine) (d a part : Nat) : Option Write :=
  if part = 1 then movHigh e d a else e.writeTo d (e.val80 a)

/-- The value a mov would write to a loop counter (R174). -/
def movValue (e : Engine) (a part : Nat) : Nat :=
  match Reg.ofCode a with
  | .a i => if part = 1 then fld (e.a[i]) 64 16 else fld (e.a[i]) 0 64
  | _ => (e.val a).toNat

/-- A write to a loop counter of a value with bits 63:48 set is refused whole (R174, R392). -/
def lcFault (code value : Nat) : Option (Nat × Nat) :=
  match Reg.ofCode code with
  | .lc _ => check (value / 2 ^ 48 % 2 ^ 16 != 0) (0x0006, 0x400000 + code * 65536 + value / 2 ^ 48 % 2 ^ 16)
  | _ => none

/-- mov (R179). -/
def movOp (s : State) (words stall d a part : Nat) : Out :=
  onEngine s fun e c =>
    let ws := landing c 1 (movWrite e d a part)
    guarded s e c [e.destOf a] ws [lcFault d (movValue e a part)] (finish s e c words stall ws)

end Sys2Proof.Machine
end

