-- ==== Sys2Proof/Machine/Scalar32.lean ====
section
/-! DEFINITION. The 32-bit scalar instructions: arithmetic, logic, compares, moves and address arithmetic (07 R176-R182, R198). -/

namespace Sys2Proof.Machine

/-- nop: issues and honours its stall count (R198). -/
def execNop (f : L32) (s : State) : Out := regOp s 1 f.stall.toNat 1 [] 63 fun _ => 0

/-- 32-bit add: A + B (R176). -/
def execAdd32 (f : L32) (s : State) : Out := alu32 1 (fun _ a b => a + b) f s

/-- 32-bit sub: A − B (R176). -/
def execSub32 (f : L32) (s : State) : Out := alu32 1 (fun _ a b => a - b) f s

/-- 32-bit mul: the low 64 bits of A × B (R176). -/
def execMul32 (f : L32) (s : State) : Out := alu32 3 (fun _ a b => a * b) f s

/-- 32-bit mulh: the high 64 bits of A × B, signed or `.uns` (R176). -/
def execMulh32 (f : L32) (s : State) : Out := alu32 3 (mulHigh) f s

/-- 32-bit div: the quotient, signed or `.uns`, never faulting (R176, R177). -/
def execDiv32 (f : L32) (s : State) : Out := alu32 12 (divOf) f s

/-- 32-bit rem: the remainder, signed or `.uns`, never faulting (R176, R177). -/
def execRem32 (f : L32) (s : State) : Out := alu32 12 (remOf) f s

/-- 32-bit and: A & B (R176). -/
def execAnd32 (f : L32) (s : State) : Out := alu32 1 (fun _ a b => a &&& b) f s

/-- 32-bit or: A | B (R176). -/
def execOr32 (f : L32) (s : State) : Out := alu32 1 (fun _ a b => a ||| b) f s

/-- 32-bit xor: A ^ B (R176). -/
def execXor32 (f : L32) (s : State) : Out := alu32 1 (fun _ a b => a ^^^ b) f s

/-- 32-bit andn: A & ~B (R176). -/
def execAndn32 (f : L32) (s : State) : Out := alu32 1 (fun _ a b => a &&& ~~~b) f s

/-- 32-bit shl: A shifted left by B mod 64 (R176). -/
def execShl32 (f : L32) (s : State) : Out := alu32 1 (fun _ a b => shlOf a b) f s

/-- 32-bit shr: A shifted right by B mod 64, zero-filled or `.ari` (R176). -/
def execShr32 (f : L32) (s : State) : Out := alu32 1 (shrOf) f s

/-- 32-bit rotl: A rotated left by B mod 64 (R176). -/
def execRotl32 (f : L32) (s : State) : Out := alu32 1 (fun _ a b => rotlOf a b) f s

/-- 32-bit min: the lesser, signed or `.uns` (R176). -/
def execMin32 (f : L32) (s : State) : Out := alu32 1 (minOf) f s

/-- 32-bit max: the greater, signed or `.uns` (R176). -/
def execMax32 (f : L32) (s : State) : Out := alu32 1 (maxOf) f s

/-- addq: val(a) + n, n signed in field b (R178). -/
def execAddq (f : L32) (s : State) : Out := aluQ (fun _ a b => a + b.signExtend 64) f s

/-- shlq: val(a) shifted left by n (R178). -/
def execShlq (f : L32) (s : State) : Out := aluQ (fun _ a b => a <<< b.toNat) f s

/-- shrq: val(a) shifted right by n, zero-filled or `.ari` (R178). -/
def execShrq (f : L32) (s : State) : Out := aluQ (fun ari a b => shrOf ari a (b.setWidth 64)) f s

/-- 32-bit mov; field b is the part number (R179). -/
def execMov32 (f : L32) (s : State) : Out := movOp s 1 f.stall.toNat f.d.toNat f.a.toNat f.b.toNat

/-- 32-bit popc: the number of one bits (R178). -/
def execPopc32 (f : L32) (s : State) : Out := aluQ (fun _ a _ => popcount a) f s

/-- 32-bit clz: leading zero bits (R178). -/
def execClz32 (f : L32) (s : State) : Out := aluQ (fun _ a _ => leadZeros a) f s

/-- 32-bit ctz: trailing zero bits (R178). -/
def execCtz32 (f : L32) (s : State) : Out := aluQ (fun _ a _ => trailZeros a) f s

/-- sext: bits above n copy bit n, n in field b (R178). -/
def execSext32 (f : L32) (s : State) : Out := aluQ (fun _ a b => signFrom a b.toNat) f s

/-- 32-bit ceq: A = B (R181). -/
def execCeq32 (f : L32) (s : State) : Out := alu32 1 (cmpOf (fun _ a b => a == b)) f s

/-- 32-bit cne: A ≠ B (R181). -/
def execCne32 (f : L32) (s : State) : Out := alu32 1 (cmpOf (fun _ a b => a != b)) f s

/-- 32-bit clt: A < B, signed or `.uns` (R181). -/
def execClt32 (f : L32) (s : State) : Out := alu32 1 (cmpOf (ltOf)) f s

/-- 32-bit cle: A ≤ B, signed or `.uns` (R181). -/
def execCle32 (f : L32) (s : State) : Out := alu32 1 (cmpOf (leOf)) f s

/-- 32-bit cand: P and Q, Q inverted under `.neg` (R181). -/
def execCand32 (f : L32) (s : State) : Out := alu32 1 (cmpOf (fun n a b => truth a && truthNeg n b)) f s

/-- 32-bit cor: P or Q, Q inverted under `.neg` (R181). -/
def execCor32 (f : L32) (s : State) : Out := alu32 1 (cmpOf (fun n a b => truth a || truthNeg n b)) f s

/-- 32-bit cxor: P xor Q, Q inverted under `.neg` (R181). -/
def execCxor32 (f : L32) (s : State) : Out := alu32 1 (cmpOf (fun n a b => truth a != truthNeg n b)) f s

/-- 32-bit adda: val80(a) + sext80(val(b)) (R182). -/
def execAdda32 (f : L32) (s : State) : Out := regOp s 1 f.stall.toNat 1 [f.a.toNat, f.b.toNat] f.d.toNat fun e =>
  e.val80 f.a.toNat + sext80 (e.val f.b.toNat)

/-- 32-bit suba: bits 63:0 of the difference of addresses (R182). -/
def execSuba32 (f : L32) (s : State) : Out := regOp s 1 f.stall.toNat 1 [f.a.toNat, f.b.toNat] f.d.toNat (fun e =>
  zext80 ((e.val80 f.a.toNat - e.val80 f.b.toNat).extractLsb' 0 64))

end Sys2Proof.Machine
end

