-- ==== Sys2Proof/Machine/Scalar64.lean ====
section
/-! DEFINITION. The 64-bit and 96-bit scalar instructions of layouts G and W (07 R176-R182). -/

namespace Sys2Proof.Machine

/-- 64-bit add: A + B (R176). -/
def execAdd64 (f : LG) (s : State) : Out := alu64 1 (fun _ a b => a + b) f s

/-- 64-bit sub: A − B (R176). -/
def execSub64 (f : LG) (s : State) : Out := alu64 1 (fun _ a b => a - b) f s

/-- 64-bit mul: the low 64 bits of A × B (R176). -/
def execMul64 (f : LG) (s : State) : Out := alu64 3 (fun _ a b => a * b) f s

/-- 64-bit mulh: the high 64 bits of A × B, signed or `.uns` (R176). -/
def execMulh64 (f : LG) (s : State) : Out := alu64 3 (mulHigh) f s

/-- 64-bit div: the quotient, signed or `.uns`, never faulting (R176, R177). -/
def execDiv64 (f : LG) (s : State) : Out := alu64 12 (divOf) f s

/-- 64-bit rem: the remainder, signed or `.uns`, never faulting (R176, R177). -/
def execRem64 (f : LG) (s : State) : Out := alu64 12 (remOf) f s

/-- 64-bit and: A & B (R176). -/
def execAnd64 (f : LG) (s : State) : Out := alu64 1 (fun _ a b => a &&& b) f s

/-- 64-bit or: A | B (R176). -/
def execOr64 (f : LG) (s : State) : Out := alu64 1 (fun _ a b => a ||| b) f s

/-- 64-bit xor: A ^ B (R176). -/
def execXor64 (f : LG) (s : State) : Out := alu64 1 (fun _ a b => a ^^^ b) f s

/-- 64-bit andn: A & ~B (R176). -/
def execAndn64 (f : LG) (s : State) : Out := alu64 1 (fun _ a b => a &&& ~~~b) f s

/-- 64-bit shl: A shifted left by B mod 64 (R176). -/
def execShl64 (f : LG) (s : State) : Out := alu64 1 (fun _ a b => shlOf a b) f s

/-- 64-bit shr: A shifted right by B mod 64, zero-filled or `.ari` (R176). -/
def execShr64 (f : LG) (s : State) : Out := alu64 1 (shrOf) f s

/-- 64-bit rotl: A rotated left by B mod 64 (R176). -/
def execRotl64 (f : LG) (s : State) : Out := alu64 1 (fun _ a b => rotlOf a b) f s

/-- 64-bit min: the lesser, signed or `.uns` (R176). -/
def execMin64 (f : LG) (s : State) : Out := alu64 1 (minOf) f s

/-- 64-bit max: the greater, signed or `.uns` (R176). -/
def execMax64 (f : LG) (s : State) : Out := alu64 1 (maxOf) f s

/-- sel: val(x) ≠ 0 selects A, else val(b) (R176). -/
def execSel (f : LG) (s : State) : Out := regOp s f.imm.words f.stall.toNat 1 [f.a.toNat, f.b.toNat, f.x.toNat] f.d.toNat fun e =>
  if truth (e.val f.x.toNat) then zext80 (e.val f.a.toNat) else zext80 (e.val f.b.toNat)

/-- 64-bit mov; field b is the part number (R179). -/
def execMov64 (f : LG) (s : State) : Out := movOp s f.imm.words f.stall.toNat f.d.toNat f.a.toNat f.b.toNat

/-- 64-bit popc: the number of one bits (R178). -/
def execPopc64 (f : LG) (s : State) : Out := alu64u popcount f s

/-- 64-bit clz: leading zero bits (R178). -/
def execClz64 (f : LG) (s : State) : Out := alu64u leadZeros f s

/-- 64-bit ctz: trailing zero bits (R178). -/
def execCtz64 (f : LG) (s : State) : Out := alu64u trailZeros f s

/-- 64-bit sext: n in imm bits 5:0 (R178). -/
def execSext64 (f : LG) (s : State) : Out := alu64u (fun a => signFrom a (f.imm.bits % 64)) f s

/-- 64-bit ceq: A = B (R181). -/
def execCeq64 (f : LG) (s : State) : Out := alu64 1 (cmpOf (fun _ a b => a == b)) f s

/-- 64-bit cne: A ≠ B (R181). -/
def execCne64 (f : LG) (s : State) : Out := alu64 1 (cmpOf (fun _ a b => a != b)) f s

/-- 64-bit clt: A < B, signed or `.uns` (R181). -/
def execClt64 (f : LG) (s : State) : Out := alu64 1 (cmpOf (ltOf)) f s

/-- 64-bit cle: A ≤ B, signed or `.uns` (R181). -/
def execCle64 (f : LG) (s : State) : Out := alu64 1 (cmpOf (leOf)) f s

/-- 64-bit cand: P and Q, Q inverted under `.neg` (R181). -/
def execCand64 (f : LG) (s : State) : Out := alu64 1 (cmpOf (fun n a b => truth a && truthNeg n b)) f s

/-- 64-bit cor: P or Q, Q inverted under `.neg` (R181). -/
def execCor64 (f : LG) (s : State) : Out := alu64 1 (cmpOf (fun n a b => truth a || truthNeg n b)) f s

/-- 64-bit cxor: P xor Q, Q inverted under `.neg` (R181). -/
def execCxor64 (f : LG) (s : State) : Out := alu64 1 (cmpOf (fun n a b => truth a != truthNeg n b)) f s

/-- 64-bit adda: val80(a) + sext80(val(b)) + sext(imm) (R182). -/
def execAdda64 (f : LG) (s : State) : Out := regOp s f.imm.words f.stall.toNat 1 [f.a.toNat, f.b.toNat] f.d.toNat fun e =>
  e.ea f.a.toNat f.b.toNat f.imm.val

/-- 64-bit suba: bits 63:0 of the difference of addresses (R182). -/
def execSuba64 (f : LG) (s : State) : Out := regOp s f.imm.words f.stall.toNat 1 [f.a.toNat, f.b.toNat] f.d.toNat (fun e =>
  zext80 ((e.val80 f.a.toNat - e.val80 f.b.toNat).extractLsb' 0 64))

/-- addi: val(a) + I (R180). -/
def execAddi (f : LW) (s : State) : Out := aluW 1 (fun _ a b => a + b) f s

/-- muli: low 64 bits of val(a) × I (R180). -/
def execMuli (f : LW) (s : State) : Out := aluW 3 (fun _ a b => a * b) f s

/-- andi: val(a) & I (R180). -/
def execAndi (f : LW) (s : State) : Out := aluW 1 (fun _ a b => a &&& b) f s

/-- ori: val(a) | I (R180). -/
def execOri (f : LW) (s : State) : Out := aluW 1 (fun _ a b => a ||| b) f s

/-- xori: val(a) ^ I (R180). -/
def execXori (f : LW) (s : State) : Out := aluW 1 (fun _ a b => a ^^^ b) f s

/-- shli: val(a) shifted left by I mod 64 (R180). -/
def execShli (f : LW) (s : State) : Out := aluW 1 (fun _ a b => shlOf a b) f s

/-- shri: val(a) shifted right by I mod 64, zero-filled or `.ari` (R180). -/
def execShri (f : LW) (s : State) : Out := aluW 1 (shrOf) f s

/-- li: I mod 2^64 (R180). -/
def execLi (f : LW) (s : State) : Out := regOp s f.imm.words f.stall.toNat 1 [] f.d.toNat fun _ => zext80 (BitVec.ofInt 64 f.imm.val)

/-- lia: I mod 2^80, or with `.loc` the local-aperture address of I (R180). -/
def execLia (f : LW) (s : State) : Out := regOp s f.imm.words f.stall.toNat 1 [] f.d.toNat fun _ =>
  if f.suffix then localVa (f.imm.bits % 2 ^ 28) else BitVec.ofInt 80 f.imm.val

/-- addai: (val80(a) + I) mod 2^80 (R180). -/
def execAddai (f : LW) (s : State) : Out := regOp s f.imm.words f.stall.toNat 1 [f.a.toNat] f.d.toNat fun e =>
  e.val80 f.a.toNat + BitVec.ofInt 80 f.imm.val

/-- ceqi: val(a) against I, equal (R181). -/
def execCeqi (f : LW) (s : State) : Out := aluW 1 (cmpOf (fun _ a b => a == b)) f s

/-- cnei: val(a) against I, not equal (R181). -/
def execCnei (f : LW) (s : State) : Out := aluW 1 (cmpOf (fun _ a b => a != b)) f s

/-- clti: val(a) against I, less, signed or `.uns` (R181). -/
def execClti (f : LW) (s : State) : Out := aluW 1 (cmpOf (ltOf)) f s

/-- clei: val(a) against I, less or equal, signed or `.uns` (R181). -/
def execClei (f : LW) (s : State) : Out := aluW 1 (cmpOf (leOf)) f s

/-- cgti: val(a) against I, greater, signed or `.uns` (R181). -/
def execCgti (f : LW) (s : State) : Out := aluW 1 (cmpOf (fun u a b => ltOf u b a)) f s

/-- cgei: val(a) against I, greater or equal, signed or `.uns` (R181). -/
def execCgei (f : LW) (s : State) : Out := aluW 1 (cmpOf (fun u a b => leOf u b a)) f s

end Sys2Proof.Machine
end

