-- ==== Sys2Proof/Machine/Special.lean ====
section
/-! DEFINITION. The special functions (08 R215, R216): each lane is the exact value rounded once. A value that is not
exact is enclosed between two fixed-point numbers, at growing precision, until both ends round alike (log 14). -/

namespace Sys2Proof.Machine

/-! ## Fixed-point values: integers that stand for n × 2^−F -/

/-- ± m × 2^e at F fraction bits, rounded down. -/
def fixed (F : Nat) (n : Int) (e : Int) : Int :=
  if 0 ≤ e + F then n * 2 ^ (e + F).toNat else n / 2 ^ (-(e + F)).toNat

def fmul (F : Nat) (a b : Int) : Int := a * b / 2 ^ F
def fdiv (F : Nat) (a b : Int) : Int := a * 2 ^ F / b

/-- Σ r^k / k! from a term on (`fuel` terms). -/
def expSeries (F : Nat) (r : Int) : Nat → Int → Nat → Int
  | 0, _, _ => 0
  | fuel + 1, term, k => term + expSeries F r fuel (fmul F term r / ((k : Int) + 1)) (k + 1)

/-- e^r for 0 ≤ r < 2. -/
def expFix (F : Nat) (r : Int) : Int := expSeries F r (F / 3 + 24) (2 ^ F) 0

/-- Σ ± z^(2k+1) / (2k+1) from a power on; `s` is the sign of each step. -/
def oddSeries (F : Nat) (zz s : Int) : Nat → Int → Nat → Int
  | 0, _, _ => 0
  | fuel + 1, p, k => p / ((k : Int)) + oddSeries F zz s fuel (s * fmul F p zz) (k + 2)

/-- atanh z for 0 ≤ z ≤ 1/3. -/
def atanhFix (F : Nat) (z : Int) : Int := oddSeries F (fmul F z z) 1 (F / 3 + 8) z 1

/-- arctan (1/q). -/
def atanInv (F : Nat) (q : Nat) : Int := oddSeries F (2 ^ F / ((q : Int) * q)) (-1) (F / 4 + 8) (2 ^ F / (q : Int)) 1

def ln2Fix (F : Nat) : Int := 2 * atanhFix F (2 ^ F / 3)

/-- π, by 16 arctan(1/5) − 4 arctan(1/239). -/
def piFix (F : Nat) : Int := 16 * atanInv F 5 - 4 * atanInv F 239

/-- sin r for 0 ≤ r < 2: Σ (−1)^k r^(2k+1) / (2k+1)!. -/
def sinSeries (F : Nat) (rr : Int) : Nat → Int → Nat → Int
  | 0, _, _ => 0
  | fuel + 1, term, k => term + sinSeries F rr fuel (-(fmul F term rr) / (((k : Int) + 1) * (k + 2))) (k + 2)

def sinFix (F : Nat) (r : Int) : Int := sinSeries F (fmul F r r) (F / 4 + 16) r 1

/-- e^−y for y ≥ 0: y is taken below a multiple of ln 2. -/
def expNeg (F : Nat) (y : Int) : Int :=
  let l := ln2Fix F
  let n := y / l + 1
  expFix F (n * l - y) / 2 ^ n.toNat

/-! ## Rounding an enclosed value -/

/-- The bound on the error of the series above, in units of 2^−F. -/
def slack : Int := 2 ^ 40

/-- Round the value that `approx` gives to within `slack`, scaled by 2^k: at the first precision whose two ends round
alike. -/
def encloseAt (f : FloatFmt) (k : Int) (approx : Nat → Int) : List Nat → Nat
  | [] => f.nan
  | [F] => f.round (.ofInt (approx F) (k - F))
  | F :: Fs =>
    let a := approx F
    let lo := f.round (.ofInt (a - slack) (k - F))
    let hi := f.round (.ofInt (a + slack) (k - F))
    if lo = hi then lo else encloseAt f k approx Fs

def enclose (f : FloatFmt) (k : Int) (approx : Nat → Int) : Nat := encloseAt f k approx [192, 320, 576, 1088]

/-! ## The functions on a finite nonzero value ± m × 2^e -/

/-- floor of ± m × 2^e. -/
def floorOf (n e : Int) : Int := if 0 ≤ e then n * 2 ^ e.toNat else n / 2 ^ (-e).toNat

/-- Whether ± m × 2^e is an integer. -/
def isWhole (m : Nat) (e : Int) : Bool := decide (0 ≤ e) || m % 2 ^ (-e).toNat == 0

/-- 2^x. -/
def exp2Of (f : FloatFmt) (neg : Bool) (m : Nat) (e : Int) : Nat :=
  if 9 ≤ (m.log2 : Int) + e then (if neg then f.round (.fin false 0 0) else f.round (.inf false))
  else
    let n := floorOf (signed neg m) e
    if isWhole m e then f.round (.fin false 1 n)
    else enclose f n fun F => expFix F (fmul F (fixed F (signed neg m) e - n * 2 ^ F) (ln2Fix F))

/-- log2 x, for x > 0. -/
def log2Of (f : FloatFmt) (m : Nat) (e : Int) : Nat :=
  let l := m.log2
  if m = 2 ^ l then f.round (.ofInt (l + e) 0)
  else enclose f 0 fun F =>
    ((l : Int) + e) * 2 ^ F + fdiv F (2 * atanhFix F (fdiv F ((m : Int) - 2 ^ l) ((m : Int) + 2 ^ l))) (ln2Fix F)

/-- A quotient or root as a value: the bits found, and a low bit that says whether something is left over. -/
def sticky (neg : Bool) (q : Nat) (left : Bool) (e : Int) : FVal := .fin neg (2 * q + (if left then 1 else 0)) (e - 1)

/-- 1 / x. -/
def rcpOf (f : FloatFmt) (neg : Bool) (m : Nat) (e : Int) : Nat :=
  let k := m.log2 + 64
  f.round (sticky neg (2 ^ k / m) (2 ^ k % m != 0) (-e - k))

/-- The integer square root, by bits from `b` down. -/
def isqrt (n : Nat) : Nat → Nat → Nat
  | 0, r => r
  | b + 1, r => isqrt n b (if (r + 2 ^ b) * (r + 2 ^ b) ≤ n then r + 2 ^ b else r)

def sqrtNat (n : Nat) : Nat := isqrt n (n.log2 / 2 + 1) 0

/-- √x, for x > 0. -/
def sqrtOf (f : FloatFmt) (m : Nat) (e : Int) : Nat :=
  let k : Nat := if (e % 2 = 0) then 128 else 129
  let n := m * 2 ^ k
  let r := sqrtNat n
  f.round (sticky false r (r * r != n) ((e - k) / 2))

/-- 1 / √x, for x > 0. -/
def rsqrtOf (f : FloatFmt) (m : Nat) (e : Int) : Nat :=
  let h : Nat := m.log2 + 128
  let k : Nat := if (e % 2 = 0) then 2 * h else 2 * h + 1
  let r := sqrtNat (2 ^ k / m)
  f.round (sticky false r (r * r * m != 2 ^ k) ((-e - k) / 2))

/-- tanh x. -/
def tanhOf (f : FloatFmt) (neg : Bool) (m : Nat) (e : Int) : Nat :=
  let mag : Nat :=
    if 6 ≤ (m.log2 : Int) + e then f.round (.fin false 1 0)
    else enclose f 0 fun F =>
      let u := expNeg F (fixed F m (e + 1))
      fdiv F (2 ^ F - u) (2 ^ F + u)
  f.withSign neg mag

/-- 1 / (1 + e^−x). -/
def sigmOf (f : FloatFmt) (neg : Bool) (m : Nat) (e : Int) : Nat :=
  if 7 ≤ (m.log2 : Int) + e then f.round (.fin false (if neg then 0 else 1) 0)
  else enclose f 0 fun F =>
    let u := expNeg F (fixed F m e)
    fdiv F (if neg then u else 2 ^ F) (2 ^ F + u)

/-- sin πx: at quarter turns exact, else by the nearest whole half-turn. -/
def sinOf (f : FloatFmt) (neg : Bool) (m : Nat) (e : Int) : Nat :=
  if isWhole m e then f.withSign neg 0
  else
    let n := floorOf m e
    let flip := neg != (n % 2 == 1)
    let mag : Nat :=
      if isWhole m (e + 1) then f.round (.fin false 1 0)
      else enclose f 0 fun F =>
        let t := fixed F m e - n * 2 ^ F
        sinFix F (fmul F (if 2 * t < 2 ^ F then t else 2 ^ F - t) (piFix F))
    f.withSign flip mag

/-! ## Special inputs (R216) -/

/-- A function of a value, with its results at NaN, the infinities and the zeros. `negNan`: negative values give NaN. -/
def special (f : FloatFmt) (x : FVal) (negInf posInf : Nat) (zero : Bool → Nat) (negNan : Bool)
    (g : Bool → Nat → Int → Nat) : Nat :=
  match x with
  | .nan => f.nan
  | .inf true => negInf
  | .inf false => posInf
  | .fin neg m e => if m = 0 then zero neg else if neg && negNan then f.nan else g neg m e

def one (f : FloatFmt) : Nat := f.round (.fin false 1 0)
def infBits (f : FloatFmt) (neg : Bool) : Nat := f.round (.inf neg)

def exp2Lane (f : FloatFmt) (x : FVal) : Nat := special f x 0 (infBits f false) (fun _ => one f) false (exp2Of f)
def log2Lane (f : FloatFmt) (x : FVal) : Nat :=
  special f x f.nan (infBits f false) (fun _ => infBits f true) true fun _ m e => log2Of f m e
def rcpLane (f : FloatFmt) (x : FVal) : Nat := special f x (f.withSign true 0) 0 (infBits f) false (rcpOf f)
def rsqrtLane (f : FloatFmt) (x : FVal) : Nat := special f x f.nan 0 (infBits f) true fun _ m e => rsqrtOf f m e
def sqrtLane (f : FloatFmt) (x : FVal) : Nat :=
  special f x f.nan (infBits f false) (fun neg => f.withSign neg 0) true fun _ m e => sqrtOf f m e
def tanhLane (f : FloatFmt) (x : FVal) : Nat :=
  special f x (f.withSign true (one f)) (one f) (fun neg => f.withSign neg 0) false (tanhOf f)
def sigmLane (f : FloatFmt) (x : FVal) : Nat :=
  special f x 0 (one f) (fun _ => f.round (.fin false 1 (-1))) false (sigmOf f)
def sinLane (f : FloatFmt) (x : FVal) : Nat := special f x f.nan f.nan (fun neg => f.withSign neg 0) false (sinOf f)

/-- A special function on every lane, latency 8 (R215, R224). -/
def specialOp (s : State) (f : LV) (lane : FloatFmt → FVal → Nat) : Out :=
  let w := laneBits f.fd.toNat
  let fmt := (floatOf f.fd.toNat).getD fmt32
  vecOp s f 8 {} [] fun e => toW f (vregOf w ((lanesOf w (e.wReg f.wa.toNat)).map fun v => lane fmt (fmt.value v)))

/-- vexp2 (R215). -/
def execVexp2 (f : LV) (s : State) : Out := specialOp s f exp2Lane
/-- vlog2 (R215). -/
def execVlog2 (f : LV) (s : State) : Out := specialOp s f log2Lane
/-- vrcp (R215). -/
def execVrcp (f : LV) (s : State) : Out := specialOp s f rcpLane
/-- vrsqrt (R215). -/
def execVrsqrt (f : LV) (s : State) : Out := specialOp s f rsqrtLane
/-- vsqrt (R215). -/
def execVsqrt (f : LV) (s : State) : Out := specialOp s f sqrtLane
/-- vtanh (R215). -/
def execVtanh (f : LV) (s : State) : Out := specialOp s f tanhLane
/-- vsigm (R215). -/
def execVsigm (f : LV) (s : State) : Out := specialOp s f sigmLane
/-- vsin: the argument in half-turns (R215). -/
def execVsin (f : LV) (s : State) : Out := specialOp s f sinLane

end Sys2Proof.Machine
end

