-- ==== Sys2Proof/Machine/Dispatch.lean ====
section
/-! DEFINITION. One arm for each constructor of `Instr`. -/

namespace Sys2Proof.Machine

def exec (i : Instr) (s : State) : Host.Outcome State Fault Refusal :=
  match i with
  | .nop f => Sys2Proof.Machine.execNop f s
  | .add32 f => Sys2Proof.Machine.execAdd32 f s
  | .sub32 f => Sys2Proof.Machine.execSub32 f s
  | .mul32 f => Sys2Proof.Machine.execMul32 f s
  | .mulh32 f => Sys2Proof.Machine.execMulh32 f s
  | .div32 f => Sys2Proof.Machine.execDiv32 f s
  | .rem32 f => Sys2Proof.Machine.execRem32 f s
  | .and32 f => Sys2Proof.Machine.execAnd32 f s
  | .or32 f => Sys2Proof.Machine.execOr32 f s
  | .xor32 f => Sys2Proof.Machine.execXor32 f s
  | .andn32 f => Sys2Proof.Machine.execAndn32 f s
  | .shl32 f => Sys2Proof.Machine.execShl32 f s
  | .shr32 f => Sys2Proof.Machine.execShr32 f s
  | .rotl32 f => Sys2Proof.Machine.execRotl32 f s
  | .min32 f => Sys2Proof.Machine.execMin32 f s
  | .max32 f => Sys2Proof.Machine.execMax32 f s
  | .addq f => Sys2Proof.Machine.execAddq f s
  | .shlq f => Sys2Proof.Machine.execShlq f s
  | .shrq f => Sys2Proof.Machine.execShrq f s
  | .mov32 f => Sys2Proof.Machine.execMov32 f s
  | .popc32 f => Sys2Proof.Machine.execPopc32 f s
  | .clz32 f => Sys2Proof.Machine.execClz32 f s
  | .ctz32 f => Sys2Proof.Machine.execCtz32 f s
  | .sext32 f => Sys2Proof.Machine.execSext32 f s
  | .ceq32 f => Sys2Proof.Machine.execCeq32 f s
  | .cne32 f => Sys2Proof.Machine.execCne32 f s
  | .clt32 f => Sys2Proof.Machine.execClt32 f s
  | .cle32 f => Sys2Proof.Machine.execCle32 f s
  | .cand32 f => Sys2Proof.Machine.execCand32 f s
  | .cor32 f => Sys2Proof.Machine.execCor32 f s
  | .cxor32 f => Sys2Proof.Machine.execCxor32 f s
  | .adda32 f => Sys2Proof.Machine.execAdda32 f s
  | .suba32 f => Sys2Proof.Machine.execSuba32 f s
  | .ldxB f => Sys2Proof.Machine.execLdxB f s
  | .ldxH f => Sys2Proof.Machine.execLdxH f s
  | .ldxW f => Sys2Proof.Machine.execLdxW f s
  | .ldxD f => Sys2Proof.Machine.execLdxD f s
  | .stxB f => Sys2Proof.Machine.execStxB f s
  | .stxH f => Sys2Proof.Machine.execStxH f s
  | .stxW f => Sys2Proof.Machine.execStxW f s
  | .stxD f => Sys2Proof.Machine.execStxD f s
  | .jr f => Sys2Proof.Machine.execJr f s
  | .callr f => Sys2Proof.Machine.execCallr f s
  | .ret f => Sys2Proof.Machine.execRet f s
  | .eret f => Sys2Proof.Machine.execEret f s
  | .brk f => Sys2Proof.Machine.execBrk f s
  | .hint32 f => Sys2Proof.Machine.execHint32 f s
  | .add64 f => Sys2Proof.Machine.execAdd64 f s
  | .sub64 f => Sys2Proof.Machine.execSub64 f s
  | .mul64 f => Sys2Proof.Machine.execMul64 f s
  | .mulh64 f => Sys2Proof.Machine.execMulh64 f s
  | .div64 f => Sys2Proof.Machine.execDiv64 f s
  | .rem64 f => Sys2Proof.Machine.execRem64 f s
  | .and64 f => Sys2Proof.Machine.execAnd64 f s
  | .or64 f => Sys2Proof.Machine.execOr64 f s
  | .xor64 f => Sys2Proof.Machine.execXor64 f s
  | .andn64 f => Sys2Proof.Machine.execAndn64 f s
  | .shl64 f => Sys2Proof.Machine.execShl64 f s
  | .shr64 f => Sys2Proof.Machine.execShr64 f s
  | .rotl64 f => Sys2Proof.Machine.execRotl64 f s
  | .min64 f => Sys2Proof.Machine.execMin64 f s
  | .max64 f => Sys2Proof.Machine.execMax64 f s
  | .sel f => Sys2Proof.Machine.execSel f s
  | .addi f => Sys2Proof.Machine.execAddi f s
  | .muli f => Sys2Proof.Machine.execMuli f s
  | .andi f => Sys2Proof.Machine.execAndi f s
  | .ori f => Sys2Proof.Machine.execOri f s
  | .xori f => Sys2Proof.Machine.execXori f s
  | .shli f => Sys2Proof.Machine.execShli f s
  | .shri f => Sys2Proof.Machine.execShri f s
  | .li f => Sys2Proof.Machine.execLi f s
  | .lia f => Sys2Proof.Machine.execLia f s
  | .addai f => Sys2Proof.Machine.execAddai f s
  | .ceqi f => Sys2Proof.Machine.execCeqi f s
  | .cnei f => Sys2Proof.Machine.execCnei f s
  | .clti f => Sys2Proof.Machine.execClti f s
  | .clei f => Sys2Proof.Machine.execClei f s
  | .cgti f => Sys2Proof.Machine.execCgti f s
  | .cgei f => Sys2Proof.Machine.execCgei f s
  | .ceq64 f => Sys2Proof.Machine.execCeq64 f s
  | .cne64 f => Sys2Proof.Machine.execCne64 f s
  | .clt64 f => Sys2Proof.Machine.execClt64 f s
  | .cle64 f => Sys2Proof.Machine.execCle64 f s
  | .cand64 f => Sys2Proof.Machine.execCand64 f s
  | .cor64 f => Sys2Proof.Machine.execCor64 f s
  | .cxor64 f => Sys2Proof.Machine.execCxor64 f s
  | .mov64 f => Sys2Proof.Machine.execMov64 f s
  | .popc64 f => Sys2Proof.Machine.execPopc64 f s
  | .clz64 f => Sys2Proof.Machine.execClz64 f s
  | .ctz64 f => Sys2Proof.Machine.execCtz64 f s
  | .sext64 f => Sys2Proof.Machine.execSext64 f s
  | .adda64 f => Sys2Proof.Machine.execAdda64 f s
  | .suba64 f => Sys2Proof.Machine.execSuba64 f s
  | .ldB f => Sys2Proof.Machine.execLdB f s
  | .ldH f => Sys2Proof.Machine.execLdH f s
  | .ldW f => Sys2Proof.Machine.execLdW f s
  | .ldD f => Sys2Proof.Machine.execLdD f s
  | .stB f => Sys2Proof.Machine.execStB f s
  | .stH f => Sys2Proof.Machine.execStH f s
  | .stW f => Sys2Proof.Machine.execStW f s
  | .stD f => Sys2Proof.Machine.execStD f s
  | .ldA f => Sys2Proof.Machine.execLdA f s
  | .stA f => Sys2Proof.Machine.execStA f s
  | .b f => Sys2Proof.Machine.execB f s
  | .call f => Sys2Proof.Machine.execCall f s
  | .loopI f => Sys2Proof.Machine.execLoopI f s
  | .loopS f => Sys2Proof.Machine.execLoopS f s
  | .wait f => Sys2Proof.Machine.execWait f s
  | .fenceC f => Sys2Proof.Machine.execFenceC f s
  | .fenceX f => Sys2Proof.Machine.execFenceX f s
  | .notify f => Sys2Proof.Machine.execNotify f s
  | .deadl f => Sys2Proof.Machine.execDeadl f s
  | .idbeg f => Sys2Proof.Machine.execIdbeg f s
  | .idend f => Sys2Proof.Machine.execIdend f s
  | .mfs f => Sys2Proof.Machine.execMfs f s
  | .mts f => Sys2Proof.Machine.execMts f s
  | .trap f => Sys2Proof.Machine.execTrap f s
  | .hint64 f => Sys2Proof.Machine.execHint64 f s
  | .push f => Sys2Proof.Machine.execPush f s
  | .take f => Sys2Proof.Machine.execTake f s
  | .barInit f => Sys2Proof.Machine.execBarInit f s
  | .barArr f => Sys2Proof.Machine.execBarArr f s
  | .barWait f => Sys2Proof.Machine.execBarWait f s
  | .xwait f => Sys2Proof.Machine.execXwait f s
  | .rclose f => Sys2Proof.Machine.execRclose f s
  | .amoAdd f => Sys2Proof.Machine.execAmoAdd f s
  | .amoFadd f => Sys2Proof.Machine.execAmoFadd f s
  | .amoMin f => Sys2Proof.Machine.execAmoMin f s
  | .amoMax f => Sys2Proof.Machine.execAmoMax f s
  | .amoAnd f => Sys2Proof.Machine.execAmoAnd f s
  | .amoOr f => Sys2Proof.Machine.execAmoOr f s
  | .amoXor f => Sys2Proof.Machine.execAmoXor f s
  | .amoSwp f => Sys2Proof.Machine.execAmoSwp f s
  | .amoCas f => Sys2Proof.Machine.execAmoCas f s
  | .amoFmin f => Sys2Proof.Machine.execAmoFmin f s
  | .amoFmax f => Sys2Proof.Machine.execAmoFmax f s
  | .redAdd f => Sys2Proof.Machine.execRedAdd f s
  | .redFadd f => Sys2Proof.Machine.execRedFadd f s
  | .redMin f => Sys2Proof.Machine.execRedMin f s
  | .redMax f => Sys2Proof.Machine.execRedMax f s
  | .redAnd f => Sys2Proof.Machine.execRedAnd f s
  | .redOr f => Sys2Proof.Machine.execRedOr f s
  | .redXor f => Sys2Proof.Machine.execRedXor f s
  | .redFmin f => Sys2Proof.Machine.execRedFmin f s
  | .redFmax f => Sys2Proof.Machine.execRedFmax f s
  | .vmovWv f => Sys2Proof.Machine.execVmovWv f s
  | .vmovVw f => Sys2Proof.Machine.execVmovVw f s
  | .vadd f => Sys2Proof.Machine.execVadd f s
  | .vsub f => Sys2Proof.Machine.execVsub f s
  | .vmul f => Sys2Proof.Machine.execVmul f s
  | .vfma f => Sys2Proof.Machine.execVfma f s
  | .vfms f => Sys2Proof.Machine.execVfms f s
  | .vmin f => Sys2Proof.Machine.execVmin f s
  | .vmax f => Sys2Proof.Machine.execVmax f s
  | .vabs f => Sys2Proof.Machine.execVabs f s
  | .vneg f => Sys2Proof.Machine.execVneg f s
  | .vand f => Sys2Proof.Machine.execVand f s
  | .vor f => Sys2Proof.Machine.execVor f s
  | .vxor f => Sys2Proof.Machine.execVxor f s
  | .vshl f => Sys2Proof.Machine.execVshl f s
  | .vshr f => Sys2Proof.Machine.execVshr f s
  | .vsel f => Sys2Proof.Machine.execVsel f s
  | .vcmp f => Sys2Proof.Machine.execVcmp f s
  | .vcvt f => Sys2Proof.Machine.execVcvt f s
  | .vwid f => Sys2Proof.Machine.execVwid f s
  | .vnar f => Sys2Proof.Machine.execVnar f s
  | .vqmx f => Sys2Proof.Machine.execVqmx f s
  | .vsplat f => Sys2Proof.Machine.execVsplat f s
  | .vrsum f => Sys2Proof.Machine.execVrsum f s
  | .vrmax f => Sys2Proof.Machine.execVrmax f s
  | .vrmin f => Sys2Proof.Machine.execVrmin f s
  | .vscan f => Sys2Proof.Machine.execVscan f s
  | .vexp2 f => Sys2Proof.Machine.execVexp2 f s
  | .vlog2 f => Sys2Proof.Machine.execVlog2 f s
  | .vrcp f => Sys2Proof.Machine.execVrcp f s
  | .vrsqrt f => Sys2Proof.Machine.execVrsqrt f s
  | .vsqrt f => Sys2Proof.Machine.execVsqrt f s
  | .vtanh f => Sys2Proof.Machine.execVtanh f s
  | .vsigm f => Sys2Proof.Machine.execVsigm f s
  | .vsin f => Sys2Proof.Machine.execVsin f s
  | .vskein f => Sys2Proof.Machine.execVskein f s
  | .vgauss f => Sys2Proof.Machine.execVgauss f s
  | .vunif f => Sys2Proof.Machine.execVunif f s
  | .vdrop f => Sys2Proof.Machine.execVdrop f s
  | .vld f => Sys2Proof.Machine.execVld f s
  | .vst f => Sys2Proof.Machine.execVst f s
  | .vgath f => Sys2Proof.Machine.execVgath f s
  | .vscat f => Sys2Proof.Machine.execVscat f s
  | .vperm f => Sys2Proof.Machine.execVperm f s
  | .tld f => Sys2Proof.Machine.execTld f s
  | .tst f => Sys2Proof.Machine.execTst f s
  | .mma f => Sys2Proof.Machine.execMma f s
  | .mmp f => Sys2Proof.Machine.execMmp f s
  | .mmg f => Sys2Proof.Machine.execMmg f s
  | .mmw f => Sys2Proof.Machine.execMmw f s
  | .mmdm f => Sys2Proof.Machine.execMmdm f s
  | .mmdq f => Sys2Proof.Machine.execMmdq f s
  | .zclr f => Sys2Proof.Machine.execZclr f s
  | .zout f => Sys2Proof.Machine.execZout f s
  | .zsave f => Sys2Proof.Machine.execZsave f s
  | .zload f => Sys2Proof.Machine.execZload f s
  | .broadcastGroupStart cl mask => Sys2Proof.Machine.execBroadcastGroupStart cl mask s
  | .cpy f => Sys2Proof.Machine.execCpy f s
  | .cpyt f => Sys2Proof.Machine.execCpyt f s
  | .cpyh f => Sys2Proof.Machine.execCpyh f s
  | .cpym f => Sys2Proof.Machine.execCpym f s
  | .cpyi f => Sys2Proof.Machine.execCpyi f s
  | .cpyf f => Sys2Proof.Machine.execCpyf f s
  | .chst f => Sys2Proof.Machine.execChst f s
  | .cwr f => Sys2Proof.Machine.execCwr f s
  | .ckopen f => Sys2Proof.Machine.execCkopen f s
  | .ckput f => Sys2Proof.Machine.execCkput f s
  | .ckseal f => Sys2Proof.Machine.execCkseal f s
  | .ckget f => Sys2Proof.Machine.execCkget f s
  | .hflush f => Sys2Proof.Machine.execHflush f s
  | .msend f => Sys2Proof.Machine.execMsend f s
  | .karm f => Sys2Proof.Machine.execKarm f s
  | .kdisarm f => Sys2Proof.Machine.execKdisarm f s
  | .kred f => Sys2Proof.Machine.execKred f s
  | .kgath f => Sys2Proof.Machine.execKgath f s
  | .kbcast f => Sys2Proof.Machine.execKbcast f s
  | .ksync f => Sys2Proof.Machine.execKsync f s
  | .gload f => Sys2Proof.Machine.execGload f s
  | .gfeed f => Sys2Proof.Machine.execGfeed f s
  | .gtake f => Sys2Proof.Machine.execGtake f s
  | .gunload f => Sys2Proof.Machine.execGunload f s
  | .gquiet f => Sys2Proof.Machine.execGquiet f s
  | .packagePowerOn => Sys2Proof.Machine.execPackagePowerOn s
  | .pushSendStart slot route => Sys2Proof.Machine.execPushSendStart slot route s
  | .pushPieceLand id => Sys2Proof.Machine.execPushPieceLand id s
  | .mergeEntrySend slot id => Sys2Proof.Machine.execMergeEntrySend slot id s
  | .fetchReplySplit id => Sys2Proof.Machine.execFetchReplySplit id s
  | .sectionHeaderPass e => Sys2Proof.Machine.execSectionHeaderPass e s
  | .sectionRetire e => Sys2Proof.Machine.execSectionRetire e s
  | .tileWaitResume e => Sys2Proof.Machine.execTileWaitResume e s
  | .takeRetire e => Sys2Proof.Machine.execTakeRetire e s
  | .waitReread e => Sys2Proof.Machine.execWaitReread e s
  | .barWaitReread e => Sys2Proof.Machine.execBarWaitReread e s
  | .barrierDelivery id => Sys2Proof.Machine.execBarrierDelivery id s
  | .xwaitRetire e => Sys2Proof.Machine.execXwaitRetire e s
  | .channelSlotResume e => Sys2Proof.Machine.execChannelSlotResume e s
  | .transferComplete e ch id => Sys2Proof.Machine.execTransferComplete e ch id s
  | .chainRecordStart e ch => Sys2Proof.Machine.execChainRecordStart e ch s
  | .tileFill cl tile => Sys2Proof.Machine.execTileFill cl tile s
  | .followOnIssue e => Sys2Proof.Machine.execFollowOnIssue e s
  | .stealRelocatableGroup stealer owner => Sys2Proof.Machine.execStealRelocatableGroup stealer owner s
  | .combinerFire seq team cl => Sys2Proof.Machine.execCombinerFire seq team cl s
  | .epochCloseAtCourseEnd slot => Sys2Proof.Machine.execEpochCloseAtCourseEnd slot s
  | .pageWalkComplete slot page => Sys2Proof.Machine.execPageWalkComplete slot page s
  | .translationInvalidate asid base limit root => Sys2Proof.Machine.execTranslationInvalidate asid base limit root s
  | .shapeTableWrite index fn bytes base => Sys2Proof.Machine.execShapeTableWrite index fn bytes base s
  | .bdcfgWrite slot v => Sys2Proof.Machine.execBdcfgWrite slot v s
  | .shutterOff cl => Sys2Proof.Machine.execShutterOff cl s
  | .shutterWakeStart cl => Sys2Proof.Machine.execShutterWakeStart cl s
  | .shutterWakeComplete cl => Sys2Proof.Machine.execShutterWakeComplete cl s
  | .moveFire slot cell word => Sys2Proof.Machine.execMoveFire slot cell word s
  | .memLoadPerform slot cell => Sys2Proof.Machine.execMemLoadPerform slot cell s
  | .stampCommit slot => Sys2Proof.Machine.execStampCommit slot s
  | .squashReentry slot stamp => Sys2Proof.Machine.execSquashReentry slot stamp s
  | .feedTokenEntry e => Sys2Proof.Machine.execFeedTokenEntry e s
  | .latticeQuietRetire e => Sys2Proof.Machine.execLatticeQuietRetire e s
  | .imageOpen n => Sys2Proof.Machine.execImageOpen n s
  | .imageCommit n => Sys2Proof.Machine.execImageCommit n s
  | .imageUnload n => Sys2Proof.Machine.execImageUnload n s
  | .imageApertureWrite n off bytes tables => Sys2Proof.Machine.execImageApertureWrite n off bytes tables s
  | .launchTrigger n v => Sys2Proof.Machine.execLaunchTrigger n v s
  | .taskSelect => Sys2Proof.Machine.execTaskSelect s
  | .taskBind seq => Sys2Proof.Machine.execTaskBind seq s
  | .courseStart seq => Sys2Proof.Machine.execCourseStart seq s
  | .courseListSkip seq => Sys2Proof.Machine.execCourseListSkip seq s
  | .courseListJump seq => Sys2Proof.Machine.execCourseListJump seq s
  | .courseListCall seq => Sys2Proof.Machine.execCourseListCall seq s
  | .courseListReturn seq => Sys2Proof.Machine.execCourseListReturn seq s
  | .courseListDeadline seq => Sys2Proof.Machine.execCourseListDeadline seq s
  | .courseListNotify seq => Sys2Proof.Machine.execCourseListNotify seq s
  | .preemptEstimator r => Sys2Proof.Machine.execPreemptEstimator r s
  | .preemptDrain r => Sys2Proof.Machine.execPreemptDrain r s
  | .preemptSave r => Sys2Proof.Machine.execPreemptSave r s
  | .preemptDiscard r => Sys2Proof.Machine.execPreemptDiscard r s
  | .distributorPreemptRequest seq => Sys2Proof.Machine.execDistributorPreemptRequest seq s
  | .preemptStopComplete seq team => Sys2Proof.Machine.execPreemptStopComplete seq team s
  | .teamResume seq team => Sys2Proof.Machine.execTeamResume seq team s
  | .messageReceipt slot m => Sys2Proof.Machine.execMessageReceipt slot m s
  | .unarmedTagRefusalReturn m => Sys2Proof.Machine.execUnarmedTagRefusalReturn m s
  | .governorEvaluation => Sys2Proof.Machine.execGovernorEvaluation s
  | .clockSwitch => Sys2Proof.Machine.execClockSwitch s
  | .transitEnd => Sys2Proof.Machine.execTransitEnd s
  | .byteBudgetInterval => Sys2Proof.Machine.execByteBudgetInterval s
  | .pcapWrite v => Sys2Proof.Machine.execPcapWrite v s
  | .softThermalThreshold slot temp => Sys2Proof.Machine.execSoftThermalThreshold slot temp s
  | .lockInterface tdi tag images queues => Sys2Proof.Machine.execLockInterface tdi tag images queues s
  | .getVersion q => Sys2Proof.Machine.execGetVersion q s
  | .getCapabilities q => Sys2Proof.Machine.execGetCapabilities q s
  | .negotiateAlgorithms q => Sys2Proof.Machine.execNegotiateAlgorithms q s
  | .getDigests q => Sys2Proof.Machine.execGetDigests q s
  | .getCertificate q => Sys2Proof.Machine.execGetCertificate q s
  | .challenge q => Sys2Proof.Machine.execChallenge q s
  | .getMeasurements q => Sys2Proof.Machine.execGetMeasurements q s
  | .keyExchange q => Sys2Proof.Machine.execKeyExchange q s
  | .finish q => Sys2Proof.Machine.execFinish q s
  | .heartbeat q => Sys2Proof.Machine.execHeartbeat q s
  | .keyUpdate q => Sys2Proof.Machine.execKeyUpdate q s
  | .endSession q => Sys2Proof.Machine.execEndSession q s
  | .subscribeEventTypes q => Sys2Proof.Machine.execSubscribeEventTypes q s
  | .provision q g => Sys2Proof.Machine.execProvision q g s
  | .reprovision q g => Sys2Proof.Machine.execReprovision q g s
  | .release q tag save => Sys2Proof.Machine.execRelease q tag save s
  | .attest q => Sys2Proof.Machine.execAttest q s
  | .dieRestartRequest q slot deadline => Sys2Proof.Machine.execDieRestartRequest q slot deadline s
  | .firmwareStage q f => Sys2Proof.Machine.execFirmwareStage q f s
  | .firmwareActivate q slot => Sys2Proof.Machine.execFirmwareActivate q slot s
  | .hostRead h => Sys2Proof.Machine.execHostRead h s
  | .hostWrite h bytes => Sys2Proof.Machine.execHostWrite h bytes s
  | .podPacketReceive slot p => Sys2Proof.Machine.execPodPacketReceive slot p s
  | .safeTierCopy => Sys2Proof.Machine.execSafeTierCopy s
  | .safeTierCopyDone ok => Sys2Proof.Machine.execSafeTierCopyDone ok s
  | .safeRestore => Sys2Proof.Machine.execSafeRestore s
  | .evacuationStart => Sys2Proof.Machine.execEvacuationStart s
  | .extentMove => Sys2Proof.Machine.execExtentMove s
  | .evacuationResume => Sys2Proof.Machine.execEvacuationResume s
  | .spilledExtentReturn => Sys2Proof.Machine.execSpilledExtentReturn s
  | .streamingCrcFailure piece mod => Sys2Proof.Machine.execStreamingCrcFailure piece mod s
  | .courseAbortCrc seq => Sys2Proof.Machine.execCourseAbortCrc seq s
  | .ordinaryCrcRetry slot mod again => Sys2Proof.Machine.execOrdinaryCrcRetry slot mod again s
  | .scrubPass slot units => Sys2Proof.Machine.execScrubPass slot units s
  | .uncorrectableError pa => Sys2Proof.Machine.execUncorrectableError pa s
  | .parityError e => Sys2Proof.Machine.execParityError e s
  | .staleResponseDiscard slot incarn => Sys2Proof.Machine.execStaleResponseDiscard slot incarn s
  | .dieLostDeclare slot reason => Sys2Proof.Machine.execDieLostDeclare slot reason s
  | .faultStop => Sys2Proof.Machine.execFaultStop s
  | .peerStop seq team => Sys2Proof.Machine.execPeerStop seq team s
  | .engstopResume cl v => Sys2Proof.Machine.execEngstopResume cl v s
  | .faultRetry seq team => Sys2Proof.Machine.execFaultRetry seq team s
  | .faultRerun seq team => Sys2Proof.Machine.execFaultRerun seq team s
  | .faultAbandon seq team => Sys2Proof.Machine.execFaultAbandon seq team s
  | .retryRestart seq team => Sys2Proof.Machine.execRetryRestart seq team s
  | .courseRerun seq => Sys2Proof.Machine.execCourseRerun seq s
  | .rebindAfterLoss seq => Sys2Proof.Machine.execRebindAfterLoss seq s
  | .dieQuiet slot => Sys2Proof.Machine.execDieQuiet slot s
  | .selfTestStart slot => Sys2Proof.Machine.execSelfTestStart slot s
  | .rejoinStart slot => Sys2Proof.Machine.execRejoinStart slot s
  | .rejoinComplete slot => Sys2Proof.Machine.execRejoinComplete slot s
  | .rejoinTimeout slot => Sys2Proof.Machine.execRejoinTimeout slot s
  | .bdTableError slot set => Sys2Proof.Machine.execBdTableError slot set s
  | .packageReset => Sys2Proof.Machine.execPackageReset s
  | .hardThermalTrip slot cause temp => Sys2Proof.Machine.execHardThermalTrip slot cause temp s
  | .tripcauseWrite slot v => Sys2Proof.Machine.execTripcauseWrite slot v s
  | .trippedDieCooldown slot temp => Sys2Proof.Machine.execTrippedDieCooldown slot temp s
  | .deadlineMiss seq src => Sys2Proof.Machine.execDeadlineMiss seq src s
  | .keySlotEccFailure slot key wrappedOk => Sys2Proof.Machine.execKeySlotEccFailure slot key wrappedOk s
  | .keyReloadComplete slot key => Sys2Proof.Machine.execKeyReloadComplete slot key s
  | .measurementFailure reason => Sys2Proof.Machine.execMeasurementFailure reason s
  | .registerWrite off v => Sys2Proof.Machine.execRegisterWrite off v s
  | .variableLatencyResult id => Sys2Proof.Machine.execVariableLatencyResult id s
  | .accessPerformsAtHome id => Sys2Proof.Machine.execAccessPerformsAtHome id s
  | .startInterfaceRequest tdi => Sys2Proof.Machine.execStartInterfaceRequest tdi s
  | .stopInterfaceRequest tdi => Sys2Proof.Machine.execStopInterfaceRequest tdi s
  | .podJoin pkg ports => Sys2Proof.Machine.execPodJoin pkg ports s
  | .podPacketRetransmit slot p => Sys2Proof.Machine.execPodPacketRetransmit slot p s
  | .safeRestoreDone ok => Sys2Proof.Machine.execSafeRestoreDone ok s
  | .softThermalClear slot temp => Sys2Proof.Machine.execSoftThermalClear slot temp s

end Sys2Proof.Machine
end

