-- ==== Sys2Proof/Machine/Events.lean ====
section
/-! DEFINITION. Which package event happens next. The candidates are listed in a fixed order; the first whose meaning changes
the state happens (log 1). What comes from outside the package stands in the inbox and is no candidate. -/

namespace Sys2Proof.Machine

/-- An event of the package: the meaning of one event row of the opcode table, its operands given. `exec` answers the same for
that row's instruction. -/
abbrev Event := State → Out

/-! ## Candidates -/

/-- Insert by a rank, before equals. -/
def insertBy {α : Type} (f : α → Nat) (x : α) : List α → List α
  | [] => [x]
  | y :: ys => if f x ≤ f y then x :: y :: ys else y :: insertBy f x ys

/-- A list by rank; equals keep their order. -/
def sortBy {α : Type} (f : α → Nat) (l : List α) : List α := l.foldr (insertBy f) []

/-- Clocks and byte budgets (R332, R344). -/
def State.clockEvents (s : State) : List Event :=
  (if s.clusters.any fun p => p.2.dom.switches s.ptick then [execClockSwitch] else [])
    ++ (if s.clusters.any fun p => p.2.dom.settles s.ptick then [execTransitEnd] else [])
    ++ if s.ptick % 1200 = 0 ∧ s.ptick ≠ 0 then [execByteBudgetInterval] else []

/-- The event that handles a course-list entry of a kind (R326). -/
def walkEvent (seq kind : Nat) : List Event :=
  match kind with
  | 1 => [execCourseStart seq]
  | 2 => [execCourseListSkip seq]
  | 3 => [execCourseListJump seq]
  | 4 => [execCourseListCall seq]
  | 5 => [execCourseListReturn seq]
  | 6 => [execCourseListDeadline seq]
  | 7 => [execCourseListNotify seq]
  | _ => []

/-- What a team's place in its course may bring (R60, R62, R405, R416). -/
def teamEvent (seq : Nat) (t : Team) : List Event :=
  match t.state with
  | .stopping _ _ _ => [execPreemptStopComplete seq t.index]
  | .saved _ _ => [execTeamResume seq t.index]
  | .restart _ => [execRetryRestart seq t.index]
  | .peer _ _ => [execPeerStop seq t.index]
  | _ => []

/-- The deadlines a running course may miss (R441). -/
def State.missEvents (s : State) (l : Launch) : List Event :=
  [execDeadlineMiss l.seq .courseEntry, execDeadlineMiss l.seq .span]
    ++ (l.streams.filter fun x => (s.eng x.eng).deadl.isSome).map fun x => execDeadlineMiss l.seq (.deadl x.eng)

/-- What a launch may bring. -/
def State.launchEvents (s : State) (l : Launch) : List Event :=
  (if l.crcDue.isSome then [execCourseAbortCrc l.seq] else [])
    ++ (match l.state with
        | .selected => [execTaskBind l.seq, execDistributorPreemptRequest l.seq]
        | .walking => execRebindAfterLoss l.seq :: walkEvent l.seq (s.entry l.image l.next 0 1)
        | .rerun => [execRebindAfterLoss l.seq, execCourseRerun l.seq]
        | .waitDies => [execRebindAfterLoss l.seq]
        | .inCourse => s.missEvents l
        | _ => [])
    ++ l.teams.flatMap (teamEvent l.seq)

/-- Launches, those that wait to bind in the order of their priority (R323, R324, log 35), then selection, then messages (R320). -/
def State.distributorEvents (s : State) : List Event :=
  (sortBy (fun l : Launch => if l.state = .selected then 7 - l.prio else 8) s.launches).flatMap s.launchEvents ++ (if s.launches.isEmpty then [] else [execTaskSelect])
    ++ s.dies.flatMap fun p => p.2.messages.map fun r => execMessageReceipt p.1 r.msg

/-- The phases of a restart (R422). -/
def phaseEvent (slot : Nat) (p : DiePhase) : List Event :=
  match p with
  | .yielding _ => [execDieQuiet slot]
  | .quiet _ => [execSelfTestStart slot]
  | .selfTest _ => [execRejoinStart slot]
  | .rejoin _ true => [execRejoinComplete slot]
  | .rejoin _ false => [execRejoinTimeout slot]
  | _ => []

/-- The HD's own work: restarts, evacuation, the safe tier, keys, firmware, the governor. What ends a copy or a restore is the
pod's (log 2). -/
def State.hdEvents (s : State) : List Event :=
  s.dies.flatMap (fun p => phaseEvent p.1 p.2.phase)
    ++ (if fld s.mgmt.evacctl 16 4 = 1 then [execExtentMove] else if fld s.mgmt.evacctl 16 4 = 3 then [execEvacuationResume] else [])
    ++ (if s.trust.spilled.isEmpty then [] else [execSpilledExtentReturn])
    ++ (match s.mgmt.safeDue with | some t => if t ≤ s.ptick then [execSafeTierCopyDone (Config.coin s.fresh)] else [] | none => [])
    ++ (match s.mgmt.restDue with | some t => if t ≤ s.ptick then [execSafeRestoreDone (Config.coin s.fresh)] else [] | none => [])
    ++ (s.trust.releases.map fun r => execRelease r.1 r.2.1 r.2.2)
    ++ (s.trust.changes.map fun c => execReprovision c.1 c.2.1)
    ++ (s.dies.flatMap fun p => (p.2.keys.filter fun k => k.2.reload.isSome).map fun k => execKeyReloadComplete p.1 k.1)
    ++ ((s.trust.activations.filter fun a => s.activates a.1 a.2).map fun a => execFirmwareActivate a.1 a.2)
    ++ if s.evaluates then [execGovernorEvaluation] else []

/-- What may let a blocked engine go on. -/
def waitEvent (id : EngId) (e : Engine) : List Event :=
  match e.status with
  | .blocked (.wait _ _ _ _ _) _ => [execWaitReread id]
  | .blocked (.barrier _ _ _ _) _ => [execBarWaitReread id]
  | .blocked (.xwait _ _ _) _ => [execXwaitRetire id]
  | .blocked (.take _) _ => [execTakeRetire id]
  | .blocked (.takeEnds _ _) _ => [execTakeRetire id]
  | .blocked (.tile _ _) _ => [execTileWaitResume id]
  | .blocked (.channel _) _ => [execChannelSlotResume id]
  | _ => []

/-- What a home or an arbiter takes, each with the tick of its arrival there: accesses, merged requests, transfers, loads of lattices and
held host requests (R114, R344, R345). -/
def State.arrivals (s : State) : List (Nat × Event) :=
  (s.accesses.map fun a => (a.due, if a.isDelivery then execBarrierDelivery a.id else execAccessPerformsAtHome a.id))
    ++ (s.crossings.filter fun x => x.ret.isNone).map (fun x => (x.due, execAccessPerformsAtHome x.id))
    ++ (s.engines.flatMap fun p => (List.range 4).flatMap fun ch =>
          p.2.chans[idx4 ch].out.map fun t => (t.due, execTransferComplete (EngId.ofKey p.1) ch t.id))
    ++ (s.dies.flatMap fun p => if dieKind p.1 = some .gd then
          (p.2.lattice.sill.filter fun x => x.openLoad).map fun x => (x.due, execMemLoadPerform p.1 x.cell) else [])
    ++ s.mgmt.hostHeld.map fun x => (x.arrived, fun t => .next (t.serveHeld x))

/-- Requests in the order of their arrival, replies, merged entries, walks and pushes (R24-R27, R101, R117, R141, R261); pieces that land at
one tick in the order of their sources (R262, R303). -/
def State.trafficEvents (s : State) : List Event :=
  (sortBy (·.1) (s.arrivals.filter fun x => decide (x.1 ≤ s.ptick))).map (·.2)
    ++ ((s.crossings.filter fun x => x.ret.isSome).map fun x => execFetchReplySplit x.id)
    ++ (s.dies.flatMap fun p => (p.2.walks.filter fun w => decide (w.due ≤ s.ptick)).map fun w => execPageWalkComplete p.1 w.page)
    ++ (sortBy (·.due) (s.replies.filter fun r => decide (r.due ≤ s.ptick))).flatMap
        (fun r => [execVariableLatencyResult r.id, execStaleResponseDiscard r.eng.slot r.incarn])
    ++ (s.dies.flatMap fun p => (p.2.strays.filter fun x => decide (x.2 ≤ s.ptick)).map fun x => execStaleResponseDiscard p.1 x.1)
    ++ (s.dies.flatMap fun p => p.2.merge.map fun m => execMergeEntrySend p.1 m.id)
    ++ (s.pushes.map fun p => execPushSendStart p.eng.slot p.route)
    ++ (sortBy (fun p : Piece => p.land * 2 ^ 32 + p.eng.key) (s.pieces.filter fun p => decide (p.land ≤ s.ptick))).map fun p => execPushPieceLand p.id

/-- The shutter of a cluster (R114). -/
def shutterEvent (cl : Nat) (k : Cluster) : List Event :=
  match k.shutter with
  | .opened => if k.closeAsked then [execShutterOff cl] else []
  | .closing _ => [execShutterWakeStart cl, execShutterOff cl]
  | .off => [execShutterWakeStart cl]
  | .waking _ => [execShutterWakeComplete cl]

/-- Chains, follow-ons, groups and steals of an engine (R55, R113, R238, R250, R257). -/
def State.workEvents (s : State) (id : EngId) (e : Engine) : List Event :=
  ((List.range 4).flatMap fun ch => match e.chans[idx4 ch].chain with | .waitOwn _ => [execChainRecordStart id ch] | _ => [])
    ++ (match e.status, e.bc with | .blocked .group _, some h => [execBroadcastGroupStart id.cl h.mask] | _, _ => [])
    ++ (if e.follow.isEmpty then [] else [execFollowOnIssue id])
    ++ (if id.kind = some .me ∧ e.status = .running then (s.victim id).toList.map fun v => execStealRelocatableGroup id v else [])

/-- The lattice of a GD: commit, re-entry, feeds, moves, quiet (R285, R296, R298-R300, R305). -/
def State.latticeEvents (s : State) (slot : Nat) : List Event :=
  let l := s.lattice slot
  let engs := ([0, 1, 2, 3] : List Nat).map fun i => (⟨slot, 0, i⟩ : EngId)
  let feeding (id : EngId) : Bool := match (s.eng id).status with | .blocked (.feed _ _ _ _) _ => true | _ => false
  let quiet (id : EngId) : Bool := match (s.eng id).status with | .blocked (.quiet _ _ _) _ => true | _ => false
  (if l.log.isEmpty && l.sill.isEmpty then [] else [execStampCommit slot])
    ++ ((l.log.filter fun x => !x.entered).map fun x => execSquashReentry slot x.stamp.toNat)
    ++ ((engs.filter feeding).map fun id => execFeedTokenEntry id)
    ++ ((l.cells.filter fun p => !(cellOf l.start p.1).ports.isEmpty).flatMap fun p =>
          (List.range p.2.moves.length).map fun i => execMoveFire slot p.1 i)
    ++ ((engs.filter quiet).map fun id => execLatticeQuietRetire id)

/-- Sections and notifies of an engine (R37, R38, R52). -/
def sectionEvent (id : EngId) (e : Engine) : List Event :=
  (if !e.secPend.isEmpty || e.notifies then [execSectionRetire id] else [])
    ++ match e.status with | .blocked .header _ => [execSectionHeaderPass id] | _ => []

/-- Combiners of a running course, and epochs whose sources have ended (R52, R143). -/
def State.endEvents (s : State) : List Event :=
  ((s.launches.filter fun l => l.state == .inCourse).flatMap fun l =>
      (l.allGroups.filter fun g => !l.hasFired g).map fun g => execCombinerFire l.seq g.1 g.2)
    ++ (s.dies.filter fun p => !p.2.partials.isEmpty).map fun p => execEpochCloseAtCourseEnd p.1

/-- Every event that may happen now, in the order in which they are considered (log 1). -/
def State.candidates (s : State) : List Event :=
  s.clockEvents ++ s.distributorEvents ++ s.hdEvents
    ++ (s.engines.flatMap fun p => waitEvent (EngId.ofKey p.1) p.2)
    ++ s.trafficEvents
    ++ (s.clusters.flatMap fun p => shutterEvent p.1 p.2)
    ++ (s.engines.flatMap fun p => s.workEvents (EngId.ofKey p.1) p.2)
    ++ (s.clusters.flatMap fun p => p.2.fills.map fun x => execTileFill p.1 x.tile)
    ++ ((s.dies.filter fun p => dieKind p.1 == some .gd).flatMap fun p => s.latticeEvents p.1)
    ++ (s.engines.flatMap fun p => sectionEvent (EngId.ofKey p.1) p.2)
    ++ s.endEvents

/-! ## The next event -/

/-- The outcome of an event, when it changes anything but `cur`. -/
def State.happens (s : State) (f : Event) : Option Out :=
  match f s with
  | .next t => if { t with cur := s.cur } = s then none else some (.next t)
  | o => some o

/-- The event that happens now: its outcome. Nothing happens in a package whose HD is lost (R434). -/
def State.nextEvent (s : State) : Option Out :=
  if (s.die 36).phase = .lost then none else s.candidates.findSome? s.happens

end Sys2Proof.Machine
end

