-- ==== Sys2Proof/Machine/Step.lean ====
section
/-! DEFINITION. One step: an input from outside, a package event, one engine's instruction, a fault stop, or the passing
of one tick (log 1). -/

namespace Sys2Proof.Machine

def step (s : State) : Host.Outcome State Fault Refusal :=
  match s.inbox with
  | i :: rest => exec i { s with inbox := rest }
  | [] =>
    match s.nextEvent with
    | some o => o
    | none =>
      match s.dueEngine with
      | some id => runEngine exec { s with cur := id }
      | none => if s.faults = [] then .next s.nextTick else exec .faultStop s

/-- The state with an opcode-table row's instruction where the next step fetches (log 13). -/
def State.withFetchWord (s : State) (nbits w : Nat) : State := s.probe nbits w

end Sys2Proof.Machine
end

