-- ==== Sys2Proof/Safety.lean ====
section
/-! DEFINITION. What claims are stated in: the engine that issues, when its instruction issues, what a register holds when
everything pending has landed, a safe run, and what an instruction leaves alone. -/

namespace Sys2Proof.Machine

/-! ## The engine that issues -/

/-- The engine that issues, as its instruction reads it: every result that lands before the issue cycle has landed (R43). -/
abbrev State.issuer (s : State) : Engine :=
  ((s.eng s.cur).replayAt (s.eng s.cur).nextIssue).settle (s.eng s.cur).nextIssue

/-- The cycle in which it issues. -/
abbrev State.issueAt (s : State) : Nat := (s.eng s.cur).nextIssue

/-- The engine exists, no fence or release holds it, and its interlocked sources are there: what an instruction does next, an
exception of its own included, it does now (R45, R185). -/
abbrev State.Ready (s : State) (reads : List Dest) : Prop :=
  s.cur.kind.isSome = true ∧ s.fenced (s.eng s.cur) = false ∧ s.issuer.awaits reads = false

/-- The state after an engine-level exception at the instruction (R376-R384); `epc` is what EPC receives. -/
abbrev State.raised (s : State) (cause detail : Nat) (epc : BitVec 32) : State :=
  takeException s s.cur s.issuer s.issueAt cause detail epc

/-- The state after a team-level fault of an access at `va` (R399, R400): the engine stops and the fault is noted. -/
abbrev State.accessFaulted (s : State) (va : Addr) (f : MemFault) : State := accessFault s s.issuer va f

/-- The state after a cycle in which the instruction waits (R45). -/
abbrev State.held (s : State) : State := holdOne s

/-- An instruction with the sources `reads` and the results `ws` issues: there is such an engine, no fence or release holds it,
its interlocked sources are there (R45), and the checking scoreboard finds nothing (R46). -/
abbrev State.Issues (s : State) (reads : List Dest) (ws : List Landing) : Prop :=
  s.cur.kind.isSome = true ∧ s.fenced (s.eng s.cur) = false ∧ s.issuer.awaits reads = false ∧
    s.issuer.scoreboard s.issueAt reads ws = none

/-- The result of latency `lat` that an instruction issued now writes to the register with a code (R43, R174). -/
abbrev State.result (s : State) (lat code : Nat) (v : Addr) : List Landing :=
  landing s.issueAt lat (s.issuer.writeTo code v)

/-- The state after an instruction of `words` words that issues with results `ws` and goes on (R43, R173). -/
abbrev State.passed (s : State) (words stall : Nat) (ws : List Landing) : State :=
  s.setEng s.cur ((s.issuer.land ws).advance s.issueAt words stall)

/-- Instruction `i` of `words` words, with the source registers `reads` (their codes), computes `v` for the register with code `d`:
when it issues it completes, and `v` lands with latency `lat`. -/
abbrev State.computes (s : State) (i : Instr) (words stall lat : Nat) (reads : List Nat) (d : Nat) (v : Addr) : Prop :=
  s.Issues (reads.map s.issuer.destOf) (s.result lat d v) → exec i s = .next (s.passed words stall (s.result lat d v))

/-- Lane `k` of a vector register cut into lanes of `w` bits (R200). -/
abbrev laneAt (w : Nat) (v : VReg) (k : Nat) : Nat := v.toNat / 2 ^ (w * k) % 2 ^ w

/-- Instruction `i` of layout V, with the sources `reads` of which it clears `drops` (R202), writes the registers `rs` with latency `lat`:
when it issues it completes, each source at its last use reads zero from the next cycle on, and the results land (R43, R224). -/
abbrev State.yields (s : State) (f : LV) (i : Instr) (lat : Nat) (reads : List Dest) (drops : List (Fin 8)) (rs : List (Fin 8 × VReg)) : Prop :=
  let ws : List Landing := drops.map (fun r => ⟨.w r 0, s.issueAt⟩) ++ rs.map fun r => ⟨.w r.1 r.2, s.issueAt + lat - 1⟩
  s.Issues reads ws → exec i s = .next (s.passed f.imm.words f.stall.toNat ws)

/-- The same for an unordered form, which takes `n` free values (R213, R214, log 2). -/
abbrev State.yieldsFree (s : State) (n : Nat) (f : LV) (i : Instr) (lat : Nat) (reads : List Dest) (drops : List (Fin 8)) (rs : List (Fin 8 × VReg)) : Prop :=
  let ws : List Landing := drops.map (fun r => ⟨.w r 0, s.issueAt⟩) ++ rs.map fun r => ⟨.w r.1 r.2, s.issueAt + lat - 1⟩
  s.Issues reads ws → exec i s = .next ({ s with fresh := s.fresh + n }.passed f.imm.words f.stall.toNat ws)

/-- Nothing of the engine's own holds an access on a path and class to these bytes back: no acquire is outstanding (R129), and no
earlier access that might touch them (R121). -/
abbrev State.Unheld (s : State) (path cls : Nat) (pas : List (Nat × Nat)) : Prop :=
  s.acquiring s.issuer = false ∧ s.mustFollow s.cur path cls s.nextId pas = false

/-- Nor does a write of another engine that this one sees, so that a write to these bytes performs now (R117, R131). -/
abbrev State.Unshadowed (s : State) (pas : List (Nat × Nat)) : Prop := s.shadowed s.cur s.nextId pas = false

/-- The access an instruction puts on its way (R115, R116): numbered, due after a latency the spec leaves open (R453, log 7). -/
abbrev State.newAccess (s : State) (a : AccSpec) (pas : List (Nat × Nat)) : Access :=
  { id := s.nextId, eng := s.cur, seq := s.issuer.seq, team := s.issuer.team, incarn := (s.die s.cur.slot).incarn,
    pc := s.issuer.pc, path := a.path, cls := a.cls, scope := a.scope, acq := a.acq, rel := a.rel, vas := a.vas,
    pas := a.op.units pas, need := a.need, op := a.op, born := s.ptick, due := s.ptick + (1 + Config.latency s.fresh % 3999999),
    early := earlyOf a.op s.fresh s.ptick (s.ptick + (1 + Config.latency s.fresh % 3999999)), did := [], got := [],
    merged := (mergesTo s.cur.slot a.op pas).isSome }

/-- The state after an instruction that puts an access on its way and goes on: its destination waits for the reply (R45), and an
acquire holds later accesses (R129). -/
abbrev State.sent (s : State) (words stall : Nat) (a : AccSpec) (pas : List (Nat × Nat)) : State :=
  { s with fresh := s.fresh + 1, nextId := s.nextId + 1, accesses := s.accesses ++ [s.newAccess a pas] }.setEng s.cur
    ({ s.issuer with
        inter := if a.dst = Dest.nil then s.issuer.inter else s.issuer.inter ++ [(a.dst, s.nextId)]
        acqs := if a.acq then s.issuer.acqs.filter (fun i => s.inFlight i) ++ [s.nextId] else s.issuer.acqs
      }.advance s.issueAt words stall)

/-- Instruction `i` with sources `reads`, whose access is `a`: when it issues and every page is at hand, its access is on its way
to the physical pieces found. -/
abbrev State.Sends (s : State) (i : Instr) (words stall : Nat) (reads : List Dest) (a : AccSpec) (pas : List (Nat × Nat)) : Prop :=
  s.Issues reads [] → s.acquiring s.issuer = false → misalignedAt a.align a.vas = none →
    s.resolveAll s.cur s.issuer a.need a.kind a.vas = .ok (pas, none) → exec i s = .next (s.sent words stall a pas)

/-- The state after an instruction that puts an access on its way as `sent` says, where the access may also be a release, behind
which the engine's open merge entries are sent (R24), or an atomic whose home is another die, which enters the merge buffer of
its own (R24, R272), once the engine's earlier requests that it stays behind are translated (R25, R121). -/
abbrev State.left (s : State) (words stall : Nat) (a : AccSpec) (pas : List (Nat × Nat)) : State :=
  let u := if a.rel then s.sealMerge s.cur else s
  let pas := if (mergesTo u.cur.slot a.op pas).isSome && u.behind u.cur a.cls u.nextId a.op then [] else pas
  let t := u.sent words stall a pas
  match mergesTo s.cur.slot a.op pas with
  | some (pa, q) => t.enterMerge s.cur s.nextId pa q
  | none => t

/-- Instruction `i` with sources `reads`, whose access is `a`, with an acquire, a release or a home of its own: when it issues, every
page is at hand and the home can keep an ordered epoch where one is asked for (R143), its access is on its way. -/
abbrev State.Leaves (s : State) (i : Instr) (words stall : Nat) (reads : List Dest) (a : AccSpec) (pas : List (Nat × Nat)) : Prop :=
  s.Issues reads [] → s.acquiring s.issuer = false → misalignedAt a.align a.vas = none →
    s.resolveAll s.cur s.issuer a.need a.kind a.vas = .ok (pas, none) → (a.home.isSome = true → ∀ p ∈ pas, holdsPartials p.1 = true) →
      exec i s = .next (s.left words stall a pas)

/-- Instruction `i`, whose access is `a`, when a piece of it is not aligned or may not be reached: the team faults (R399-R403). -/
abbrev State.Misses (s : State) (i : Instr) (reads : List Dest) (a : AccSpec) (va : Addr) (f : MemFault) : Prop :=
  s.Issues reads [] → s.acquiring s.issuer = false →
    (misalignedAt a.align a.vas = some va ∧ f = .misaligned (Nat.log2 a.align)) ∨
      (misalignedAt a.align a.vas = none ∧ s.resolveAll s.cur s.issuer a.need a.kind a.vas = .error (va, f)) →
    exec i s = .next (s.accessFaulted va f)

/-- A condition as a register value (R181). -/
abbrev flagOf (b : Bool) : Addr := if b then 1 else 0

/-! ## What an instruction leaves alone -/

/-- Nothing outside the engines differs, but for the faults noted. -/
abbrev State.sameBut (s t : State) : Prop :=
  t = { s with engines := t.engines, faults := t.faults }

/-- Every engine but the one that issues is as before. -/
abbrev State.sameOthers (s t : State) : Prop := ∀ id : EngId, id.key ≠ s.cur.key → t.eng id = s.eng id

/-- The registers a program names are as before: scalars of every window, addresses, conditions, vectors, accumulators, and
the system registers an engine holds. Loop counters stand apart (R188). -/
abbrev Engine.sameRegs (e e' : Engine) : Prop :=
  e'.glob = e.glob ∧ e'.win = e.win ∧ e'.depth = e.depth ∧ e'.a = e.a ∧ e'.c = e.c ∧ e'.w = e.w ∧ e'.v = e.v ∧ e'.z = e.z ∧
    e'.strmcfg = e.strmcfg ∧ e'.secpart = e.secpart ∧ e'.aspace = e.aspace ∧ e'.cause = e.cause ∧ e'.epc = e.epc ∧
    e'.chksb = e.chksb ∧ e'.chans = e.chans

/-- Execution goes to `pc`, the next instruction issuing in cycle `next`; nothing outside the engine that issues differs. -/
abbrev State.goesTo (s t : State) (pc : BitVec 32) (next : Nat) : Prop :=
  s.sameBut t ∧ s.sameOthers t ∧ t.faults = s.faults ∧ (t.eng s.cur).status = .running ∧ (t.eng s.cur).pc = pc ∧
    (t.eng s.cur).nextIssue = next

/-! ## Safe runs -/

/-- A step that goes on. -/
abbrev State.goesOn (s : State) : Prop := ∃ t, step s = .next t

/-- The invariant of the state: memory is in its canonical form. -/
abbrev State.Inv (s : State) : Prop := Memory.wf s.mem = true

/-- A state that a run from reset reaches by steps and inputs. -/
inductive Reachable : State → Prop
  | reset : Reachable State.reset
  | input {s : State} (i : Instr) : Reachable s → Reachable { s with inbox := s.inbox ++ [i] }
  | step {s t : State} : Reachable s → Machine.step s = .next t → Reachable t

end Sys2Proof.Machine
end

