-- ==== Sys2Proof/Certificates/Slice0/Obligations.lean ====
section
/-! DEFINITION. The statements for the provers. Each says what a rule of spec/ says an instruction, an event or the machine does;
`s.computes`, `s.Issues` and the other words of the statements are those of Safety.lean. -/

section
open Sys2Proof Sys2Proof.Machine

/-! ## Scalar instructions -/

/-- R176, R177: the 32-bit register-register operations, with A = val(a), B = val(b), and the latencies of R185.

R176, R177: the 64-bit and 96-bit forms, with B = val(b) + sext(imm), and `sel`. -/
def Obligations.AluResults : Prop :=
  (∀ (s : State) (f : L32),
     let A := s.issuer.val f.a.toNat
     let B := s.issuer.val f.b.toNat
     let uns := f.flg == 1#1
     let is (i : Instr) (lat : Nat) (v : Word) : Prop :=
       s.computes i 1 f.stall.toNat lat [f.a.toNat, f.b.toNat] f.d.toNat (v.setWidth 80)
     is (.add32 f) 1 (A + B) ∧ is (.sub32 f) 1 (A - B) ∧ is (.mul32 f) 3 (A * B) ∧
     is (.mulh32 f) 3 (if uns then BitVec.ofNat 64 (A.toNat * B.toNat / 2 ^ 64) else BitVec.ofInt 64 (A.toInt * B.toInt / 2 ^ 64)) ∧
     is (.div32 f) 12 (if B = 0 then BitVec.allOnes 64 else if uns then BitVec.ofNat 64 (A.toNat / B.toNat)
       else BitVec.ofInt 64 (A.toInt.tdiv B.toInt)) ∧
     is (.rem32 f) 12 (if B = 0 then A else A - B * (if uns then BitVec.ofNat 64 (A.toNat / B.toNat)
       else BitVec.ofInt 64 (A.toInt.tdiv B.toInt))) ∧
     is (.and32 f) 1 (A &&& B) ∧ is (.or32 f) 1 (A ||| B) ∧ is (.xor32 f) 1 (A ^^^ B) ∧ is (.andn32 f) 1 (A &&& ~~~B) ∧
     is (.shl32 f) 1 (A <<< (B.toNat % 64)) ∧
     is (.shr32 f) 1 (if uns then A.sshiftRight (B.toNat % 64) else A >>> (B.toNat % 64)) ∧
     is (.rotl32 f) 1 (A <<< (B.toNat % 64) ||| A >>> (64 - B.toNat % 64)) ∧
     is (.min32 f) 1 (if uns then (if A.toNat ≤ B.toNat then A else B) else if A.toInt ≤ B.toInt then A else B) ∧
     is (.max32 f) 1 (if uns then (if B.toNat ≤ A.toNat then A else B) else if B.toInt ≤ A.toInt then A else B)) ∧
  (∀ (s : State) (f : LG),
     let A := s.issuer.val f.a.toNat
     let b := s.issuer.val f.b.toNat
     let B := b + BitVec.ofInt 64 f.imm.val
     let uns := f.mod.getLsbD 0
     let on (i : Instr) (reads : List Nat) (lat : Nat) (v : Word) : Prop :=
       s.computes i f.imm.words f.stall.toNat lat reads f.d.toNat (v.setWidth 80)
     let is (i : Instr) (lat : Nat) (v : Word) : Prop := on i [f.a.toNat, f.b.toNat] lat v
     is (.add64 f) 1 (A + B) ∧ is (.sub64 f) 1 (A - B) ∧ is (.mul64 f) 3 (A * B) ∧
     is (.mulh64 f) 3 (if uns then BitVec.ofNat 64 (A.toNat * B.toNat / 2 ^ 64) else BitVec.ofInt 64 (A.toInt * B.toInt / 2 ^ 64)) ∧
     is (.div64 f) 12 (if B = 0 then BitVec.allOnes 64 else if uns then BitVec.ofNat 64 (A.toNat / B.toNat)
       else BitVec.ofInt 64 (A.toInt.tdiv B.toInt)) ∧
     is (.rem64 f) 12 (if B = 0 then A else A - B * (if uns then BitVec.ofNat 64 (A.toNat / B.toNat)
       else BitVec.ofInt 64 (A.toInt.tdiv B.toInt))) ∧
     is (.and64 f) 1 (A &&& B) ∧ is (.or64 f) 1 (A ||| B) ∧ is (.xor64 f) 1 (A ^^^ B) ∧ is (.andn64 f) 1 (A &&& ~~~B) ∧
     is (.shl64 f) 1 (A <<< (B.toNat % 64)) ∧
     is (.shr64 f) 1 (if uns then A.sshiftRight (B.toNat % 64) else A >>> (B.toNat % 64)) ∧
     is (.rotl64 f) 1 (A <<< (B.toNat % 64) ||| A >>> (64 - B.toNat % 64)) ∧
     is (.min64 f) 1 (if uns then (if A.toNat ≤ B.toNat then A else B) else if A.toInt ≤ B.toInt then A else B) ∧
     is (.max64 f) 1 (if uns then (if B.toNat ≤ A.toNat then A else B) else if B.toInt ≤ A.toInt then A else B) ∧
     on (.sel f) [f.a.toNat, f.b.toNat, f.x.toNat] 1 (if s.issuer.val f.x.toNat ≠ 0 then A else b))

/-- R180: the forms with a wide immediate I; `lia` with `.loc` makes the local-aperture address of the offset I (R90).

R182 and R198: address arithmetic, of 80 bits, and `nop`. -/
def Obligations.ImmediateAndAddressResults : Prop :=
  (∀ (s : State) (f : LW),
     let A := s.issuer.val f.a.toNat
     let I := BitVec.ofInt 64 f.imm.val
     let on (i : Instr) (reads : List Nat) (lat : Nat) (v : Addr) : Prop :=
       s.computes i f.imm.words f.stall.toNat lat reads f.d.toNat v
     let is (i : Instr) (lat : Nat) (v : Word) : Prop := on i [f.a.toNat] lat (v.setWidth 80)
     is (.addi f) 1 (A + I) ∧ is (.muli f) 3 (A * I) ∧ is (.andi f) 1 (A &&& I) ∧ is (.ori f) 1 (A ||| I) ∧
     is (.xori f) 1 (A ^^^ I) ∧ is (.shli f) 1 (A <<< (I.toNat % 64)) ∧
     is (.shri f) 1 (if f.mod.getLsbD 0 then A.sshiftRight (I.toNat % 64) else A >>> (I.toNat % 64)) ∧
     on (.li f) [] 1 (I.setWidth 80) ∧
     on (.lia f) [] 1 (if f.mod.getLsbD 0 then BitVec.ofNat 80 (0xFF * 2 ^ 72 + f.imm.bits % 2 ^ 28) else BitVec.ofInt 80 f.imm.val) ∧
     on (.addai f) [f.a.toNat] 1 (s.issuer.val80 f.a.toNat + BitVec.ofInt 80 f.imm.val)) ∧
  (∀ (s : State) (f : L32) (g : LG),
     let i32 (i : Instr) (v : Addr) : Prop := s.computes i 1 f.stall.toNat 1 [f.a.toNat, f.b.toNat] f.d.toNat v
     let i64 (i : Instr) (v : Addr) : Prop := s.computes i g.imm.words g.stall.toNat 1 [g.a.toNat, g.b.toNat] g.d.toNat v
     let e := s.issuer
     i32 (.adda32 f) (e.val80 f.a.toNat + (e.val f.b.toNat).signExtend 80) ∧
     i32 (.suba32 f) (((e.val80 f.a.toNat - e.val80 f.b.toNat).setWidth 64).setWidth 80) ∧
     i64 (.adda64 g) (e.val80 g.a.toNat + (e.val g.b.toNat).signExtend 80 + BitVec.ofInt 80 g.imm.val) ∧
     i64 (.suba64 g) (((e.val80 g.a.toNat - e.val80 g.b.toNat).setWidth 64).setWidth 80) ∧
     (s.Issues [] [] → exec (.nop f) s = .next (s.passed 1 f.stall.toNat [])))

/-- R181: the compares write 1 or 0; P of an operand is that it is not zero, and Q is inverted under `.neg`.

R178: additions, shifts, counts and sign extension with an operand in the word. A count of leading or trailing zeros is
`n` when the bits before bit `n` are zero and bit `n` is one, and 64 for zero. -/
def Obligations.CompareAndCountResults : Prop :=
  (∀ (s : State) (f : L32) (g : LG) (h : LW),
     let lt (uns : Bool) (x y : Word) : Bool := if uns then x.toNat < y.toNat else x.toInt < y.toInt
     let le (uns : Bool) (x y : Word) : Bool := if uns then x.toNat ≤ y.toNat else x.toInt ≤ y.toInt
     let i32 (i : Instr) (v : Bool) : Prop :=
       s.computes i 1 f.stall.toNat 1 [f.a.toNat, f.b.toNat] f.d.toNat (flagOf v)
     let i64 (i : Instr) (v : Bool) : Prop :=
       s.computes i g.imm.words g.stall.toNat 1 [g.a.toNat, g.b.toNat] g.d.toNat (flagOf v)
     let iW (i : Instr) (v : Bool) : Prop := s.computes i h.imm.words h.stall.toNat 1 [h.a.toNat] h.d.toNat (flagOf v)
     let A := s.issuer.val f.a.toNat
     let B := s.issuer.val f.b.toNat
     let C := s.issuer.val g.a.toNat
     let D := s.issuer.val g.b.toNat + BitVec.ofInt 64 g.imm.val
     let E := s.issuer.val h.a.toNat
     let I := BitVec.ofInt 64 h.imm.val
     let u := f.flg == 1#1
     let v := g.mod.getLsbD 0
     let w := h.mod.getLsbD 0
     i32 (.ceq32 f) (A == B) ∧ i32 (.cne32 f) (A != B) ∧ i32 (.clt32 f) (lt u A B) ∧ i32 (.cle32 f) (le u A B) ∧
     i32 (.cand32 f) (A != 0 && (B != 0) != u) ∧ i32 (.cor32 f) (A != 0 || (B != 0) != u) ∧
     i32 (.cxor32 f) ((A != 0) != ((B != 0) != u)) ∧
     i64 (.ceq64 g) (C == D) ∧ i64 (.cne64 g) (C != D) ∧ i64 (.clt64 g) (lt v C D) ∧ i64 (.cle64 g) (le v C D) ∧
     i64 (.cand64 g) (C != 0 && (D != 0) != v) ∧ i64 (.cor64 g) (C != 0 || (D != 0) != v) ∧
     i64 (.cxor64 g) ((C != 0) != ((D != 0) != v)) ∧
     iW (.ceqi h) (E == I) ∧ iW (.cnei h) (E != I) ∧ iW (.clti h) (lt w E I) ∧ iW (.clei h) (le w E I) ∧
     iW (.cgti h) (lt w I E) ∧ iW (.cgei h) (le w I E)) ∧
  (∀ (s : State) (f : L32) (g : LG),
     let i32 (i : Instr) (v : Word) : Prop := s.computes i 1 f.stall.toNat 1 [f.a.toNat] f.d.toNat (v.setWidth 80)
     let i64 (i : Instr) (v : Word) : Prop :=
       s.computes i g.imm.words g.stall.toNat 1 [g.a.toNat] g.d.toNat (v.setWidth 80)
     let A := s.issuer.val f.a.toNat
     let C := s.issuer.val g.a.toNat
     let ones (x : Word) : Word := BitVec.ofNat 64 ((List.range 64).filter fun k => x.getLsbD k).length
     let isLead (x : Word) (n : Nat) : Prop := x.toNat < 2 ^ (64 - n) ∧ (n < 64 → 2 ^ (63 - n) ≤ x.toNat)
     let isTrail (x : Word) (n : Nat) : Prop := x.toNat % 2 ^ n = 0 ∧ (n < 64 → x.getLsbD n = true)
     let extended (x r : Word) (n : Nat) : Prop := ∀ k < 64, r.getLsbD k = x.getLsbD (min k n)
     i32 (.addq f) (A + f.b.signExtend 64) ∧ i32 (.shlq f) (A <<< f.b.toNat) ∧
     i32 (.shrq f) (if f.flg == 1#1 then A.sshiftRight f.b.toNat else A >>> f.b.toNat) ∧
     i32 (.popc32 f) (ones A) ∧ i64 (.popc64 g) (ones C) ∧
     (∃ n ≤ 64, isLead A n ∧ i32 (.clz32 f) (BitVec.ofNat 64 n)) ∧ (∃ n ≤ 64, isLead C n ∧ i64 (.clz64 g) (BitVec.ofNat 64 n)) ∧
     (∃ n ≤ 64, isTrail A n ∧ i32 (.ctz32 f) (BitVec.ofNat 64 n)) ∧ (∃ n ≤ 64, isTrail C n ∧ i64 (.ctz64 g) (BitVec.ofNat 64 n)) ∧
     (∃ r, extended A r f.b.toNat ∧ i32 (.sext32 f) r) ∧ ∃ r, extended C r (g.imm.bits % 64) ∧ i64 (.sext64 g) r)

/-- R179, R174, R392: `mov`, part 0 and part 1. A write to a loop counter of a value with bits 63:48 set is refused whole with
0x0006. Between two address registers part 1 moves bits 79:64 (log 37). -/
def Obligations.MovResults : Prop :=
  ∀ (s : State) (f : L32) (g : LG),
    let e := s.issuer
    let isA (code : Nat) : Bool := decide (32 ≤ code) && decide (code < 48)
    let mov (i : Instr) (words stall d a part : Nat) : Prop :=
      let go (ws : List Landing) : Prop := s.Issues [e.destOf a] ws → exec i s = .next (s.passed words stall ws)
      let tooWide : Bool := decide (56 ≤ d) && decide (d < 60) && decide (2 ^ 48 ≤ (e.val a).toNat)
      let plain : Prop := part = 0 ∨ (isA a = false ∧ isA d = false)
      (plain → tooWide = false → go (s.result 1 d (e.val80 a))) ∧
      (part = 1 → isA a = true → isA d = false → go (s.result 1 d ((e.val80 a) >>> 64))) ∧
      (part = 1 → isA d = true → go [⟨.aHi (idx16 (d - 32)) (if isA a then (e.val80 a).extractLsb' 64 16 else (e.val a).setWidth 16), s.issueAt⟩]) ∧
      (plain → tooWide = true → s.Ready [e.destOf a] →
        exec i s = .next (s.raised 0x0006 (2 ^ 22 + d * 2 ^ 16 + (e.val a).toNat / 2 ^ 48) e.pc))
    (f.b.toNat < 2 → mov (.mov32 f) 1 f.stall.toNat f.d.toNat f.a.toNat f.b.toNat) ∧
    (g.b.toNat < 2 → mov (.mov64 g) g.imm.words g.stall.toNat g.d.toNat g.a.toNat g.b.toNat)

/-- R43, R174: from the end of its last cycle a result is what its register holds: all of an address register, 64 bits of a
scalar, bit 0 of a condition, bits 47:0 of a loop counter; `zr` discards it. Before that the register holds what it held, and no
other register ever changes. In a window that a call has opened and whose first instruction has not issued, a result of before that call
for s16-s31 is lost (R50, log 66): such a state is left out here. -/
def Obligations.ResultLands : Prop :=
  ∀ (e : Engine) (c lat d code : Nat) (v : Addr), e.pend = [] → e.entering = false → 0 < lat → d < 60 ∨ d = 63 → code < 60 ∨ code = 63 →
    let after := (e.land (landing c lat (e.writeTo d v))).settle
    (∀ c' < c + lat, (after c').val80 code = e.val80 code) ∧
    ∀ c', c + lat ≤ c' → (after c').val80 code =
      if code ≠ d ∨ d = 63 then e.val80 code
      else if d < 32 then (v.setWidth 64).setWidth 80 else if d < 48 then v else if d < 56 then flagOf (v.getLsbD 0)
      else (v.setWidth 48).setWidth 80

/-- The frame of the scalar instructions of registers alone: whatever way one of them goes on, no state outside the engines
changes but a fault noted, no other engine changes, and its own engine goes on with its registers as they were (its results are
on their way, and loop counters move at a loop's end), or waits a cycle, or takes an exception. -/
def Obligations.ScalarFrame : Prop :=
  ∀ (s t : State) (f : L32) (g : LG) (h : LW),
    ∀ i ∈ ([.nop f, .add32 f, .sub32 f, .mul32 f, .mulh32 f, .div32 f, .rem32 f, .and32 f, .or32 f, .xor32 f, .andn32 f, .shl32 f,
        .shr32 f, .rotl32 f, .min32 f, .max32 f, .addq f, .shlq f, .shrq f, .mov32 f, .popc32 f, .clz32 f, .ctz32 f, .sext32 f,
        .ceq32 f, .cne32 f, .clt32 f, .cle32 f, .cand32 f, .cor32 f, .cxor32 f, .adda32 f, .suba32 f] ++
      [.add64 g, .sub64 g, .mul64 g, .mulh64 g, .div64 g, .rem64 g, .and64 g, .or64 g, .xor64 g, .andn64 g, .shl64 g, .shr64 g,
        .rotl64 g, .min64 g, .max64 g, .sel g, .ceq64 g, .cne64 g, .clt64 g, .cle64 g, .cand64 g, .cor64 g, .cxor64 g, .mov64 g,
        .popc64 g, .clz64 g, .ctz64 g, .sext64 g, .adda64 g, .suba64 g] ++
      [.addi h, .muli h, .andi h, .ori h, .xori h, .shli h, .shri h, .li h, .lia h, .addai h, .ceqi h, .cnei h, .clti h, .clei h,
        .cgti h, .cgei h] : List Instr), exec i s = .next t →
      s.sameBut t ∧ s.sameOthers t ∧
      ((t.faults = s.faults ∧ s.issuer.sameRegs (t.eng s.cur)) ∨ t = s.held ∨
        ∃ cause detail, t = s.raised cause detail s.issuer.pc)

/-! ## Scalar loads and stores -/

/-- R183, R184, R116: a load of the own aperture lands with latency 6: its bytes as the engine sees them, little-endian, zero-extended,
sign-extended to 64 bits under `.sx`, or bits 79:0 of the sixteen bytes of `ld.a`.

R183, R184: a store to the own aperture performs in its issue cycle. Byte `k` of the address it computes becomes byte `k` of
its register; every other byte of memory, every other engine and its own registers are as before. -/
def Obligations.LocalAccessResults : Prop :=
  (∀ (s : State) (f : L32) (g : LG) (pa : Nat),
     let e := s.issuer
     let load (i : Instr) (words stall size : Nat) (sx : Bool) (d a b cls : Nat) (imm : Int) : Prop :=
       let n := natOf (s.view (.eng s.cur) pa size)
       let v : Addr := if sx ∧ size < 16 then ((BitVec.ofNat (8 * size) n).signExtend 64).setWidth 80 else BitVec.ofNat 80 n
       let va := e.ea a b imm
       va.toNat % size = 0 → s.ownAperture s.cur va size = some pa → s.Unheld pathS cls [(pa, size)] →
         s.poisoned pa size = false → s.Issues [e.destOf a, e.destOf b] (s.result 6 d v) →
         exec i s = .next (s.passed words stall (s.result 6 d v))
     let l32 (i : Instr) (size : Nat) : Prop := load i 1 f.stall.toNat size (f.flg == 1#1) f.d.toNat f.a.toNat f.b.toNat 0 0
     let l64 (i : Instr) (size : Nat) : Prop :=
       load i g.imm.words g.stall.toNat size (g.mod.getLsbD 0) g.d.toNat g.a.toNat g.b.toNat g.cls.toNat g.imm.val
     l32 (.ldxB f) 1 ∧ l32 (.ldxH f) 2 ∧ l32 (.ldxW f) 4 ∧ l32 (.ldxD f) 8 ∧
     l64 (.ldB g) 1 ∧ l64 (.ldH g) 2 ∧ l64 (.ldW g) 4 ∧ l64 (.ldD g) 8 ∧ l64 (.ldA g) 16) ∧
  (∀ (s : State) (f : L32) (g : LG) (pa : Nat),
     let e := s.issuer
     let store (i : Instr) (words stall size d a b cls : Nat) (imm : Int) : Prop :=
       let v : Addr := if size = 16 then e.val80 d else (e.val d).setWidth 80
       let va := e.ea a b imm
       va.toNat % size = 0 → s.ownAperture s.cur va size = some pa → s.Unheld pathS cls [(pa, size)] → s.Unshadowed [(pa, size)] →
         s.Issues [e.destOf a, e.destOf b, e.destOf d] [] →
         ∃ t, exec i s = .next t ∧ t.eng s.cur = e.advance s.issueAt words stall ∧
           (∀ x, byteAt t.mem x = if pa ≤ x ∧ x < pa + size then (v >>> (8 * (x - pa))).setWidth 8 else byteAt s.mem x) ∧
           t = { s with engines := t.engines, mem := t.mem, poison := t.poison, written := t.written, owns := t.owns } ∧ s.sameOthers t ∧
           e.sameRegs (t.eng s.cur)
     let s32 (i : Instr) (size : Nat) : Prop := store i 1 f.stall.toNat size f.d.toNat f.a.toNat f.b.toNat 0 0
     let s64 (i : Instr) (size : Nat) : Prop :=
       store i g.imm.words g.stall.toNat size g.d.toNat g.a.toNat g.b.toNat g.cls.toNat g.imm.val
     s32 (.stxB f) 1 ∧ s32 (.stxH f) 2 ∧ s32 (.stxW f) 4 ∧ s32 (.stxD f) 8 ∧
     s64 (.stB g) 1 ∧ s64 (.stH g) 2 ∧ s64 (.stW g) 4 ∧ s64 (.stD g) 8 ∧ s64 (.stA g) 16)

/-- R183, R184, R399: a load or store outside the own aperture. Its access goes on its way with the address, width, class and data
of its form, a load's register waiting for the reply; an address that is not a multiple of the width, or that may not be reached,
faults its team, whether in the own aperture or not. -/
def Obligations.RemoteLoadStore : Prop :=
  ∀ (s : State) (f : L32) (g : LG) (pas : List (Nat × Nat)) (va' : Addr) (m : MemFault),
    let e := s.issuer
    let load (i : Instr) (words stall size : Nat) (sx : Bool) (d a b cls : Nat) (imm : Int) : Prop :=
      let va := e.ea a b imm
      let acc : AccSpec :=
        { path := pathS, cls := cls, vas := [(va, size)], need := rRead, align := size,
          op := .load size sx (e.destOf d), dst := e.destOf d }
      (isLocal va = false → s.Sends i words stall [e.destOf a, e.destOf b] acc pas) ∧ s.Misses i [e.destOf a, e.destOf b] acc va' m
    let store (i : Instr) (words stall size d a b cls : Nat) (imm : Int) : Prop :=
      let va := e.ea a b imm
      let acc : AccSpec :=
        { path := pathS, cls := cls, vas := [(va, size)], need := rWrite, align := size,
          op := .store (bytesOf size (if size = 16 then e.val80 d else (e.val d).setWidth 80).toNat) }
      (isLocal va = false → s.Sends i words stall [e.destOf a, e.destOf b, e.destOf d] acc pas) ∧
        s.Misses i [e.destOf a, e.destOf b, e.destOf d] acc va' m
    let l32 (i : Instr) (size : Nat) : Prop := load i 1 f.stall.toNat size (f.flg == 1#1) f.d.toNat f.a.toNat f.b.toNat 0 0
    let l64 (i : Instr) (size : Nat) : Prop :=
      load i g.imm.words g.stall.toNat size (g.mod.getLsbD 0) g.d.toNat g.a.toNat g.b.toNat g.cls.toNat g.imm.val
    let s32 (i : Instr) (size : Nat) : Prop := store i 1 f.stall.toNat size f.d.toNat f.a.toNat f.b.toNat 0 0
    let s64 (i : Instr) (size : Nat) : Prop :=
      store i g.imm.words g.stall.toNat size g.d.toNat g.a.toNat g.b.toNat g.cls.toNat g.imm.val
    l32 (.ldxB f) 1 ∧ l32 (.ldxH f) 2 ∧ l32 (.ldxW f) 4 ∧ l32 (.ldxD f) 8 ∧
    l64 (.ldB g) 1 ∧ l64 (.ldH g) 2 ∧ l64 (.ldW g) 4 ∧ l64 (.ldD g) 8 ∧ l64 (.ldA g) 16 ∧
    s32 (.stxB f) 1 ∧ s32 (.stxH f) 2 ∧ s32 (.stxW f) 4 ∧ s32 (.stxD f) 8 ∧
    s64 (.stB g) 1 ∧ s64 (.stH g) 2 ∧ s64 (.stW g) 4 ∧ s64 (.stD g) 8 ∧ s64 (.stA g) 16

/-! ## Control -/

/-- R186, R189: a taken branch goes to its target at c + 1 + k and ends the loops of its depth whose body does not hold the target,
which keep their counts; one not taken goes on; a target outside the section is illegal operand, reason 7 (R390).
Log 40 says what the model chose here. -/
def Obligations.BranchResults : Prop :=
  ∀ (s : State) (f : LB) (g : L32),
    let e := s.issuer
    let inside (p : BitVec 32) : Prop := (s.bounds s.cur e).1 ≤ p.toNat ∧ p.toNat < (s.bounds s.cur e).2
    let off := e.pc + BitVec.ofInt 32 f.off.toInt
    let cond := e.c[idx8 f.cnd.toNat]
    let taken : Prop := f.kind = 0 ∨ (f.kind = 1 ∧ cond = true) ∨ (f.kind = 2 ∧ cond = false)
    let reads : List Dest := if f.kind = 0 then [] else [.c (idx8 f.cnd.toNat)]
    let reg := (e.val g.a.toNat).setWidth 32
    let jumps (i : Instr) (p : BitVec 32) (k : Nat) : Prop :=
      ∃ t, exec i s = .next t ∧ s.goesTo t p (s.issueAt + 1 + k) ∧ e.sameRegs (t.eng s.cur) ∧ (t.eng s.cur).pend = e.pend ∧
        ∀ n : Fin 4, (t.eng s.cur).lc[n] =
          let l := e.lc[n]
          if l.active ∧ l.depth = e.depth ∧ (p.toNat < l.first.toNat ∨ l.last.toNat < p.toNat) then { l with active := false } else l
    (s.Issues reads [] → e.atLoopEnd = false →
      (taken → inside off → jumps (.b f) off f.stall.toNat) ∧
      (f.kind ≠ 3 → ¬ taken → exec (.b f) s = .next (s.passed 2 f.stall.toNat [])) ∧
      (taken → ¬ inside off → exec (.b f) s = .next (s.raised 0x0002 (opDetail 1 0x050 44 7) e.pc))) ∧
    (s.Issues reads [] → e.atLoopEnd = true → (taken → inside off) →
      exec (.b f) s = .next (s.raised 0x0002 (opDetail 1 0x050 0xFF 7) e.pc)) ∧
    (s.Issues [e.destOf g.a.toNat] [] → e.atLoopEnd = false →
      (inside reg → jumps (.jr g) reg g.stall.toNat) ∧
      (¬ inside reg → exec (.jr g) s = .next (s.raised 0x0002 (opDetail 0 0x30 19 7) e.pc)))

/-- R187, R50, R51, R396: a call puts the return offset into the caller's s23 and enters a window whose s8-s15 are the caller's
s24-s31 and whose s16-s31 read zero, with 4 cycles more when a ninth window would be resident; beyond the greatest depth it
raises 0x000B.

R187, R50, R51, R189, R396: a return goes to the offset in the caller's s23 and leaves the window, with 8 cycles more when the
caller's window has to be filled; the loops entered at its depth end; at depth 0 it raises 0x000B. -/
def Obligations.CallsAndReturns : Prop :=
  (∀ (s : State) (f : LB) (g : L32),
     let e := s.issuer
     let inside (p : BitVec 32) : Prop := (s.bounds s.cur e).1 ≤ p.toNat ∧ p.toNat < (s.bounds s.cur e).2
     let cond := e.c[idx8 f.cnd.toNat]
     let taken : Prop := f.kind = 0 ∨ (f.kind = 1 ∧ cond = true) ∨ (f.kind = 2 ∧ cond = false)
     let reads : List Dest := if f.kind = 0 then [] else [.c (idx8 f.cnd.toNat)]
     let s23 := winIndex e.depth 23
     let calls (i : Instr) (reads : List Dest) (p : BitVec 32) (words k : Nat) : Prop :=
       s.Issues reads [⟨.win s23 0, s.issueAt⟩] → e.atLoopEnd = false → inside p → e.spillWaits = false →
       (e.depth + 1 ≤ s.maxDepth s.cur →
         ∃ t, exec i s = .next t ∧ s.goesTo t p (s.issueAt + 1 + k + (if e.resident < 8 then 0 else 4)) ∧
           let u := t.eng s.cur
           u.depth = e.depth + 1 ∧ u.resident = min 8 (e.resident + 1) ∧
           u.pend = e.pend ++ [⟨.win s23 ((e.pc + BitVec.ofNat 32 words).setWidth 64), s.issueAt⟩] ∧
           (∀ n < 8, u.scalar n = e.scalar n) ∧ (∀ n, 8 ≤ n → n < 16 → u.scalar n = e.scalar (n + 16)) ∧
           (∀ n, 16 ≤ n → n < 32 → u.scalar n = 0) ∧
           u.a = e.a ∧ u.c = e.c ∧ u.lc = e.lc ∧ u.w = e.w ∧ u.v = e.v ∧ u.z = e.z) ∧
       (s.maxDepth s.cur < e.depth + 1 → exec i s = .next (s.raised 0x000B (e.depth % 65536 * 65536 + 1) e.pc))
     (taken → e.resident ≤ 8 → calls (.call f) reads (e.pc + BitVec.ofInt 32 f.off.toInt) 2 f.stall.toNat) ∧
     (e.resident ≤ 8 → calls (.callr g) [e.destOf g.a.toNat] ((e.val g.a.toNat).setWidth 32) 1 g.stall.toNat) ∧
     (f.kind ≠ 3 → ¬ taken → e.atLoopEnd = false → s.Issues reads [] → exec (.call f) s = .next (s.passed 2 f.stall.toNat []))) ∧
  (∀ (s : State) (f : L32),
     let e := s.issuer
     let s23 := winIndex (e.depth - 1) 23
     e.atLoopEnd = false →
     (0 < e.depth → s.Issues [.win s23] [] →
       ∃ t, exec (.ret f) s = .next t ∧
         s.goesTo t ((e.win.getD s23 0).setWidth 32) (s.issueAt + 1 + f.stall.toNat + (if 1 < e.resident then 0 else 8)) ∧
         let u := t.eng s.cur
         u.depth + 1 = e.depth ∧ u.win = e.win ∧ u.glob = e.glob ∧ u.resident = max 1 (e.resident - 1) ∧ u.pend = e.pend ∧
         u.a = e.a ∧ u.c = e.c ∧ u.w = e.w ∧ u.v = e.v ∧ u.z = e.z ∧
         ∀ n : Fin 4, u.lc[n] = if e.lc[n].active ∧ e.lc[n].depth = e.depth then { e.lc[n] with active := false } else e.lc[n]) ∧
     (e.depth = 0 → s.Issues [] [] → exec (.ret f) s = .next (s.raised 0x000B 2 e.pc)))

/-- R188, R390, R392: a loop instruction sets its counter, its body and its depth, and goes to the body, or past `last` when the
count is 0. It is refused for an active counter, an offset of 0 or less, a `last` outside the section or beyond that of a loop it
stands in, and a register count with bits 63:48 set.

R188: the end of a loop, shown on `nop`. The innermost loop of this depth that ends here takes its back-edge while more than one
iteration is left; at the last iteration it is over, and execution falls through when no other loop ends here. Log 40 says what the model chose here. -/
def Obligations.LoopsRepeat : Prop :=
  (∀ (s : State) (f : LB),
     let e := s.issuer
     let n := idx4 f.lc.toNat
     let last := e.pc + BitVec.ofInt 32 f.off.toInt
     let code := f.imm.toNat % 64
     let fits : Prop := 0 < f.off.toInt ∧ last.toNat < (s.bounds s.cur e).2 ∧ e.overruns last = false
     let loops (i : Instr) (op : Nat) (reads : List Dest) (count : Nat) : Prop :=
       s.Issues reads [⟨.lc n 0, s.issueAt⟩] → e.atLoopEnd = false →
       (e.lc[n].active = false → fits → count < 2 ^ 48 →
         ∃ t, exec i s = .next t ∧
           s.goesTo t (if count = 0 then last + BitVec.ofNat 32 (s.lengthAt s.cur e last) else e.pc + 2)
             (s.issueAt + 1 + f.stall.toNat) ∧ e.sameRegs (t.eng s.cur) ∧ (t.eng s.cur).pend = e.pend ∧
           ∀ m : Fin 4, (t.eng s.cur).lc[m] =
             if m = n then ⟨BitVec.ofNat 48 count, e.pc + 2, last, decide (count ≠ 0), e.depth⟩ else e.lc[m]) ∧
       (e.lc[n].active = true → exec i s = .next (s.raised 0x0002 (opDetail 1 op 26 6) e.pc)) ∧
       (e.lc[n].active = false → ¬ fits → exec i s = .next (s.raised 0x0002 (opDetail 1 op 44 7) e.pc)) ∧
       (e.lc[n].active = false → fits → 2 ^ 48 ≤ count →
         exec i s = .next (s.raised 0x0006 (code * 65536 + count / 2 ^ 48) e.pc))
     loops (.loopI f) 0x052 [] f.imm.toNat ∧ loops (.loopS f) 0x053 [e.destOf code] (e.val code).toNat) ∧
  (∀ (s : State) (f : L32) (n : Fin 4),
     let e := s.issuer
     let l := e.lc[n]
     s.Issues [] [] → l.active = true → l.last = e.pc → l.depth = e.depth →
     (∀ m : Fin 4, m ≠ n → e.lc[m].active = true → e.lc[m].depth = e.depth → e.lc[m].last ≠ e.pc) →
     ∃ t, exec (.nop f) s = .next t ∧
       s.goesTo t (if 1 < l.count.toNat then l.first else e.pc + 1) (s.issueAt + 1 + f.stall.toNat) ∧
       (∀ m : Fin 4, (t.eng s.cur).lc[m] =
         if m ≠ n then e.lc[m] else if 1 < l.count.toNat then { l with count := l.count - 1 } else { l with count := 0, active := false }) ∧
       e.sameRegs (t.eng s.cur) ∧ (t.eng s.cur).pend = e.pend)

/-! ## Exceptions, waits and system registers -/

/-- R381, R383: an engine-level exception. With CHKSB en = 1 and inh = 0 and a window to enter, CAUSE and EPC are written, inh is
set, the window advances and the handler's first instruction issues at c + 6, or c + 10 when the advance spills; pending results
are captured with their offsets (R48). Otherwise CAUSE and EPC are written, the engine stops and its team has a fault, of cause
0x000B when only the window was missing. When the team stops in the same tick for a cause that is no exception, the stop acts first and the
instruction stays unissued (R377). -/
def Obligations.ExceptionEntry : Prop :=
  ∀ (s : State) (cause detail : Nat) (epc : BitVec 32),
    let e := s.issuer
    let c := s.issueAt
    let t := s.raised cause detail epc
    let u := t.eng s.cur
    let en := e.chksb.getLsbD 0
    let inh := e.chksb.getLsbD 2
    let room : Prop := e.depth + 1 ≤ s.maxDepth s.cur
    let cause' := if en ∧ ¬ inh ∧ ¬ room ∧ e.lend = none then 0x000B else cause
    let detail' := if en ∧ ¬ inh ∧ ¬ room ∧ e.lend = none then e.depth % 65536 * 65536 + 3 else detail
    (s.stopNoted e = true → t = s.setEng s.cur { e with status := .stopped }) ∧
    (s.stopNoted e = true ↔ ∃ f ∈ s.faults, f.after = .stop ∧ 0x0100 ≤ f.cause ∧ f.seq = e.seq ∧ f.team = e.team) ∧
    (s.stopNoted e = false → cause < 2 ^ 16 → detail < 2 ^ 32 → (∀ p ∈ e.pend, p.wr.isSys = false) →
    s.sameBut t ∧ s.sameOthers t ∧ u.epc = epc.setWidth 64 ∧ u.snap = e.snap ++ e.pend.map (fun p => ⟨p.wr, p.land - c⟩) ∧ u.pend = [] ∧
    u.glob = e.glob ∧ u.a = e.a ∧ u.c = e.c ∧ u.lc = e.lc ∧ u.w = e.w ∧ u.v = e.v ∧ u.z = e.z ∧ u.sret = e.sret ∧
    (en ∧ ¬ inh ∧ room ∧ e.lend = none →
      u.cause = BitVec.ofNat 64 (detail * 2 ^ 32 + cause) ∧ u.chksb = e.chksb ||| 4 ∧ u.pc = e.chksb.extractLsb' 32 32 ∧
      u.nextIssue = c + 6 + (if e.resident < 8 then 0 else 4) ∧ u.depth = e.depth + 1 ∧
      (∀ n, 8 ≤ n → n < 16 → u.scalar n = e.scalar (n + 16)) ∧ (∀ n, 16 ≤ n → n < 32 → u.scalar n = 0) ∧ t.faults = s.faults) ∧
    (¬ (en ∧ ¬ inh ∧ room ∧ e.lend = none) →
      u.cause = BitVec.ofNat 64 (detail' * 2 ^ 32 + cause') ∧ u.status = .stopped ∧ u.depth = e.depth ∧ u.pc = e.pc ∧
      ∃ x, t.faults = s.faults ++ [x] ∧ x.cause = cause' ∧ x.detail = BitVec.ofNat 64 detail' ∧ x.pc = e.pc ∧ x.eng = some s.cur ∧
        x.level = 1 ∧ x.seq = (s.eng s.cur).seq ∧ x.team = (s.eng s.cur).team ∧ x.after = .stop))

/-- R197, R393, R385, R382: `trap` takes the software-trap exception with its code, EPC at the next instruction; `brk` stops the engine
there, what lands before that instruction having landed, sets its ENGSTOP bit and sends the vector of FLTCFG; `eret` goes back to
EPC, leaves the handler's window and clears inh, the captured results, and what is still pending at the target, to land from the
issue of its target on. -/
def Obligations.TrapResults : Prop :=
  ∀ (s : State) (f : L32) (g : LG),
    let e := s.issuer
    let p := s.passed 1 f.stall.toNat []
    let goal := fld e.epc 0 32
    s.Issues [] [] →
    (e.atLoopEnd = false →
      exec (.trap g) s = .next (s.raised 0x0007 (g.imm.bits % 4096) (e.pc + BitVec.ofNat 32 g.imm.words))) ∧
    (e.atLoopEnd = true → exec (.trap g) s = .next (s.raised 0x0002 (opDetail g.imm.len 0x069 0xFF 7) e.pc)) ∧
    (∃ t, exec (.brk f) s = .next t ∧
      t.eng s.cur = { (p.eng s.cur).settle (p.eng s.cur).nextIssue with
        cause := 8, epc := ((p.eng s.cur).pc).setWidth 64, status := .atBrk } ∧
      (t.cluster s.cur.cl).engstop = (s.cluster s.cur.cl).engstop ||| (1 <<< s.cur.index) ∧
      t.outbox = s.outbox ++ (if s.mgmt.fltcfg.getLsbD 0 then [.interrupt (fld s.mgmt.fltcfg 16 16)] else []) ∧
      t = { s with engines := t.engines, clusters := t.clusters, outbox := t.outbox } ∧ s.sameOthers t) ∧
    (e.chksb.getLsbD 2 = true → 0 < e.depth → e.atLoopEnd = false → e.secStart ≤ goal → goal ≤ e.secEnd →
      (∀ x ∈ e.pend, x.wr.isSys = false) →
      let n := s.issueAt + 1 + f.stall.toNat + (if 1 < e.resident then 0 else 8)
      let v := { e with entering := false }.settle n
      ∃ t, exec (.eret f) s = .next t ∧ s.goesTo t (BitVec.ofNat 32 goal) n ∧
        let u := t.eng s.cur
        u.depth + 1 = e.depth ∧ u.chksb.getLsbD 2 = false ∧ (∀ k, k ≠ 2 → u.chksb.getLsbD k = e.chksb.getLsbD k) ∧ u.win = v.win ∧
        u.glob = v.glob ∧ u.a = v.a ∧ u.c = v.c ∧ u.lc = v.lc ∧ u.epc = e.epc ∧ u.cause = e.cause ∧
        ∀ c', (u.replayAt c').pend =
          e.snap.map (fun x => ⟨x.wr, c' + x.off⟩) ++ v.pend.map fun x => ⟨x.wr, c' + (x.land - n)⟩) ∧
    (e.chksb.getLsbD 2 = false → exec (.eret f) s = .next (s.raised 0x0001 (opDetail 0 0x33 0xFF 7) e.pc)) ∧
    (e.chksb.getLsbD 2 = true → e.atLoopEnd = true ∨ goal < e.secStart ∨ e.secEnd < goal →
      exec (.eret f) s = .next (s.raised 0x0002 (opDetail 0 0x33 0xFF 7) e.pc))

/-- R166, R29, R116, R123, R124, R185, R191, R192, R26: a hint is a nop of its length; a fence holds the next issue until every access,
transfer and push of its engine that it orders first has performed at its scope, which is its level's unless it names a wider one,
and its die sends the engine's open merge entries.

R111, R190: a wait in the own aperture reads its word and goes on when its condition holds; otherwise the engine sleeps, its
condition to be tried again, and wakes when the word meets it. -/
def Obligations.FencesAndWaits : Prop :=
  (∀ (s : State) (h32 : LH32) (h64 : LH64) (f : LW) (g : LG),
     let e := s.issuer
     let fences (i : Instr) (words k : Nat) (scope : BitVec 4) (first : Nat → Nat → Bool) : Prop :=
       ∃ t, exec i s = .next t ∧
         (∀ y ∈ (t.eng s.cur).holds, y.scope = if scope = 0 then s.levelScope e.seq else max (s.levelScope e.seq) (scope.toNat % 8)) ∧
         (∀ x, (∃ y ∈ (t.eng s.cur).holds, y.id = x) ↔
           (∃ a ∈ s.accesses, a.eng = s.cur ∧ first a.path a.cls = true ∧ a.id = x) ∨
           (∃ a ∈ e.transfers, first pathC a.cls = true ∧ a.uid = x) ∨
           (∃ a ∈ s.pushes, a.eng = s.cur ∧ first pathK a.cls = true ∧ a.id = x) ∨
           (∃ a ∈ s.pieces, a.eng = s.cur ∧ first pathK a.cls = true ∧ a.id = x)) ∧
         (∀ u : State, (∃ y ∈ (t.eng s.cur).holds, u.inFlight y.id = true ∧
             ∀ a ∈ u.accesses, a.id = y.id → u.performedAt a y.scope = false) → u.cur = s.cur → u.eng s.cur = t.eng s.cur →
           u.cur.kind.isSome = true → ∀ j : L32, exec (.nop j) u = .next u.held) ∧
         t.eng s.cur = { e.advance s.issueAt words k with
           holds := (t.eng s.cur).holds, nextIssue := max (s.issueAt + 1 + k) (e.storesDone first) } ∧
         t = { s with engines := t.engines, dies := t.dies } ∧ t.dies = (s.sealMerge s.cur).dies ∧ s.sameOthers t
     (s.cur.kind.isSome = true → s.fenced (s.eng s.cur) = false →
       exec (.hint32 h32) s = .next (s.passed 1 h32.stall.toNat []) ∧
       exec (.hint64 h64) s = .next (s.passed (if h64.lit.isSome then 3 else 2) h64.stall.toNat [])) ∧
     (s.Issues [] [] →
       (f.mod ≠ 15 → fences (.fenceC f) f.imm.words f.stall.toNat f.mod fun _ cls => f.imm.bits.testBit cls) ∧
       (g.scope ≠ 15 → fences (.fenceX g) g.imm.words g.stall.toNat g.scope fun path _ => path == g.imm.bits % 8) ∧
       (f.mod = 15 → exec (.fenceC f) s = .next (s.raised 0x0002 (opDetail f.imm.len 0x061 32 9) e.pc)))) ∧
  (∀ (s : State) (f : LG) (pa : Nat) (id : EngId) (kind cls since : Nat) (at_ : Addr) (x : Word),
     let e := s.issuer
     let va := e.ea f.a.toNat f.b.toNat f.imm.val
     let holds (kind : Nat) (w x : Word) : Prop := if kind = 0 then w = x else if kind = 1 then w ≠ x else x.toNat ≤ w.toNat
     let w (id : EngId) := BitVec.ofNat 64 (natOf (s.view (.eng id) pa 8))
     (s.Issues [e.destOf f.a.toNat, e.destOf f.b.toNat, e.destOf f.x.toNat] [] → f.scope ≠ 15 → va.toNat % 8 = 0 →
       s.ownAperture s.cur va 8 = some pa → s.Unheld pathS f.cls.toNat [(pa, 8)] → s.poisoned pa 8 = false →
       let p := s.passed f.imm.words f.stall.toNat []
       (holds (f.mod.toNat % 4) (w s.cur) (e.val f.x.toNat) → exec (.wait f) s = .next p) ∧
       (¬ holds (f.mod.toNat % 4) (w s.cur) (e.val f.x.toNat) → exec (.wait f) s = .next (p.setEng s.cur
         { p.eng s.cur with
           status := .blocked (.wait (some pa) va f.cls.toNat (f.mod.toNat % 4) (e.val f.x.toNat)) (p.eng s.cur).nextIssue }))) ∧
     ((s.eng id).status = .blocked (.wait (some pa) at_ cls kind x) since → s.slotGone (paSlot pa) = false → s.dieUp (paSlot pa) = true → s.poisoned pa 8 = false →
       (holds kind (w id) x → ∃ t, exec (.waitReread id) s = .next t ∧ (t.eng id).status = .running ∧ s.sameBut t ∧
         since ≤ (t.eng id).nextIssue ∧ ∀ id', id'.key ≠ id.key → t.eng id' = s.eng id') ∧
       (¬ holds kind (w id) x → exec (.waitReread id) s = .next s)))

/-- R193, R194, R195: `notify` ends the stream's own issue; `deadl` declares a deadline, counted from T0; `idbeg` opens a region with a
record of the registers, in four cycles or more; `idend` closes it. A region within a region, and an end without one, are
illegal operand, reason 7 (R390).

R162, R196, R34, R20, R378-R380: `mfs` reads a system register with latency 2; `mts` writes its RW fields from the second cycle
after on. A number that names no register of the engine is illegal operand, reason 8 (R390). Logs 31 and 40 say what the model chose here. -/
def Obligations.MarksAndSystemRegisters : Prop :=
  (∀ (s : State) (f : LG),
     let e := s.issuer
     let c := s.issueAt
     let p := s.passed f.imm.words f.stall.toNat []
     (s.Issues [] [] → e.atLoopEnd = false → f.scope ≠ 15 → s.peerStops e = false → s.canSteal s.cur = false →
       ∃ t, exec (.notify f) s = .next t ∧ (t.eng s.cur).status = .notifying (s.scopeOf e.seq f.scope) ∧ (t.eng s.cur).pc = e.pc ∧ e.sameRegs (t.eng s.cur) ∧
         t = { s with engines := t.engines, dies := t.dies } ∧ s.sameOthers t) ∧
     (s.Issues [e.destOf f.a.toNat] [] → exec (.deadl f) s = .next (p.setEng s.cur { p.eng s.cur with
       deadl := some ⟨(BitVec.ofNat 64 (s.courseT0 e.seq) + e.val f.a.toNat + BitVec.ofInt 64 f.imm.val).toNat, e.secNum, e.pc, false⟩ })) ∧
     (s.Issues [] [] → e.region = none → (∀ q ∈ e.inter, recorded q.1 = false) →
       ∃ t, exec (.idbeg f) s = .next t ∧ s.sameBut t ∧ s.sameOthers t ∧ e.sameRegs (t.eng s.cur) ∧
         (t.eng s.cur).pc = (p.eng s.cur).pc ∧ c + 4 + f.stall.toNat ≤ (t.eng s.cur).nextIssue ∧
         (∀ q ∈ e.pend, recorded q.wr.dest = true → q.land < (t.eng s.cur).nextIssue) ∧
         ∃ r, (t.eng s.cur).region = some r ∧ r.pc = e.pc ∧ r.depth = e.depth ∧
           (e.pend = [] → r.glob = e.glob ∧ r.win = e.win ∧ r.a = e.a ∧ r.c = e.c ∧ r.lc = e.lc)) ∧
     (s.Issues [] [] → e.region ≠ none →
       exec (.idend f) s = .next (p.setEng s.cur { p.eng s.cur with region := none }) ∧
       exec (.idbeg f) s = .next (s.raised 0x0002 (opDetail f.imm.len 0x065 0xFF 7) e.pc)) ∧
     (s.Issues [] [] → e.region = none → exec (.idend f) s = .next (s.raised 0x0002 (opDetail f.imm.len 0x066 0xFF 7) e.pc))) ∧
  (∀ (s : State) (f : LG),
     let e := s.issuer
     let n := f.imm.bits % 4096
     let reads (v : Addr) : Prop := s.Issues [] (s.result 2 f.d.toNat v) →
       exec (.mfs f) s = .next (s.passed f.imm.words f.stall.toNat (s.result 2 f.d.toNat v))
     (hasSys s.cur n = true →
       reads (s.sysValue s.cur e s.issueAt n) ∧
       (n = 0 → reads (BitVec.ofNat 80 ((s.cur.slot * 65536 + s.cur.index * 256 + s.cur.cluster) % 2 ^ 64))) ∧
       (n = 2 → reads (BitVec.ofNat 80 (s.ptick % 2 ^ 64))) ∧ (n = 0x10 → reads (e.secpart.setWidth 80)) ∧
       (n = 0x11 → reads (e.strmcfg.setWidth 80)) ∧ (n = 0x12 → reads (BitVec.ofNat 80 (e.resident % 16 * 65536 + e.depth % 65536))) ∧
       (n = 0x13 → reads (e.aspace.setWidth 80)) ∧ (n = 0x40 → reads (e.cause.setWidth 80)) ∧ (n = 0x41 → reads (e.epc.setWidth 80)) ∧
       (n = 0x42 → reads (e.chksb.setWidth 80)) ∧
       (n ≠ 0x15 → n ≠ 0x16 → s.Issues [e.destOf f.a.toNat] [] →
         exec (.mts f) s = .next (s.passed f.imm.words f.stall.toNat [⟨.sys n (e.val80 f.a.toNat), s.issueAt + 1⟩])) ∧
       (n = 0x15 ∨ n = 0x16 → s.Issues [e.destOf f.a.toNat] [] →
         ∃ t, exec (.mts f) s = .next t ∧ t = { s with engines := t.engines, clusters := t.clusters } ∧ s.sameOthers t ∧
           t.eng s.cur = e.advance s.issueAt f.imm.words f.stall.toNat ∧
           (∀ c, s.issueAt + 1 < c → (t.cluster s.cur.cl).bankReg n c = (e.val80 f.a.toNat).setWidth 64) ∧
           ((s.cluster s.cur.cl).bfmtPend = [] → ∀ m c, (m = 0x15 ∨ m = 0x16) → m ≠ n ∨ c ≤ s.issueAt + 1 →
             (t.cluster s.cur.cl).bankReg m c = (s.cluster s.cur.cl).bankReg m c))) ∧
     (hasSys s.cur n = false →
       (s.Ready [] → exec (.mfs f) s = .next (s.raised 0x0002 (opDetail f.imm.len 0x067 52 8) e.pc)) ∧
       (s.Ready [e.destOf f.a.toNat] → exec (.mts f) s = .next (s.raised 0x0002 (opDetail f.imm.len 0x068 52 8) e.pc))) ∧
     (∀ (u : Engine) (m : Nat) (v : Addr),
       let w := u.apply (.sys m v)
       (m = 0x11 → w = { u with strmcfg := v.setWidth 64 &&& 1 }) ∧ (m = 0x41 → w = { u with epc := (v.setWidth 32).setWidth 64 }) ∧
       (m = 0x42 → w.chksb.extractLsb' 32 32 = v.extractLsb' 32 32 ∧ w.chksb.getLsbD 0 = v.getLsbD 0 ∧
         w.chksb.getLsbD 2 = u.chksb.getLsbD 2 ∧ w = { u with chksb := w.chksb }) ∧
       (m < 0x11 ∨ (0x12 ≤ m ∧ m < 0x28) ∨ (0x2C ≤ m ∧ m < 0x41) ∨ 0x42 < m → w = u)))

/-! ## Reset, decoding and the step -/

/-- R20, R31, R50, R92, R95, R107, R109, R260, R296, R310, R322, R331, R342, R370, R374, R378-R380: what the package holds after
power-on where the spec states it: no launch runs and no access is in flight; every register reads zero, XNEXT is 1, one window is
resident; memory reads zero. Where the spec gives a register no value, its zero is the model's choice. Logs 3 and 49 say what the model chose here. -/
def Obligations.ResetState : Prop :=
  let s := State.reset
  s.ptick = 0 ∧ s.launches = [] ∧ s.accesses = [] ∧ s.pushes = [] ∧ s.pieces = [] ∧ s.replies = [] ∧ s.crossings = [] ∧
  s.faults = [] ∧ s.poison = [] ∧ s.nextSeq = 1 ∧ (∀ a, byteAt s.mem a = 0) ∧
  (∀ id : EngId, let e := s.eng id
    e.status = .off ∧ (∀ code, e.val80 code = 0) ∧ (∀ i : Fin 8, e.w[i] = 0 ∧ e.z[i] = []) ∧ e.v = [] ∧ e.pend = [] ∧
    e.depth = 0 ∧ e.resident = 1 ∧ e.sret = 0 ∧ e.strmcfg = 0 ∧ e.cause = 0 ∧ e.epc = 0 ∧ e.chksb = 0 ∧
    ∀ n : Fin 4, e.lc[n].active = false ∧ e.chans[n].xnext = 1 ∧ e.chans[n].xdone = 0 ∧ e.chans[n].head = 0 ∧ e.chans[n].chain = .idle) ∧
  (∀ cl, let k := s.cluster cl
    k.bfmtlo = 0 ∧ k.bfmthi = 0 ∧ k.engstop = 0 ∧ k.dom.op = 0 ∧ k.acc = [] ∧ ∀ t : Fin 16, k.tiles[t].full = false) ∧
  (∀ slot, let d := s.die slot
    d.incarn = 0 ∧ d.stale = 0 ∧ d.corr = 0 ∧ d.uncorr = 0 ∧ (∀ n, d.wincfgOf n = 0 ∧ d.routeOf n = 0 ∧ (d.window n).full = 0) ∧
    d.ranges = [] ∧ d.cache = [] ∧ d.acc = [] ∧ d.keys = [] ∧ d.partials = [] ∧ d.merge = [] ∧ d.armed = [] ∧
    d.lattice.stampCtr = 0 ∧ d.lattice.squash = 0 ∧ d.lattice.cells = []) ∧
  (∀ i, (s.image i).state = 0 ∧ (s.image i).queue = 0 ∧ (s.image i).lstat = 0) ∧
  fld s.gov.govcfg 32 32 = 240 ∧ fld s.gov.govcfg 0 2 = 3 ∧ s.gov.pcap = 8400 ∧ fld s.gov.pstat 32 3 = 7 ∧
  s.mgmt.flog = 6 ∧ s.mgmt.fltcfg = 1 ∧ s.mgmt.evacctl = 0 ∧ s.mgmt.podcfg = 0

/-- The state after power-on has the invariant: its memory is in canonical form. -/
def Obligations.ResetInv : Prop := State.reset.Inv

/-- Every step keeps the memory in its canonical form: addresses strictly rise, and nothing is listed that reads as zero. The step
is any: an input from outside, an event of the package, an instruction, a fault stop or the passing of a tick. Log 49 says what the model chose here. -/
def Obligations.StepKeepsInv : Prop :=
  ∀ s t : State, s.Inv → step s = .next t → t.Inv

/-- R148, R397, R43: a step. With nothing from outside, no event to happen and an engine due, the words at its pc are read through its
translation, and when they are an instruction, the step is `exec` of it at that engine; a section's end is a header's place; words
that are none take the exception they call for. With nothing due and no fault noted, a tick passes. Logs 1 and 32 say what the model chose here. -/
def Obligations.StepRunsDecoded : Prop :=
  ∀ s : State,
    (∀ i rest, s.inbox = i :: rest → step s = exec i { s with inbox := rest }) ∧
    (s.inbox = [] → s.nextEvent = none → s.dueEngine = none → s.faults = [] → step s = .next { s with ptick := s.ptick + 1 }) ∧
    ∀ (id : EngId) (k : EngKind), s.inbox = [] → s.nextEvent = none → s.dueEngine = some id → id.kind = some k →
      let u := { s with cur := id }
      let e := u.eng id
      let past := (u.bounds id e).2
      u.endLend id = none →
      (e.started = false ∨ e.pc.toNat = past → step s = exec (.sectionHeaderPass id) u) ∧
      ∀ (w : Word32) (ws : List Word32), e.started = true → e.pc.toNat ≠ past →
        (∀ j (h : j < (w :: ws).length), u.codeWord id e (e.pc.toNat + j) = .ok (w :: ws)[j]) →
        (isHeader w = true → u.fenced e = false → step s = .next (u.raised 0x000A (secDetail e 1) u.issuer.pc)) ∧
        (isHeader w = false → lengthOf w = (w :: ws).length →
          (past < e.pc.toNat + (w :: ws).length → u.fenced e = false → step s = .next (u.raised 0x000A (secDetail e 5) u.issuer.pc)) ∧
          (e.pc.toNat + (w :: ws).length ≤ past →
            (∀ i, decodeFor k (w :: ws) = .ok i → step s = exec i u) ∧
            ∀ r, decodeFor k (w :: ws) = .error r → u.fenced e = false → step s = .next (u.raised 0x0001
              (opDetail (w.toNat % 4) (if w.toNat % 4 = 0 then op32 w else op10 w) r.bit r.reason) u.issuer.pc)))

/-- R149-R166: words written out from the encodings of the spec, with the instructions they stand for. Log 40 says what the model chose here. -/
def Obligations.WordsDecode : Prop :=
  decodeWords [0x0E30A028] = .ok (.add32 ⟨0, 7, 6, 5, 2⟩) ∧
  decodeWords [0x01F90260] = .ok (.mov32 ⟨0, 0, 63, 8, 0⟩) ∧
  decodeWords [0x04410220] = .ok (.shlq ⟨0, 2, 8, 8, 0⟩) ∧
  decodeWords [0x00000640] = .ok (.ret ⟨0, 0, 0, 0, 0⟩) ∧
  decodeWords [0x009005C2, 0x45678900, 0x00000123] = .ok (.li ⟨.wide 0x1234567890, 0, 0, 9, 0, 0⟩) ∧
  decodeWords [0x00001401, 0x00004000] = .ok (.b ⟨4, 0, 0, 0, 0, 0, 0⟩) ∧
  decodeWords [0x80102001, 0x0001023F] = .ok (.push ⟨.short 0, 1, 0, 8, 63, 32, 1, 0, 0⟩)

/-- R147-R166: decoding the words of a well-formed instruction gives it back, every operand at every value the encoding admits, for
every engine that executes its subset. -/
def Obligations.DecodeEncode : Prop :=
  ∀ (i : Instr) (k : EngKind), i.wf = true → encode i ≠ [] →
    (∀ w ∈ (encode i).head?, (encode i).length = 1 ∨ k.executes (subsetOf (op10 w)) = true) →
      decodeFor k (encode i) = .ok i ∧ decodeWords (encode i) = .ok i

/-- R147-R166: words that decode are the words of one well-formed instruction: no two spellings mean the same. -/
def Obligations.EncodeDecode : Prop :=
  ∀ (ws : List Word32) (i : Instr), decodeWords ws = .ok i → encode i = ws ∧ i.wf = true

/-! ## Windows, barriers and atomics -/

/-- R261, R132, R263, R40: a push reads its bytes, cuts them into pieces of S bytes and joins its route; it waits until everything
earlier of its engine has performed at the common scope of the producer and the consumer. A take waits for a full slot, copies it out, and retires ceil(S / 256) + 2 cycles after
its issue or later, with the slot's index for `d`. Logs 40 and 42 say what the model chose here. -/
def Obligations.PushTakeResults : Prop :=
  ∀ (s : State) (f : LG) (pa : Nat),
    let e := s.issuer
    let c := s.issueAt
    let va := e.ea f.a.toNat f.b.toNat f.imm.val
    let words := f.imm.words
    let stall := f.stall.toNat
    let n := (e.val f.x.toNat).toNat
    let k := f.mod.toNat % 8 + 1
    let route := (s.die s.cur.slot).routeOf f.d.toNat
    let size := winSlotBytes ((s.die (routeSlot route)).wincfgOf (routeWindow route))
    let reads := [e.destOf f.a.toNat, e.destOf f.b.toNat, e.destOf f.x.toNat]
    let w := f.x.toNat
    let cfg := (s.die s.cur.slot).wincfgOf w
    let win := (s.die s.cur.slot).window w
    let slotAt := slotPa s.cur.slot w win.takePos
    let bytes := winSlotBytes cfg
    let retires := c + (bytes + 255) / 256 + 2
    let into := (s.die (routeSlot route)).wincfgOf (routeWindow route)
    let scope := commonScope (.eng s.cur) (.eng ⟨routeSlot route, winCluster into, winEngine into⟩)
    (s.Issues reads [] → routeValid route = true → (k - 1) * size < n → n ≤ k * size →
      (s.unreleased s.cur e c scope = true → exec (.push f) s = .next (s.sealMerge s.cur).held) ∧
      (s.unreleased s.cur e c scope = false → isLocal va = false → exec (.push f) s = .next (s.accessFaulted va (.physical 4))) ∧
      (s.unreleased s.cur e c scope = false → s.ownAperture s.cur va n = some pa → s.poisoned pa n = false →
        ∃ p : PushReq, exec (.push f) s = .next
            ({ s with nextId := s.nextId + 1, pushes := s.pushes ++ [p] }.setEng s.cur (e.advance c words stall)) ∧
          p.id = s.nextId ∧ p.eng = s.cur ∧ p.route = f.d.toNat ∧ p.issue = s.ptick ∧ p.pieces.length = k ∧
          p.pieces.flatten = s.view (.eng s.cur) pa n ∧ ∀ j (h : j < p.pieces.length), p.pieces[j].length = min size (n - j * size))) ∧
    (s.Issues reads [] → routeValid route = false →
      exec (.push f) s = .next (s.raised 0x0002 (opDetail f.imm.len 0x080 20 0x0D) e.pc)) ∧
    (s.Issues reads [] → routeValid route = true → n ≤ (k - 1) * size ∨ k * size < n →
      exec (.push f) s = .next (s.raised 0x0002 (opDetail f.imm.len 0x080 38 0x0D) e.pc)) ∧
    (∀ moves : Bool, (moves = true ↔ f.a.toNat ≠ 63) → s.Issues (if moves then [e.destOf f.a.toNat, e.destOf f.b.toNat] else []) [] →
      winValid cfg = true → winEngine cfg = s.cur.index → winCluster cfg = s.cur.cluster → s.acquiring e = false →
      (win.full.getLsbD win.takePos = false →
        exec (.take f) s = .next (s.setEng s.cur { s.eng s.cur with status := .blocked (.take w) c })) ∧
      (win.full.getLsbD win.takePos = true →
        (moves = true → va.toNat % 64 = 0 ∧ s.ownAperture s.cur va bytes = some pa ∧ s.poisoned slotAt bytes = false ∧
          s.mustFollow s.cur pathK f.cls.toNat s.nextId [(pa, bytes)] = false ∧ s.Unshadowed [(pa, bytes)]) →
        ∃ t, exec (.take f) s = .next t ∧ t = { s with engines := t.engines, mem := t.mem, poison := t.poison, written := t.written } ∧ s.sameOthers t ∧
          (t.eng s.cur).status = .blocked (.takeEnds w retires) (max (c + 1 + stall) (retires + 1)) ∧ e.sameRegs (t.eng s.cur) ∧
          (t.eng s.cur).pend = e.pend ++ (match e.writeTo f.d.toNat (BitVec.ofNat 80 win.takePos) with | some x => [⟨x, retires⟩] | none => []) ∧
          ∀ x, byteAt t.mem x =
            if moves ∧ pa ≤ x ∧ x < pa + bytes then byteAt s.mem (slotAt + (x - pa)) else byteAt s.mem x))

/-- R264-R268, R273: `bar.init` sends a whole barrier to its address, `bar.arr` an arrival that is a release, `bar.wait` a read after
which the engine sleeps until it is answered; `rclose` asks a BD to close an ordered epoch; `xwait` goes on when its channel's
XDONE has reached val(x), and sleeps otherwise. A barrier's address is a multiple of 32 and its counts are not both zero.
Log 40 says what the model chose here. -/
def Obligations.BarrierResults : Prop :=
  ∀ (s : State) (f : LG) (pas : List (Nat × Nat)),
    let e := s.issuer
    let c := s.issueAt
    let words := f.imm.words
    let stall := f.stall.toNat
    let va := e.val80 f.a.toNat + BitVec.ofInt 80 f.imm.val
    let x := e.val f.x.toNat
    let iarr := (e.val f.b.toNat).toNat % 2 ^ 16
    let ipend := x.toNat % 2 ^ 56
    let bad (i : Instr) (op bit reason : Nat) : Prop := exec i s = .next (s.raised 0x0002 (opDetail f.imm.len op bit reason) e.pc)
    let dst := e.destOf f.d.toNat
    let wt : AccSpec := { path := pathK, cls := f.cls.toNat, acq := true, vas := [(va, 32)], need := rRead, op := .barWait x }
    let t := s.sent words stall wt pas
    let ty := atomicType f.imm
    let at_ := e.ea f.a.toNat f.b.toNat (atomicOffset f.imm)
    let who := xwaitEngine s.cur f
    let done := (s.eng who).chans[idx4 (f.mod.toNat % 4)].xdone.toNat
    let p := s.passed words stall []
    let initReads := [e.destOf f.a.toNat, e.destOf f.b.toNat, e.destOf f.x.toNat]
    (iarr ≠ 0 ∨ ipend ≠ 0 → f.scope ≠ 15 → s.scopeOf e.seq f.scope < 128 → va.toNat % 32 = 0 →
      ∃ data, data.length = 32 ∧ barrierOf data = ⟨ipend, iarr, 0, ipend, iarr, 128 + s.scopeOf e.seq f.scope⟩ ∧
        s.Sends (.barInit f) words stall initReads { path := pathK, cls := f.cls.toNat, scope := s.scopeOf e.seq f.scope, vas := [(va, 32)], need := rWrite, op := .barInit data } pas) ∧
    (s.Issues initReads [] → iarr = 0 → ipend = 0 → f.scope ≠ 15 → va.toNat % 32 = 0 → bad (.barInit f) 0x082 32 4) ∧
    (s.Issues initReads [] → iarr ≠ 0 ∨ ipend ≠ 0 → f.scope ≠ 15 → va.toNat % 32 ≠ 0 → bad (.barInit f) 0x082 26 0x0B) ∧
    (va.toNat % 32 = 0 → s.Leaves (.barArr f) words stall [e.destOf f.a.toNat]
      { path := pathK, cls := f.cls.toNat, rel := true, vas := [(va, 32)], need := rAtomic, kind := 2, op := .barArr dst, dst := dst } pas) ∧
    (s.Issues [e.destOf f.a.toNat] [] → va.toNat % 32 ≠ 0 → bad (.barArr f) 0x083 26 0x0B) ∧
    (s.Issues [e.destOf f.a.toNat, e.destOf f.x.toNat] [] → va.toNat % 32 = 0 → s.acquiring e = false →
      s.resolveAll s.cur e rRead 0 [(va, 32)] = .ok (pas, none) → exec (.barWait f) s = .next (t.setEng s.cur
        { t.eng s.cur with status := .blocked (.barrier none va f.cls.toNat x) (t.eng s.cur).nextIssue })) ∧
    (s.Issues [e.destOf f.a.toNat, e.destOf f.x.toNat] [] → va.toNat % 32 ≠ 0 → bad (.barWait f) 0x084 26 0x0B) ∧
    (f.scope ≠ 15 → s.Leaves (.rclose f) words stall [e.destOf f.a.toNat, e.destOf f.b.toNat]
      { path := pathK, cls := f.cls.toNat, scope := s.syncScope e.seq f, acq := f.mod.getLsbD 0, rel := f.mod.getLsbD 1,
        vas := [(at_, typeBytes ty)], need := rAtomic, kind := 2, align := typeBytes ty,
        home := some (opDetail f.imm.len 0x086 0xFF 0x0A), op := .close ty (opDetail f.imm.len 0x086 0xFF 0x0A) dst, dst := dst } pas) ∧
    (s.Issues [e.destOf f.x.toNat] [] → s.acquiring e = false → dieKind s.cur.slot ≠ some .gd → dieKind s.cur.slot ≠ some .sd →
      (dieKind s.cur.slot = some .bd ∨ f.mod.toNat / 4 = 0) →
      (x.toNat ≤ done → exec (.xwait f) s = .next p) ∧
      (done < x.toNat → exec (.xwait f) s = .next
        (p.setEng s.cur { p.eng s.cur with status := .blocked (.xwait who (f.mod.toNat % 4) x) (p.eng s.cur).nextIssue })))

/-- R269, R272, R143: an atomic or reduction sends one request for its element, of the operand in x and the comparand in d; an
ordered floating add asks for a home that can keep an epoch. Scope 15 is illegal operand, reason 9 (R390).

R117, R270, R266, R267: what an access does when it performs, its home outside a BD. An integer atomic on an element of `n` bytes
writes the new value and answers the old; an arrival at a barrier counts down and answers the phase before it, a delivery
counts its bytes, and the phase ends when both counts are zero; a load answers its bytes; a store writes them. A barrier not
set up, or one with no arrival left, faults with 0x0202 (R409). Log 40 says what the model chose here. -/
def Obligations.AtomicsAtHome : Prop :=
  (∀ (s : State) (f : LG) (pas : List (Nat × Nat)) (va' : Addr) (m : MemFault),
     let e := s.issuer
     let ty := atomicType f.imm
     let n := typeBytes ty
     let low (v : Word) : Word := BitVec.ofNat 64 (v.toNat % 2 ^ (8 * n))
     let ordered := !f.mod.getLsbD 2
     let sends (i : Instr) (op : AOp) (fetch : Bool) (code : Nat) : Prop :=
       let det := opDetail f.imm.len code 0xFF 0x0A
       let dst := if fetch then e.destOf f.d.toNat else Dest.nil
       let reads := [e.destOf f.a.toNat, e.destOf f.b.toNat, e.destOf f.x.toNat] ++ (if op = .cas then [e.destOf f.d.toNat] else [])
       let acc : AccSpec :=
         { path := pathK, cls := f.cls.toNat, scope := s.syncScope e.seq f, acq := f.mod.getLsbD 0, rel := f.mod.getLsbD 1,
           vas := [(e.ea f.a.toNat f.b.toNat (atomicOffset f.imm), n)], need := rAtomic, kind := 2, align := n,
           home := if op = .fadd ∧ ordered then some det else none,
           op := .atomic ⟨op, ty, ordered, f.mod.getLsbD 3, fetch, low (e.val f.x.toNat),
             if op = .cas then low (e.val f.d.toNat) else 0, det⟩ dst,
           dst := dst }
       (f.scope ≠ 15 → s.Leaves i f.imm.words f.stall.toNat reads acc pas ∧ s.Misses i reads acc va' m) ∧
       (f.scope = 15 → s.Issues reads [] → exec i s = .next (s.raised 0x0002 (opDetail f.imm.len code 44 9) e.pc))
     sends (.amoAdd f) .add true 0x088 ∧ sends (.amoFadd f) .fadd true 0x089 ∧ sends (.amoMin f) .min true 0x08A ∧
     sends (.amoMax f) .max true 0x08B ∧ sends (.amoAnd f) .and true 0x08C ∧ sends (.amoOr f) .or true 0x08D ∧
     sends (.amoXor f) .xor true 0x08E ∧ sends (.amoSwp f) .swp true 0x08F ∧ sends (.amoCas f) .cas true 0x090 ∧
     sends (.amoFmin f) .fmin true 0x091 ∧ sends (.amoFmax f) .fmax true 0x092 ∧ sends (.redAdd f) .add false 0x098 ∧
     sends (.redFadd f) .fadd false 0x099 ∧ sends (.redMin f) .min false 0x09A ∧ sends (.redMax f) .max false 0x09B ∧
     sends (.redAnd f) .and false 0x09C ∧ sends (.redOr f) .or false 0x09D ∧ sends (.redXor f) .xor false 0x09E ∧
     sends (.redFmin f) .fmin false 0x09F ∧ sends (.redFmax f) .fmax false 0x0A0) ∧
  (∀ (s : State) (a : Access) (pa n : Nat) (q : AReq) (dst : Dest) (k : Nat) (data : List Byte) (sx : Bool),
     let w := 8 * n
     let old := natOf (s.bytes pa n)
     let x := q.opnd.toNat
     let less (u v : Nat) : Bool := if q.uns then u < v else (BitVec.ofNat w u).toInt < (BitVec.ofNat w v).toInt
     let b := s.barrier pa
     let ends (b : Barrier) : Barrier := if b.arr = 0 ∧ b.pend = 0 then ⟨b.ipend, b.iarr, 1 - b.phase, b.ipend, b.iarr, b.ctl⟩ else b
     let gone := { s with accesses := s.accesses.filter fun y => y.id != a.id }
     let writes (t : State) (bs : List Byte) : Prop :=
       ∀ y, byteAt t.mem y = if pa ≤ y ∧ y < pa + bs.length then (bs.getD (y - pa) 0) else byteAt s.mem y
     let becomes (i : Instr) (bs : List Byte) (answer : Option (List Write)) : Prop :=
       ∃ t, exec i s = .next t ∧ writes t bs ∧ t = { gone with mem := t.mem, poison := t.poison, written := t.written, owns := t.owns, replies := t.replies, fresh := t.fresh } ∧
         match answer with
         | none => t.replies = s.replies ∧ t.fresh = s.fresh
         | some ws => ∃ due, s.ptick < due ∧ t.replies = s.replies ++ [⟨a.id, a.eng, a.incarn, ws, due⟩]
     let fails (i : Instr) (reason : Nat) : Prop :=
       ∃ t, exec i s = .next t ∧ t = { gone with engines := t.engines, faults := t.faults } ∧ (t.eng a.eng).status = .stopped ∧
         ∃ x, t.faults = s.faults ++ [x] ∧ x.cause = 0x0202 ∧ x.eng = some a.eng ∧ x.team = a.team ∧ x.seq = a.seq ∧
           x.detail = BitVec.ofNat 64 (reason + b.phase * 2 ^ 8 + b.arr * 2 ^ 16 + b.pend % 2 ^ 32 * 2 ^ 32)
     s.access a.id = some a → s.canPerform a = true → a.pas = [(pa, n)] → s.slotGone (paSlot pa) = false → dieKind (paSlot pa) ≠ some .bd →
     s.frozen a.seq a.team pa = false → s.poisoned pa n = false →
     (a.op = .atomic q dst → typeBytes q.ty = n → x < 2 ^ w → q.cmp.toNat < 2 ^ w →
       let puts (v : Nat) : Prop := becomes (.accessPerformsAtHome a.id) (bytesOf n v)
         (if q.fetch then some (match dst.write (BitVec.ofNat 80 old) with | some w => [w] | none => []) else none)
       (q.op = .add → puts ((old + x) % 2 ^ w)) ∧ (q.op = .min → puts (if less x old then x else old)) ∧
       (q.op = .max → puts (if less old x then x else old)) ∧ (q.op = .and → puts (old &&& x)) ∧ (q.op = .or → puts (old ||| x)) ∧
       (q.op = .xor → puts (old ^^^ x)) ∧ (q.op = .swp → puts x) ∧ (q.op = .cas → puts (if old = q.cmp.toNat then x else old))) ∧
     (a.op = .load n sx dst → n ≤ 8 → sx = false → becomes (.accessPerformsAtHome a.id) []
       (some (match dst.write (BitVec.ofNat 80 (natOf (s.view (.eng a.eng) pa n))) with | some w => [w] | none => []))) ∧
     (a.op = .store data → data.length = n → becomes (.accessPerformsAtHome a.id) data none) ∧
     (n = 32 → a.op = .barArr dst → 128 ≤ b.ctl → 0 < b.arr →
       becomes (.accessPerformsAtHome a.id) (ends { b with arr := b.arr - 1 }).bytes
         (some (match dst.write (BitVec.ofNat 80 b.phase) with | some w => [w] | none => []))) ∧
     (n = 32 → a.op = .barArr dst → b.ctl < 128 → fails (.accessPerformsAtHome a.id) 1) ∧
     (n = 32 → a.op = .barArr dst → 128 ≤ b.ctl → b.arr = 0 → fails (.accessPerformsAtHome a.id) 2) ∧
     (n = 32 → a.op = .deliver k → 128 ≤ b.ctl → k ≤ b.pend →
       becomes (.barrierDelivery a.id) (ends { b with pend := b.pend - k }).bytes none) ∧
     (n = 32 → a.op = .deliver k → 128 ≤ b.ctl → b.pend < k → fails (.barrierDelivery a.id) 3))

/-! ## Vector instructions -/

/-- R205-R208, R202, R224: lane `k` of the elementwise forms, A from wa, B a register, a scalar plus an immediate or an immediate, X
from wx. Floating lanes are the exact result rounded once; integer lanes wrap, or clamp under `.sat`. Sources marked at last use
read zero afterwards. Log 40 says what the model chose here. -/
def Obligations.VectorElementwise : Prop :=
  ∀ (s : State) (f : LV),
    let e := s.issuer
    let code := f.fd.toNat
    let w := laneBits code
    let imm := BitVec.ofInt 64 f.imm.val
    let A := laneAt w e.w[idx8 f.wa.toNat]
    let B (k : Nat) : Nat :=
      if f.bKind = 0 then laneAt w e.w[idx8 f.wb.toNat] k else if f.bKind = 1 then (e.val f.sx.toNat + imm).toNat % 2 ^ w else imm.toNat % 2 ^ w
    let X := laneAt w e.w[idx8 f.wx.toNat]
    let wr (n : BitVec 3) : Dest := .w (idx8 n.toNat)
    let lu (n : Nat) (b : Bool) (r : BitVec 3) : List (Fin 8) := if f.lu.getLsbD n && b then [idx8 r.toNat] else []
    let gives (i : Instr) (lat : Nat) (b x : Bool) (val : Nat → Nat) : Prop :=
      ∃ v : VReg, (∀ k < 4096 / w, laneAt w v k = val k) ∧
        s.yields f i lat
          ([wr f.wa] ++ (if b && f.bKind == 0 then [wr f.wb] else []) ++ (if x then [wr f.wx] else []) ++
            (if b && f.bKind == 1 then [e.destOf f.sx.toNat] else []))
          (lu 0 true f.wa ++ lu 1 (b && f.bKind == 0) f.wb ++ lu 2 x f.wx) [(idx8 f.wd.toNat, v)]
    let fl (op : FVal → FVal → FVal → FVal) (k : Nat) : Nat :=
      plainRound code (op (plainValue code (A k)) (plainValue code (B k)) (plainValue code (X k)))
    let m0 := f.mod.getLsbD 0
    let int (v : Nat) : Int := (BitVec.ofNat w v).toInt
    let fits (v : Int) : Nat := ((if m0 then max (-(2 ^ (w - 1))) (min (2 ^ (w - 1) - 1) v) else v) % 2 ^ w).toNat
    let wraps (v : Int) : Nat := (v % 2 ^ w).toNat
    let less (a b : Nat) : Bool := if m0 then a < b else int a < int b
    let float : Bool := isFloat code
    let kind := f.wx.toNat
    let holds (nan lt eq : Bool) : Bool :=
      match kind with
      | 0 => !nan && eq | 1 => nan || !eq | 2 => !nan && lt | 3 => !nan && (lt || eq) | 4 => !nan && !lt && !eq | _ => !nan && !lt
    (float = true →
      gives (.vadd f) 4 true false (fl fun a b _ => a.add b) ∧ gives (.vsub f) 4 true false (fl fun a b _ => a.sub b) ∧
      gives (.vmul f) 4 true false (fl fun a b _ => a.mul b) ∧ gives (.vfma f) 4 true true (fl fun a b x => (a.mul b).add x) ∧
      gives (.vfms f) 4 true true (fl fun a b x => (a.mul b).sub x) ∧ gives (.vmin f) 4 true false (fl fun a b _ => a.lesser b) ∧
      gives (.vmax f) 4 true false (fl fun a b _ => a.greater b) ∧ gives (.vabs f) 4 false false (fl fun a _ _ => a.abs) ∧
      gives (.vneg f) 4 false false (fl fun a _ _ => a.neg) ∧
      gives (.vcmp f) 2 true false fun k =>
        let p := plainValue code (A k)
        let q := plainValue code (B k)
        if holds (p.isNan || q.isNan) (p.less false q) (p.same q) then 2 ^ w - 1 else 0) ∧
    (float = false →
      gives (.vadd f) 2 true false (fun k => fits (int (A k) + int (B k))) ∧ gives (.vsub f) 2 true false (fun k => fits (int (A k) - int (B k))) ∧
      gives (.vmul f) 4 true false (fun k => fits (int (A k) * int (B k))) ∧
      gives (.vfma f) 4 true true (fun k => wraps (int (A k) * int (B k) + int (X k))) ∧
      gives (.vfms f) 4 true true (fun k => wraps (int (A k) * int (B k) - int (X k))) ∧
      gives (.vmin f) 2 true false (fun k => if less (B k) (A k) then B k else A k) ∧
      gives (.vmax f) 2 true false (fun k => if less (A k) (B k) then B k else A k) ∧
      gives (.vabs f) 2 false false (fun k => fits (if int (A k) < 0 then -int (A k) else int (A k))) ∧
      gives (.vneg f) 2 false false (fun k => fits (-int (A k))) ∧
      gives (.vcmp f) 2 true false fun k => if holds false (less (A k) (B k)) (A k == B k) then 2 ^ w - 1 else 0) ∧
    gives (.vand f) 2 true false (fun k => A k &&& B k) ∧ gives (.vor f) 2 true false (fun k => A k ||| B k) ∧
    gives (.vxor f) 2 true false (fun k => A k ^^^ B k) ∧ gives (.vshl f) 2 true false (fun k => A k * 2 ^ (B k % w) % 2 ^ w) ∧
    gives (.vshr f) 2 true false (fun k => if m0 then wraps (int (A k) / 2 ^ (B k % w)) else A k / 2 ^ (B k % w)) ∧
    gives (.vsel f) 2 true true (fun k => if X k ≠ 0 then A k else B k)

/-- R203, R209-R212, R222, R201: moves between the files, splats, conversions, widening and narrowing over register groups,
quantising, and permutes. Element `n` of a group of `k` registers lies in lane n / k of register n mod k. Log 40 says what the model chose here. -/
def Obligations.VectorConversions : Prop :=
  ∀ (s : State) (f : LV) (h : LVM),
    let e := s.issuer
    let fs := f.fs.toNat
    let fd := f.fd.toNat
    let ws := laneBits fs
    let wd := laneBits fd
    let d := idx8 f.wd.toNat
    let a := e.w[idx8 f.wa.toNat]
    let conv (v : Nat) : Nat := plainRound fd (plainValue fs v) % 2 ^ wd
    let x := e.val f.sx.toNat
    let imm := BitVec.ofInt 64 f.imm.val
    let wr (n : BitVec 3) : Dest := .w (idx8 n.toNat)
    let lu (n : Nat) (r : BitVec 3) : List (Fin 8) := if f.lu.getLsbD n then [idx8 r.toNat] else []
    let sx : Dest := e.destOf f.sx.toNat
    let n := if h.cnt = 0 then 1 else if h.cnt = 1 then 2 else 4
    let W (j : Nat) : Fin 8 := idx8 (h.wn.toNat + j)
    let V (j : Nat) : Fin 128 := idx128 (h.vn.toNat + j)
    let moves (i : Instr) (reads : List Dest) (ws : List Landing) : Prop := s.Issues reads ws → exec i s = .next (s.passed 2 h.stall.toNat ws)
    (h.wn.toNat % n = 0 → h.vn.toNat % n = 0 →
      moves (.vmovWv h) ((List.range n).map fun j => .v (V j)) ((List.range n).map fun j => ⟨.w (W j) (e.v.getD (V j).val 0), s.issueAt + 1⟩) ∧
      moves (.vmovVw h) ((List.range n).map fun j => .w (W j))
        ((if h.lu = 1 then (List.range n).map fun j => ⟨.w (W j) 0, s.issueAt⟩ else []) ++
          (List.range n).map fun j => ⟨.v (V j) e.w[W j], s.issueAt + 1⟩)) ∧
    (h.wn.toNat % n ≠ 0 → s.Ready [] → (∀ r, s.issuer.awaits r = false) →
      exec (.vmovWv h) s = .next (s.raised 0x0002 (opDetail 1 0x100 20 1) e.pc) ∧
      exec (.vmovVw h) s = .next (s.raised 0x0002 (opDetail 1 0x101 20 1) e.pc)) ∧
    (∃ v : VReg, s.yields f (.vsplat f) 2 [sx] [] [(d, v)] ∧
      if f.mod.getLsbD 0 then wd = 32 → ∀ k < 128, laneAt 32 v k = (x + BitVec.ofNat 64 k * imm).toNat % 2 ^ 32
      else ∀ k < 4096 / wd, laneAt wd v k = (x + imm).toNat % 2 ^ wd) ∧
    (isMx fs = false → ws = wd → ∃ v : VReg, s.yields f (.vcvt f) 4 [wr f.wa] (lu 0 f.wa) [(d, v)] ∧ ∀ k < 4096 / wd, laneAt wd v k = conv (laneAt ws a k)) ∧
    (isMx fs = true → ∃ v : VReg, s.yields f (.vcvt f) 4 [wr f.wa, wr f.wb, sx] (lu 0 f.wa ++ lu 1 f.wb) [(d, v)] ∧
      ∀ k < 128, laneAt 32 v k = (round32 (mxValue fs (laneAt (elemBits fs) a k) (laneAt 4 e.w[idx8 f.wb.toNat] (k / 32))
        (x.setWidth 8).toInt)).toNat) ∧
    (∀ k, 0 < k → wd = k * ws →
      (f.wd.toNat % k = 0 → ∃ v : Nat → VReg,
        s.yields f (.vwid f) 4 [wr f.wa] (lu 0 f.wa) ((List.range k).map fun j => (idx8 (f.wd.toNat + j), v j)) ∧
        ∀ j < k, ∀ l < 4096 / wd, laneAt wd (v j) l = conv (laneAt ws a (l * k + j))) ∧
      (f.wd.toNat % k ≠ 0 → s.Issues [wr f.wa] [] → exec (.vwid f) s = .next (s.raised 0x0002 (opDetail f.imm.len 0x119 20 1) e.pc))) ∧
    (∀ k, 0 < k → ws = k * wd →
      (f.wa.toNat % k = 0 → ∃ v : VReg,
        s.yields f (.vnar f) 4 ((List.range k).map fun j => .w (idx8 (f.wa.toNat + j)))
          (if f.lu.getLsbD 0 then (List.range k).map fun j => idx8 (f.wa.toNat + j) else []) [(d, v)] ∧
        ∀ m < 4096 / wd, laneAt wd v m = conv (laneAt ws e.w[idx8 (f.wa.toNat + m % k)] (m / k)))) ∧
    (7 ≤ fd → fd ≤ 10 → ∃ v : VReg, s.yields f (.vqmx f) 6 [wr f.wa, sx] (lu 0 f.wa) [(d, v)] ∧
      ∀ j < 4, let block := (List.range 32).map fun l => fmt32.value (laneAt 32 a (32 * j + l))
        let b := (x.setWidth 8).toInt
        let top := blockExponent block
        if f.mod.getLsbD 0 then
          laneAt 4 v j = if (block.any fun y => !y.isFin) then 15 else match top with | none => 0 | some t => (min (max (t - emax fd - b) 0) 14).toNat
        else ∀ l < 32, laneAt (elemBits fd) v (32 * j + l) =
          if (block.any fun y => !y.isFin) then 0 else match top with
            | none => 0
            | some t => mxRound fd ((fmt32.value (laneAt 32 a (32 * j + l))).scale (-(b + min (max (t - emax fd - b) 0) 14))) % 2 ^ elemBits fd) ∧
    (∃ v : VReg, s.yields f (.vperm f) 4 [wr f.wa, wr f.wb, wr f.wx] (lu 0 f.wa ++ lu 1 f.wb ++ lu 2 f.wx) [(d, v)] ∧
      ∀ k < 4096 / wd, let m := laneAt wd e.w[idx8 f.wb.toNat] k % (2 * (4096 / wd))
        laneAt wd v k = if m < 4096 / wd then laneAt wd a m else laneAt wd e.w[idx8 f.wx.toNat] (m - 4096 / wd))

/-- R213, R214, R142: reductions put their result in lane 0 and zero in the others. The ordered floating sum is the tree of pairs, an
ordered scan goes lane by lane; integer sums wrap; an unordered floating form is some association, of which nothing is said.
Log 9 says what the model chose here. -/
def Obligations.VectorReductions : Prop :=
  ∀ (s : State) (f : LV),
    let e := s.issuer
    let fs := f.fs.toNat
    let w := laneBits fs
    let n := 4096 / w
    let A := laneAt w e.w[idx8 f.wa.toNat]
    let d := idx8 f.wd.toNat
    let m0 := f.mod.getLsbD 0
    let free := f.mod.getLsbD 2
    let reads : List Dest := [.w (idx8 f.wa.toNat)]
    let drops := if f.lu.getLsbD 0 then [idx8 f.wa.toNat] else []
    let int (v : Nat) : Int := (BitVec.ofNat w v).toInt
    let read (v : Nat) : Int := if m0 then (v : Int) else int v
    let wide (k : Nat) : Word32 := round32 (plainValue fs (A k))
    let alone (w : Nat) (v : VReg) : Prop := v.toNat < 2 ^ w
    let best (op : FVal → FVal → FVal) : Nat :=
      ((List.range (n - 1)).map fun k => A (k + 1)).foldl (fun a b => plainRound fs (op (plainValue fs a) (plainValue fs b))) (A 0)
    (∃ v : VReg, s.yieldsFree 1 f (.vrsum f) (if free then 8 else 10) reads drops [(d, v)] ∧ alone 32 v ∧
      (isFloat fs = false → laneAt 32 v 0 = (((List.range n).foldl (fun (a : Int) k => a + int (A k)) 0) % 2 ^ 32).toNat) ∧
      (isFloat fs = true → free = false → ∀ y : Nat → Nat → Word32, (∀ k < n, y 0 k = wide k) →
        (∀ m k, y (m + 1) k = fadd32 (y m (2 * k)) (y m (2 * k + 1))) → laneAt 32 v 0 = (y (Nat.log2 n) 0).toNat)) ∧
    (∃ v : VReg, s.yields f (.vrmax f) 6 reads drops [(d, v)] ∧ alone w v ∧
      (isFloat fs = true → laneAt w v 0 = best FVal.greater % 2 ^ w) ∧
      (isFloat fs = false → ∃ j < n, laneAt w v 0 = A j ∧ ∀ k < n, read (A k) ≤ read (A j))) ∧
    (∃ v : VReg, s.yields f (.vrmin f) 6 reads drops [(d, v)] ∧ alone w v ∧
      (isFloat fs = true → laneAt w v 0 = best FVal.lesser % 2 ^ w) ∧
      (isFloat fs = false → ∃ j < n, laneAt w v 0 = A j ∧ ∀ k < n, read (A j) ≤ read (A k))) ∧
    (w = 32 → ∃ v : VReg, s.yieldsFree 128 f (.vscan f) (if free then 10 else 12) reads drops [(d, v)] ∧
      (isFloat fs = false ∨ free = false → laneAt 32 v 0 = A 0 ∧ ∀ k, k + 1 < 128 →
        laneAt 32 v (k + 1) =
          if isFloat fs then (fadd32 (BitVec.ofNat 32 (laneAt 32 v k)) (BitVec.ofNat 32 (A (k + 1)))).toNat
          else (laneAt 32 v k + A (k + 1)) % 2 ^ 32))

/-- R215, R216: each lane of a special function depends on its input bits and the format alone; NaN gives the canonical NaN, and
infinities, zeros and negative inputs give what R216 lists. -/
def Obligations.VectorSpecial : Prop :=
  ∃ fn : Nat → Nat → Nat → Nat,
    (∀ (s : State) (f : LV),
      let e := s.issuer
      let w := laneBits f.fd.toNat
      let is (i : Instr) (k : Nat) : Prop :=
        f.fd.toNat = 1 ∨ f.fd.toNat = 2 →
        ∃ v : VReg, s.yields f i 8 [.w (idx8 f.wa.toNat)] (if f.lu.getLsbD 0 then [idx8 f.wa.toNat] else []) [(idx8 f.wd.toNat, v)] ∧
          ∀ l < 4096 / w, laneAt w v l = fn k f.fd.toNat (laneAt w e.w[idx8 f.wa.toNat] l) % 2 ^ w
      is (.vexp2 f) 0 ∧ is (.vlog2 f) 1 ∧ is (.vrcp f) 2 ∧ is (.vrsqrt f) 3 ∧ is (.vsqrt f) 4 ∧ is (.vtanh f) 5 ∧ is (.vsigm f) 6 ∧
        is (.vsin f) 7) ∧
    ∀ (code x : Nat), (code = 1 ∧ x < 2 ^ 32) ∨ (code = 2 ∧ x < 2 ^ 16) →
      let fmt := if code = 1 then fmt32 else fmtBf
      let one := if code = 1 then 0x3F800000 else 0x3F80
      let half := if code = 1 then 0x3F000000 else 0x3F00
      let sign := if code = 1 then 2 ^ 31 else 2 ^ 15
      let inf := if code = 1 then 0x7F800000 else 0x7F80
      let nan := if code = 1 then 0x7FC00000 else 0x7FC0
      ((plainValue code x).isNan = true → ∀ k < 8, fn k code x = nan) ∧
      (x = sign + inf → fn 0 code x = 0 ∧ fn 1 code x = nan ∧ fn 2 code x = sign ∧ fn 3 code x = nan ∧ fn 4 code x = nan ∧
        fn 5 code x = sign + one ∧ fn 6 code x = 0 ∧ fn 7 code x = nan) ∧
      (x = inf → fn 0 code x = inf ∧ fn 1 code x = inf ∧ fn 2 code x = 0 ∧ fn 3 code x = 0 ∧ fn 4 code x = inf ∧ fn 5 code x = one ∧
        fn 6 code x = one ∧ fn 7 code x = nan) ∧
      (x = sign → fn 0 code x = one ∧ fn 1 code x = sign + inf ∧ fn 2 code x = sign + inf ∧ fn 3 code x = sign + inf ∧ fn 4 code x = sign ∧
        fn 5 code x = sign ∧ fn 6 code x = half ∧ fn 7 code x = sign) ∧
      (x = 0 → fn 0 code x = one ∧ fn 1 code x = sign + inf ∧ fn 2 code x = inf ∧ fn 3 code x = inf ∧ fn 4 code x = 0 ∧ fn 5 code x = 0 ∧
        fn 6 code x = half ∧ fn 7 code x = 0) ∧
      (sign < x → x < sign + inf → fn 1 code x = nan ∧ fn 3 code x = nan ∧ fn 4 code x = nan) ∧
      (x = one → fn 1 code x = 0 ∧ fn 2 code x = one ∧ fn 3 code x = one ∧ fn 4 code x = one) ∧
      fmt.nan = nan

/-- R217-R219, R80-R83: draws. A scalar pair at sx gives seed, stream and member; a lane's counter gives 128 bits, a Gaussian deviate or a
uniform value; `vdrop` zeroes or keeps lanes by the threshold in the fourth register of its group. A group that does not start
at a multiple of its size is illegal operand, reason 2 (R390). Logs 14 and 40 say what the model chose here. -/
def Obligations.VectorDraws : Prop :=
  ∀ (s : State) (f : LV),
    let e := s.issuer
    let x := f.sx.toNat
    let code := f.fd.toNat
    let w := laneBits code
    let m0 := f.mod.getLsbD 0
    let A := laneAt 32 e.w[idx8 f.wa.toNat]
    let B := laneAt w e.w[idx8 f.wb.toNat]
    let d := idx8 f.wd.toNat
    let group (k : Nat) : List Dest := (List.range k).map fun j => e.destOf (x + j)
    let wa : Dest := .w (idx8 f.wa.toNat)
    let dropA := if f.lu.getLsbD 0 then [idx8 f.wa.toNat] else []
    let ids := e.val (x + 1)
    let draw (n : Nat) : BitVec 128 := skein (e.val x) (ids.setWidth 16) ((ids >>> 16).setWidth 16) (BitVec.ofNat 32 n)
    let field (n : Nat) : Nat := (draw (n / 8)).toNat / 2 ^ (16 * (n % 8)) % 2 ^ 16
    let n0 := (e.val (x + 2)).toNat % 2 ^ 32
    let h := (e.val (x + 3)).toNat % 2 ^ 16
    let one := match code with | 1 => 0x3F800000 | 2 => 0x3F80 | 3 => 0x38 | 4 => 0x3C | _ => 1
    let keep : List Dest := if m0 then [] else [.w (idx8 f.wb.toNat)]
    let misled (i : Instr) (op : Nat) (reads : List Dest) : Prop :=
      s.Issues reads [] → exec i s = .next (s.raised 0x0002 (opDetail f.imm.len op 35 2) e.pc)
    (x % 2 = 0 →
      (∃ v : VReg, s.yields f (.vskein f) 6 (wa :: group 2) dropA [(d, v)] ∧
        ∀ j < 32, ∀ m < 4, laneAt 32 v (4 * j + m) = (draw (A j)).toNat / 2 ^ (32 * m) % 2 ^ 32) ∧
      (∃ v : VReg, s.yields f (.vgauss f) 8 (wa :: group 2) dropA [(d, v)] ∧
        ∀ k < 128, laneAt 32 v k = (round32 (.ofInt (gaussOf (draw (A k))) (-10))).toNat) ∧
      (∃ v : VReg, s.yields f (.vunif f) 6 (wa :: group 2) dropA [(d, v)] ∧
        ∀ k < 128, laneAt 32 v k = (round32 (.ofInt (field (A k)) (-16))).toNat)) ∧
    (x % 2 ≠ 0 → misled (.vskein f) 0x130 (wa :: group 2) ∧ misled (.vgauss f) 0x131 (wa :: group 2) ∧ misled (.vunif f) 0x132 (wa :: group 2)) ∧
    (x % 4 = 0 → code < 6 → ∃ v : VReg,
      s.yields f (.vdrop f) 6 (keep ++ group 4) (if m0 then [] else if f.lu.getLsbD 1 then [idx8 f.wb.toNat] else []) [(d, v)] ∧
      ∀ k < 4096 / w, laneAt w v k =
        let n := (n0 + k) % 2 ^ 32
        if field n < h then 0 else if m0 then one else B k) ∧
    (x % 4 ≠ 0 → misled (.vdrop f) 0x133 (keep ++ group 4))

/-- R220, R221, R223, R224, R116, R362: `vld` in the own aperture lands after six cycles, or seven when it converts from the bank's format;
`vst` there writes its bytes as it issues and nothing else; elsewhere both, and `vgath` and `vscat` everywhere, send their 128
element or page-cut pieces. A bank's format that cannot serve raises format mismatch (R388). Logs 8, 15 and 45 say what the model chose here. -/
def Obligations.VectorMemory : Prop :=
  ∀ (s : State) (f : LG) (pa : Nat) (pas : List (Nat × Nat)) (va' : Addr) (mf : MemFault),
    let e := s.issuer
    let words := f.imm.words
    let stall := f.stall.toNat
    let fmt := f.mod.toNat
    let va := e.ea f.a.toNat f.b.toNat f.imm.val
    let d := idx8 f.d.toNat
    let x := idx8 f.x.toNat
    let ab := [e.destOf f.a.toNat, e.destOf f.b.toNat]
    let ld := s.vmove s.cur e 0x138 fmt va
    let st := s.vmove s.cur e 0x139 fmt va
    let data := vstoreBytes st.conv fmt e.w[d]
    let own (m : VMove) : Prop :=
      m.bad = none ∧ va.toNat % vAlign m = 0 ∧ s.ownAperture s.cur va m.bytes = some pa ∧ s.Unheld pathV f.cls.toNat [(pa, m.bytes)]
    let size := laneBits fmt / 8
    let eas := (List.range 128).map fun k =>
      (va + BitVec.ofInt 80 (BitVec.ofNat 32 (laneAt 32 e.w[x] k)).toInt * BitVec.ofNat 80 size, size)
    let gath : AccSpec := { path := pathV, cls := f.cls.toNat, vas := eas, need := rRead, align := size, op := .gather fmt d, dst := .w d }
    let scat : AccSpec :=
      { path := pathV, cls := f.cls.toNat, vas := eas, need := rWrite, kind := 1, align := size,
        op := .scatter ((List.range 128).map fun k => bytesOf size (laneAt (8 * size) e.w[d] k)) }
    let far : AccSpec :=
      { path := pathV, cls := f.cls.toNat, vas := cutPages va 2 ld.bytes, need := rRead, align := vAlign ld, op := .vload fmt ld.conv d, dst := .w d }
    let farSt : AccSpec :=
      { path := pathV, cls := f.cls.toNat, vas := cutPages va 2 st.bytes, need := rWrite, align := vAlign st, op := .vstore data }
    (fmt = 0 → ld = ⟨0, 512, none⟩ ∧ st = ⟨0, 512, none⟩) ∧
    (own ld → s.poisoned pa ld.bytes = false → ∃ v : VReg,
      let ws : List Landing := [⟨.w d v, s.issueAt + (if ld.conv = 0 then 6 else 7) - 1⟩]
      (s.Issues ab ws → exec (.vld f) s = .next (s.passed words stall ws)) ∧
      (ld.conv = 0 → v = BitVec.ofNat 4096 (natOf (s.view (.eng s.cur) pa ld.bytes))) ∧
      (ld.conv ≠ 0 → ∀ k < 4096 / laneBits fmt, laneAt (laneBits fmt) v k =
        plainRound fmt (plainValue ld.conv (elemAt (elemBits ld.conv) (s.view (.eng s.cur) pa ld.bytes) k)) % 2 ^ laneBits fmt)) ∧
    (own st → s.Unshadowed [(pa, st.bytes)] → s.Issues (ab ++ [.w d]) [] → ∃ t, exec (.vst f) s = .next t ∧
      (∀ y, byteAt t.mem y = if pa ≤ y ∧ y < pa + data.length then data.getD (y - pa) 0 else byteAt s.mem y) ∧
      t = { s with engines := t.engines, mem := t.mem, poison := t.poison, written := t.written, owns := t.owns, fresh := t.fresh } ∧ s.sameOthers t ∧
      e.sameRegs (t.eng s.cur) ∧ (t.eng s.cur).pend = e.pend ∧
      ∃ more, (pathV, f.cls.toNat, s.issueAt + (st.bytes + 255) / 256 + more) ∈ (t.eng s.cur).stores ∧
        (s.banksShared [(pa, st.bytes)] = false → more = 0 ∧ t.fresh = s.fresh)) ∧
    (ld.bad = none → isLocal va = false → s.Sends (.vld f) words stall ab far pas ∧ s.Misses (.vld f) ab far va' mf) ∧
    (st.bad = none → isLocal va = false → s.Sends (.vst f) words stall (ab ++ [.w d]) farSt pas ∧ s.Misses (.vst f) (ab ++ [.w d]) farSt va' mf) ∧
    (0 < size → s.Sends (.vgath f) words stall (ab ++ [.w x]) gath pas ∧ s.Misses (.vgath f) (ab ++ [.w x]) gath va' mf ∧
      s.Sends (.vscat f) words stall (ab ++ [.w x, .w d]) scat pas ∧ s.Misses (.vscat f) (ab ++ [.w x, .w d]) scat va' mf) ∧
    (∀ c, isLocal va = false → s.Issues ab [] → ld.bad = some c → exec (.vld f) s = .next (s.raised c.1 c.2 e.pc)) ∧
    (∀ c, s.Issues (ab ++ [.w d]) [] → st.bad = some c → exec (.vst f) s = .next (s.raised c.1 c.2 e.pc))

/-- The frame of the vector instructions of registers alone: whatever way one goes on, no state outside the engines changes but a
fault noted and the counter of free values, no other engine changes, and its own goes on with its registers as they were (its
results are on their way), or waits a cycle, or takes an exception. -/
def Obligations.VectorFrame : Prop :=
  ∀ (s t : State) (f : LV) (h : LVM),
    ∀ i ∈ ([.vmovWv h, .vmovVw h, .vadd f, .vsub f, .vmul f, .vfma f, .vfms f, .vmin f, .vmax f, .vabs f, .vneg f, .vand f, .vor f, .vxor f,
        .vshl f, .vshr f, .vsel f, .vcmp f, .vcvt f, .vwid f, .vnar f, .vqmx f, .vsplat f, .vrmax f, .vrmin f, .vexp2 f, .vlog2 f] ++
      [.vrcp f, .vrsqrt f, .vsqrt f, .vtanh f, .vsigm f, .vsin f, .vskein f, .vgauss f, .vunif f, .vdrop f, .vperm f, .vrsum f, .vscan f]
        : List Instr),
      exec i s = .next t →
      let s' := { s with fresh := t.fresh }
      (t.fresh = s.fresh ∨ (i = .vrsum f ∧ t.fresh = s.fresh + 1) ∨ (i = .vscan f ∧ t.fresh = s.fresh + 128)) ∧
      s'.sameBut t ∧ s.sameOthers t ∧
      ((t.faults = s.faults ∧ s.issuer.sameRegs (t.eng s.cur)) ∨ t = s'.held ∨ ∃ cause detail, t = s'.raised cause detail s.issuer.pc)

/-! ## Matrix instructions -/

/-- R228, R229, R39, R242: `tld` reads 64 rows and the deltas of its format from the own scratchpad for a tile, which fills once it is
empty; it blocks while the tile is full. `tst` writes a full tile back, row by row and the deltas after them, and empties it unless
`.k` keeps it; it blocks while the tile is empty. A fill reaches an empty tile, the lowest engine's first, from the end of the cycle
on that emptied it; a full one keeps it out. Logs 15 and 45 say what the model chose here. -/
def Obligations.TileMoves : Prop :=
  ∀ (s : State) (f : LG) (pa : Nat → Nat) (pd cl tile : Nat) (x : Fill),
    let e := s.issuer
    let c := s.issueAt
    let n := f.d.toNat % 16
    let own := s.tile s.cur n
    let va := e.ea f.a.toNat f.b.toNat f.imm.val
    let reads := [e.destOf f.a.toNat, e.destOf f.b.toNat, e.destOf f.x.toNat]
    let pitch (row : Nat) : Nat := if f.x = 63 then row else (e.val f.x.toNat).toNat
    let at_ (va : Addr) (len p : Nat) : Prop := s.ownScratch s.cur va len = some p
    let bank (fmt p len : Nat) : Prop := ∀ b ∈ s.banksAt p len, b.2 = 0 ∨ b.2 = fmt
    let placed (fmt : Nat) : Prop :=
      va.toNat % 64 = 0 ∧ pitch (rowBytes fmt) % 64 = 0 ∧ (isMx fmt = true → f.x = 63) ∧
      (∀ r < 64, at_ (va + BitVec.ofNat 80 (r * pitch (rowBytes fmt))) (rowBytes fmt) (pa r) ∧ bank fmt (pa r) (rowBytes fmt)) ∧
      (0 < deltaBytes fmt → at_ (va + BitVec.ofNat 80 (64 * rowBytes fmt)) (deltaBytes fmt) pd ∧ bank fmt pd (deltaBytes fmt))
    let fmt := f.mod.toNat
    let tag := own.tag.toNat
    let row := rowBytes tag
    let apart (a n b m : Nat) : Prop := a + n ≤ b ∨ b + m ≤ a
    let parts := (List.range 64).map (fun r => (pa r, row)) ++ (if deltaBytes tag = 0 then [] else [(pd, deltaBytes tag)])
    (s.Issues reads [] → placed fmt →
      (own.full = true → exec (.tld f) s = .next (s.setEng s.cur { s.eng s.cur with status := .blocked (.tile n false) c })) ∧
      (own.full = false → s.acquiring e = false → (∀ r < 64, s.poisoned (pa r) (rowBytes fmt) = false) →
        (0 < deltaBytes fmt → s.poisoned pd (deltaBytes fmt) = false) →
        ∃ (t : State) (y : Fill), exec (.tld f) s = .next t ∧ t = { s with engines := t.engines, clusters := t.clusters, fresh := t.fresh, nextId := t.nextId } ∧
          s.sameOthers t ∧ t.eng s.cur = e.advance c f.imm.words f.stall.toNat ∧
          t.cluster s.cur.cl = { s.cluster s.cur.cl with fills := (s.cluster s.cur.cl).fills ++ [y] } ∧
          y.tile = n ∧ y.by_ = s.cur ∧ y.xfer = none ∧ s.ptick < y.ready ∧ y.data.tag = f.mod ∧
          y.data.elems = (List.range 64).flatMap (fun r => s.view (.eng s.cur) (pa r) (rowBytes fmt)) ∧
          y.data.deltas = if deltaBytes fmt = 0 then [] else s.view (.eng s.cur) pd (deltaBytes fmt))) ∧
    (s.Issues reads [] → pitch (rowBytes fmt) % 64 ≠ 0 → exec (.tld f) s = .next (s.raised 0x0002 (opDetail f.imm.len 0x200 38 4) e.pc)) ∧
    (s.Issues reads [] →
      (own.full = false → exec (.tst f) s = .next (s.setEng s.cur { s.eng s.cur with status := .blocked (.tile n true) c })) ∧
      (own.full = true → placed tag → s.acquiring e = false → s.Unshadowed parts → own.elems.length = 64 * row → own.deltas.length = deltaBytes tag →
        (∀ i (hi : i < parts.length) j (hj : j < parts.length), i ≠ j → apart parts[i].1 parts[i].2 parts[j].1 parts[j].2) →
        ∃ t, exec (.tst f) s = .next t ∧
          t = { s with engines := t.engines, clusters := t.clusters, mem := t.mem, poison := t.poison, written := t.written, fresh := t.fresh } ∧ s.sameOthers t ∧ e.sameRegs (t.eng s.cur) ∧ (t.eng s.cur).pend = e.pend ∧
          (∀ r < 64, t.bytes (pa r) row = (own.elems.drop (r * row)).take row) ∧ (0 < deltaBytes tag → t.bytes pd (deltaBytes tag) = own.deltas) ∧
          (∀ y, (∀ p ∈ parts, y < p.1 ∨ p.1 + p.2 ≤ y) → byteAt t.mem y = byteAt s.mem y) ∧
          t.cluster s.cur.cl = { s.cluster s.cur.cl with tiles := (t.cluster s.cur.cl).tiles } ∧
          ∀ m : Fin 16, (t.cluster s.cur.cl).tiles[m] =
            if m.val = n ∧ f.mod.getLsbD 0 = false then { own with full := false, emptied := (s.dom s.cur.cl).tickOf (c + 1), given := none }
            else (s.cluster s.cur.cl).tiles[m])) ∧
    (let k := s.cluster cl
     tile < 16 → x ∈ k.fills → x.by_.cl = cl → x.tile = tile → x.ready ≤ s.ptick → s.fillFree x = true →
      (∀ y ∈ k.fills, y.tile = tile → y.ready ≤ s.ptick → s.fillFree y = true →
        y = x ∨ x.by_.key < y.by_.key ∨ (x.by_.key = y.by_.key ∧ x.id < y.id)) →
      (k.tiles[idx16 tile].full = true → exec (.tileFill cl tile) s = .next s) ∧
      (s.ptick < k.tiles[idx16 tile].emptied → exec (.tileFill cl tile) s = .next s) ∧
      (k.tiles[idx16 tile].full = false → k.tiles[idx16 tile].emptied ≤ s.ptick → s.givenTo cl tile = none →
        (∀ id ∈ s.tileWriters cl tile, x.by_.key ≤ id.key) → exec (.tileFill cl tile) s = .next (s.setCluster cl
        { k with
          tiles := k.tiles.set (idx16 tile) { x.data with full := true, since := s.ptick }
          fills := k.fills.filter fun y => y.id != x.id })))

/-- R230-R236, R84-R86, R241: the multiplies. Element (i, j) of the accumulator takes, chunk of sixteen by chunk, the sums of the exact
products of the rows of A and B each form names; the engine issues again after eight cycles, the sums land after twenty, and
the tiles it reads empty unless they are kept. An empty tile blocks it; under `.bc` it is held for its group. Log 45 says what the model chose here. -/
def Obligations.MultiplyResults : Prop :=
  ∀ (s : State) (f : LM) (pa : Nat → Nat),
    let e := s.issuer
    let c := s.issueAt
    let a := s.tile s.cur f.ta.toNat
    let b := s.tile s.cur f.tb.toNat
    let fa := f.fa.toNat
    let fb := f.fb.toNat
    let K := tileK fa
    let z := idx8 f.zd.toNat
    let base (code : BitVec 5) : Int := ((e.val code.toNat).setWidth 8).toInt
    let dec (t : Tile) (fmt : Nat) (b : Int) (i k : Nat) : FVal :=
      let n := i * tileK fmt + k
      if isMx fmt then mxValue fmt (elemAt (elemBits fmt) t.elems n) (elemAt 4 t.deltas (n / 32)) b
      else plainValue fmt (elemAt (elemBits fmt) t.elems n)
    let sx := f.sx.toNat
    let v := e.val sx
    let h := if f.mod.getLsbD 2 then 64 else 0
    let ctr (j k : Nat) : Nat := ((e.val (sx + 2)).toNat % 2 ^ 32 + j * ((e.val (sx + 3)).toNat % 2 ^ 32) + k) % 2 ^ 32
    let ids := e.val (sx + 1)
    let dev (j k : Nat) : Int := gaussOf (skein (e.val sx) (ids.setWidth 16) ((ids >>> 16).setWidth 16) (BitVec.ofNat 32 (ctr j k)))
    let weight (j k : Nat) : FVal :=
      if fb = 0xB then plainValue 2 (perturb 0xB (elemAt 24 b.elems (j * 64 + k)) (dev j k))
      else plainValue 3 (perturb 0xC (elemAt 16 b.elems (j * 128 + k)) (dev j k))
    let idx (r : Nat) : Nat := bytesFld a.elems (2 * r) 2
    let pitch := if v.toNat / 2 ^ 32 % 2 ^ 16 = 0 then 128 else v.toNat / 2 ^ 32 % 2 ^ 16
    let signed8 (lo : Nat) : Int := (v.extractLsb' lo 8).toInt
    let tw : Nat := v.toNat / 2 ^ 40 % 256
    let hw : Nat := v.toNat / 2 ^ 32 % 256
    let gOff (r : Nat) : Int := (v.toNat % 2 ^ 28 + idx r * pitch : Nat)
    let wOff (r : Nat) : Int := (v.toNat % 2 ^ 28 : Nat) + (((r / tw : Nat) + signed8 56) * (hw : Int) + (r % tw : Nat) + signed8 48) * 128
    let reached (off : Int) (r : Nat) : Prop :=
      0 ≤ off ∧ off < 2 ^ 28 ∧ s.ownScratch s.cur (localVa off.toNat) 128 = some (pa r) ∧ s.poisoned (pa r) 128 = false ∧
        ∀ x ∈ s.banksAt (pa r) 128, x.2 = 0 ∨ x.2 = fa
    let mem (r k : Nat) : FVal := plainValue fa (elemAt (elemBits fa) (s.view (.eng s.cur) (pa r) 128) k)
    let sum (n : Nat) (p : Nat → FVal) (old : AccElem) : AccElem :=
      (List.range (n / 16)).foldl (fun q m => q.update (chunkSum ((List.range 16).map fun u => p (16 * m + u)))) old
    let reads (l : List (BitVec 5)) : List Dest := l.map fun r => e.destOf r.toNat
    let quad : List Dest := (List.range 4).map fun j => e.destOf (sx + j)
    let mxA := if isMx fa then [f.sba] else []
    let mxB := if isMx fb then [f.sbb] else []
    let empties (useA : Bool) (n : Fin 16) : Prop :=
      (useA = true ∧ f.mod.getLsbD 0 = false ∧ n.val = f.ta.toNat) ∨ (f.mod.getLsbD 1 = false ∧ n.val = f.tb.toNat)
    let does (i : Instr) (useA : Bool) (rs : List Dest) (n : Nat) (p : Nat → Nat → Nat → FVal) : Prop :=
      s.Issues rs [] → f.mod.getLsbD 3 = false → (useA = true → a.full = true) → b.full = true → s.acquiring e = false →
      ∃ t, exec i s = .next t ∧ t = { s with engines := t.engines, clusters := t.clusters } ∧ s.sameOthers t ∧
        let u := t.eng s.cur
        (∀ i < 64, ∀ j < 64, u.z[z].getD (64 * i + j) ⟨0, 0⟩ = sum n (p i j) (e.z[z].getD (64 * i + j) ⟨0, 0⟩)) ∧
        (∀ m : Fin 8, m ≠ z → u.z[m] = e.z[m]) ∧ u.zLand[z] = c + 20 ∧ u.nextIssue = c + 8 + f.stall.toNat ∧ u.pend = e.pend ∧
        u.glob = e.glob ∧ u.win = e.win ∧ u.a = e.a ∧ u.c = e.c ∧ u.w = e.w ∧ u.v = e.v ∧
        (∀ m : Fin 16,
          (empties useA m → (t.cluster s.cur.cl).tiles[m] =
            { (s.cluster s.cur.cl).tiles[m] with full := false, emptied := (s.dom s.cur.cl).tickOf (c + 1), given := none }) ∧
          (¬ empties useA m → (t.cluster s.cur.cl).tiles[m] = (s.cluster s.cur.cl).tiles[m])) ∧
        t.cluster s.cur.cl = { s.cluster s.cur.cl with tiles := (t.cluster s.cur.cl).tiles }
    let tags : Prop := a.tag = f.fa ∧ b.tag = f.fb
    let waits (i : Instr) (useA : Bool) (rs : List Dest) : Prop := s.Issues rs [] → f.mod.getLsbD 3 = false →
      (useA = true → a.full = false → exec i s = .next (s.setEng s.cur { s.eng s.cur with status := .blocked (.tile f.ta.toNat true) c })) ∧
      ((useA = true → a.full = true) → b.full = false → exec i s = .next (s.setEng s.cur { s.eng s.cur with status := .blocked (.tile f.tb.toNat true) c }))
    let grouped (i : Instr) (rs : List Dest) : Prop := s.Issues rs [] → f.mod.getLsbD 3 = true → f.mod.getLsbD (4 + s.cur.index) = true → s.cur.index < 4 →
      s.acquiring e = false →
      exec i s = .next (s.setEng s.cur { s.eng s.cur with
        status := .blocked .group c, bc := some ⟨e.bcCount, f.mod.extractLsb' 4 4, f.fb, c, none⟩ })
    let allOf (i : Instr) (useA : Bool) (rs : List Dest) (ok more : Prop) (n : Nat) (p : Nat → Nat → Nat → FVal) : Prop :=
      ok → (more → does i useA rs n p) ∧ waits i useA rs ∧ grouped i rs
    let plain : Prop := K ≠ 0 ∧ tileK fb = K
    let g (i j : Nat) : FVal := dec b 2 0 i j
    let grad : Prop := fb = 2 ∧ (fa = 2 ∨ fa = 3) ∧ ¬ (f.mod.getLsbD 2 = true ∧ fa = 2)
    allOf (.mma f) true (reads (mxA ++ mxB)) plain tags K (fun i j k => (dec a fa (base f.sba) i k).mul (dec b fb (base f.sbb) j k)) ∧
    allOf (.mmp f) true (reads mxA ++ quad) (sx % 4 = 0 ∧ ((fa = 2 ∧ fb = 0xB) ∨ (K = 128 ∧ fb = 0xC))) tags K
      (fun i j k => (dec a fa (base f.sba) i k).mul (weight j k)) ∧
    allOf (.mmg f) true (reads (mxB ++ [f.sx])) (plain ∧ isMx fa = false ∧ pitch % 64 = 0)
      (b.tag = f.fb ∧ ∀ r < 64, idx r ≠ 0xFFFF → reached (gOff r) r) K
      (fun i j k => (if idx i = 0xFFFF then .fin false 0 0 else mem i k).mul (dec b fb (base f.sbb) j k)) ∧
    allOf (.mmw f) false (reads (mxB ++ [f.sx])) (plain ∧ isMx fa = false ∧ tw ≠ 0 ∧ hw ≠ 0) (b.tag = f.fb ∧ ∀ r < 64, reached (wOff r) r) K
      (fun i j k => (mem i k).mul (dec b fb (base f.sbb) j k)) ∧
    allOf (.mmdm f) true [] grad tags 64 (fun j k i => (g i j).mul (dec a fa 0 i (h + k))) ∧
    allOf (.mmdq f) true quad (grad ∧ sx % 4 = 0) tags 64 (fun j k i => ((g i j).mul (dec a fa 0 i (h + k))).mul (.ofInt (dev j (h + k)) (-10)))

/-- R237, R238, R226, R241: the n-th `.bc` instructions of a mask's engines, all held there with equal masks and formats, start in one
cycle once every tile they read is full: the tile of the lowest engine is on the bus for each. Until then nothing of them changes.

Each then runs in its turn, with the bus's tile for B: it goes on eight cycles later with its count one higher, its accumulator to
land after twenty. Log 45 says what the model chose here. -/
def Obligations.BroadcastStarts : Prop :=
  (∀ (s : State) (cl n c : Nat) (mask fb : BitVec 4) (at_ : EngId → MForm × LM) (held : EngId → Nat) (src : EngId),
    let id (i : Nat) : EngId := ⟨cl / 16, cl % 16, i⟩
    let member (i : Nat) : Prop := i < 4 ∧ mask.getLsbD i = true
    (∀ i, member i → s.heldBc (id i) = some ⟨n, mask, fb, held (id i), none⟩ ∧ s.multiplyAt (id i) = some (at_ (id i)) ∧ held (id i) < c) →
    (∀ i < 4, ∀ x, s.heldBc (id i) = some x → x.n = n → x.mask &&& mask ≠ 0 → member i) →
    (∃ i, member i ∧ src = id i ∧ ∀ j, member j → i ≤ j) →
    (∀ i, member i → (s.bcFault (id i) c (s.tile src (at_ src).2.tb.toNat)) = none) →
    let tb := s.tile src (at_ src).2.tb.toNat
    let full : Prop := tb.full = true ∧ ∀ i, member i → (at_ (id i)).1.readsA = true → (s.tile (id i) (at_ (id i)).2.ta.toNat).full = true
    let ofTile (t : Tile) : Nat := (s.dom cl).cycleOf t.since + 1
    let latest : Prop := ofTile tb ≤ c ∧ s.cycleNow cl ≤ c ∧
      (∀ i, member i → (at_ (id i)).1.readsA = true → ofTile (s.tile (id i) (at_ (id i)).2.ta.toNat) ≤ c) ∧
      (c = ofTile tb ∨ c = s.cycleNow cl ∨ ∃ i, member i ∧ (c = held (id i) + 1 ∨
        ((at_ (id i)).1.readsA = true ∧ c = ofTile (s.tile (id i) (at_ (id i)).2.ta.toNat))))
    latest →
      (¬ full → exec (.broadcastGroupStart cl mask) s = .next s) ∧
      (full → (s.dom cl).tickOf c ≤ s.ptick → s.lowestNow src = true →
        ∃ t, exec (.broadcastGroupStart cl mask) s = .next t ∧ t = { s with engines := t.engines } ∧
          (∀ i, member i → t.eng (id i) = { s.eng (id i) with bc := some ⟨n, mask, fb, held (id i), some ⟨c, tb⟩⟩ }) ∧
          ∀ id', (∀ i, member i → id'.key ≠ (id i).key) → t.eng id' = s.eng id')) ∧
  (∀ (s : State) (cl i : Nat) (mask : BitVec 4) (h : BcHold) (b : Bus) (m : MForm) (f : LM),
    let id (i : Nat) : EngId := ⟨cl / 16, cl % 16, i⟩
    let c := if m.readsA then max b.cycle ((s.dom cl).cycleOf (s.tile (id i) f.ta.toNat).since + 1) else b.cycle
    let r := s.mread (id i) (s.engineAt (id i) c) m f b.tile
    i < 4 → mask.getLsbD i = true → (∀ j < i, mask.getLsbD j = true → s.heldBc (id j) = none) →
    s.heldBc (id i) = some h → h.mask = mask → h.bus = some b → s.multiplyAt (id i) = some (m, f) →
    (m.readsA = true → (s.tile (id i) f.ta.toNat).full = true) → s.lowestNow (id i) = true → (s.dom cl).tickOf c ≤ s.ptick →
    s.bcFault (id i) c b.tile = none → s.mrowFault (id i) r = none → s.mpoison (id i) r = false →
    ∃ t, exec (.broadcastGroupStart cl mask) s = .next t ∧ (∀ id', id'.key ≠ (id i).key → t.eng id' = s.eng id') ∧
      let u := t.eng (id i)
      u.status = .running ∧ u.bc = none ∧ u.bcCount = (s.eng (id i)).bcCount + 1 ∧ u.nextIssue = c + 8 + f.stall.toNat ∧
        u.zLand[idx8 f.zd.toNat] = c + 20)

/-- R239, R240, R87: `zclr` zeroes an accumulator, `zout` writes each of its elements, rounded once to its format, to the own scratchpad,
`zsave` and `zload` move its pairs to and from a save slot bit for bit. Each waits until the accumulator's earlier updates have
landed. A slot beyond the last is illegal operand (R244). Logs 40 and 45 say what the model chose here. -/
def Obligations.AccumulatorResults : Prop :=
  ∀ (s : State) (f : LG) (pa : Nat → Nat),
    let e := s.issuer
    let c := s.issueAt
    let i := idx8 f.d.toNat
    let words := f.imm.words
    let stall := f.stall.toNat
    let slot := f.imm.bits % 4096
    let k := s.cluster s.cur.cl
    let slots := 2 * (k.partw.toNat / 2 ^ 24 % 256 - 16)
    let fmt := f.mod.toNat % 4 + 1
    let row := 64 * (elemBits fmt / 8)
    let va := e.ea f.a.toNat f.b.toNat f.imm.val
    let pitch := if f.x = 63 then row else (e.val f.x.toNat).toNat
    let reads := [e.destOf f.a.toNat, e.destOf f.b.toNat, e.destOf f.x.toNat]
    let zs := e.z[i]
    let elem (r j : Nat) : AccElem := zs.getD (64 * r + j) ⟨0, 0⟩
    let form := if fmt = 1 then fmt32 else if fmt = 2 then fmtBf else if fmt = 3 then fmtE4 else fmtE5
    let value (r j : Nat) : Nat := form.round ((val32 (elem r j).s).add (val32 (elem r j).e))
    let mine (x : SaveLayer) : Prop := x.eng = s.cur ∨ ∃ n, x.retired = some n ∧ n < e.hdrStamp
    let last (x : SaveLayer) : Prop := ∃ before after, k.saves = before ++ [x] ++ after ∧ x.slot = slot ∧ ∀ y ∈ after, y.slot ≠ slot
    s.cur.kind.isSome = true → s.fenced (s.eng s.cur) = false →
    (c < e.zLand[i] → ∀ op ∈ ([.zclr f, .zout f, .zsave f, .zload f] : List Instr), exec op s = .next s.held) ∧
    (e.zLand[i] ≤ c →
      (s.Issues [] [] → exec (.zclr f) s = .next (s.setEng s.cur
        ({ e with z := e.z.set i [], zLand := e.zLand.set i (c + 1) }.advance c words stall))) ∧
      (s.Issues reads [] → pitch % 64 = 0 → va.toNat % 64 = 0 → s.acquiring e = false →
        (∀ r < 64, s.ownScratch s.cur (va + BitVec.ofNat 80 (r * pitch)) row = some (pa r) ∧ ∀ b ∈ s.banksAt (pa r) row, b.2 = 0 ∨ b.2 = fmt) →
        (∀ r < 64, ∀ q < 64, r ≠ q → pa r + row ≤ pa q ∨ pa q + row ≤ pa r) →
        s.Unshadowed ((List.range 64).map fun r => (pa r, row)) →
        ∃ t, exec (.zout f) s = .next t ∧ t = { s with engines := t.engines, mem := t.mem, poison := t.poison, written := t.written, fresh := t.fresh } ∧
          s.sameOthers t ∧
          (∀ r < 64, ∀ j < 64, natOf (t.bytes (pa r + j * (elemBits fmt / 8)) (elemBits fmt / 8)) = value r j % 2 ^ elemBits fmt) ∧
          (∀ y, (∀ r < 64, y < pa r ∨ pa r + row ≤ y) → byteAt t.mem y = byteAt s.mem y) ∧
          (∀ m : Fin 8, (t.eng s.cur).z[m] = if m = i ∧ f.mod.getLsbD 2 = true then [] else e.z[m]) ∧
          (t.eng s.cur).glob = e.glob ∧ (t.eng s.cur).win = e.win ∧ (t.eng s.cur).a = e.a ∧ (t.eng s.cur).w = e.w ∧ (t.eng s.cur).v = e.v) ∧
      (s.Issues [] [] → slot < slots →
        (∃ t, exec (.zsave f) s = .next t ∧ t = { s with engines := t.engines, clusters := t.clusters, poison := t.poison, written := t.written } ∧ s.sameOthers t ∧
          t.eng s.cur = e.advance c words stall ∧
          t.cluster s.cur.cl = { k with saves := k.saves ++ [⟨slot, s.cur, e.secNum, none, zs⟩] }) ∧
        (s.poisoned (s.savePa s.cur slot) 0x8000 = false → ∃ t, exec (.zload f) s = .next t ∧
          t = { s with engines := t.engines, fresh := t.fresh } ∧ s.sameOthers t ∧ (∀ m : Fin 8, m ≠ i → (t.eng s.cur).z[m] = e.z[m]) ∧
          (∀ x, last x → mine x → (t.eng s.cur).z[i] = x.elems) ∧
          ((∀ x ∈ k.saves, x.slot ≠ slot) → (t.eng s.cur).z[i] = []))) ∧
      (s.Issues [] [] → slots ≤ slot → exec (.zsave f) s = .next (s.raised 0x0002 (opDetail f.imm.len 0x212 52 4) e.pc) ∧
        exec (.zload f) s = .next (s.raised 0x0002 (opDetail f.imm.len 0x213 52 4) e.pc)))

/-- R257, R55, R226: a follow-on handed to a matrix engine issues ahead of its stream once the tiles it reads are full and its turn
comes, with the engine's own registers, and the stream goes on eight cycles later. A matrix engine at its notify steals the first group its sibling
has not begun, with the sibling's registers and what is on its way to them, once no result that has no fixed latency is outstanding;
the sibling passes over it. Logs 19 and 47 say what the model chose here. -/
def Obligations.FollowAndSteal : Prop :=
  ∀ (s : State) (id owner : EngId) (h : Follow) (rest : List Follow) (m : MForm) (f : LM) (i : Instr) (g : Group) (gs : List Group),
    let e := s.eng id
    let c := max (max e.mtxUntil ((s.dom id.cl).cycleFrom h.handed)) (s.cycleNow id.cl)
    let o := s.engineAt owner (s.eng owner).nextIssue
    let x := (e.settle c).own
    let r := s.mread id x m f (s.tile id f.tb.toNat)
    let y := e.settle e.nextIssue
    (e.follow = h :: rest → e.status = .running → decodeFor .me [h.word.extractLsb' 0 32, h.word.extractLsb' 32 32] = .ok i →
      multiplyOf i = some (m, f) → e.awaits ((m.regs f).map e.own.destOf) = false → (s.dom id.cl).tickOf c ≤ s.ptick → s.lowestNow id = true →
      ((m.readsA = true → (s.tile id f.ta.toNat).full = true) ∧ (s.tile id f.tb.toNat).full = true →
        firstFault (m.operandFaults f x id.index ++ s.mfmtFaults id m f r ++
          [(e.settle c).scoreboard c ((m.regs f).map x.destOf) []]) = none → s.mrowFault id r = none → s.mpoison id r = false →
        ∃ t, exec (.followOnIssue id) s = .next t ∧ (t.eng id).follow = rest ∧ (t.eng id).status = .running ∧ (t.eng id).pc = e.pc ∧
          (t.eng id).nextIssue = max e.nextIssue (c + 8) ∧ (t.eng id).zLand[idx8 f.zd.toNat] = c + 20 ∧
          (∀ q : Fin 8, q ≠ idx8 f.zd.toNat → (t.eng id).z[q] = (e.settle c).z[q]) ∧
          ∀ id', id'.key ≠ id.key → t.eng id' = s.eng id') ∧
      ((s.tile id f.tb.toNat).full = false → exec (.followOnIssue id) s = .next s)) ∧
    (id.key ≠ owner.key → s.engineDue id y = true → y.lend = none → (∃ x, s.found id .me y = .inst (.notify x)) → s.victim id = some owner →
      o.status = .running → o.groupsLeft = g :: gs → o.pc = g.first → y.pend = [] → y.inter = [] → o.inter = [] →
      ∃ t, exec (.stealRelocatableGroup id owner) s = .next t ∧ t = { s with engines := t.engines } ∧
        (t.eng owner).pc = g.past ∧ (∀ x ∈ (t.eng owner).groups, x.first = g.first → x.taken = true) ∧
        let u := t.eng id
        u.pc = g.first ∧ u.glob = o.glob ∧ u.win = o.win ∧ u.a = o.a ∧ u.c = o.c ∧ u.lc = o.lc ∧ u.depth = o.depth ∧ u.codeVa = o.codeVa ∧
          u.pend = o.pend.map (fun p => { p with land := e.nextIssue + (p.land - o.nextIssue) }) ∧
          u.lend = some ⟨owner, g.past, e.pc, e.codeVa, e.secStart, e.secEnd, ⟨y.glob, y.win, y.a, y.c, y.lc, y.depth, y.resident, e.pc, 0⟩⟩ ∧
          ∀ id', id'.key ≠ id.key → id'.key ≠ owner.key → t.eng id' = s.eng id')

/-! ## Transfers -/

/-- R245-R247, R250, R254, R257-R259, R274: a transfer instruction queues a transfer with the next ID of its channel, which it answers;
with the channel full or walking a chain it blocks. A copy whose descriptor, follow-on, records or formats the rules turn away takes that
exception; a misaligned completion word faults. `chst` starts the walk of a chain. `ckopen` begins a generation, and `ckseal`
makes it current once what happens before it has performed at package scope. With none building what `ckseal` answers is free (log 2). Logs 40 and 45 say what the model chose here. -/
def Obligations.TransfersIssue : Prop :=
  ∀ (s : State) (f : LG),
    let e := s.issuer
    let c := s.issueAt
    let words := f.imm.words
    let stall := f.stall.toNat
    let n := f.mod.toNat % 4
    let ch := idx4 n
    let k := e.chans[ch]
    let named (form : TForm) : List Dest := [e.destOf f.a.toNat] ++ (if f.a = 63 ∧ form ≠ .cpyf ∧ form ≠ .hflush then [] else [e.destOf f.x.toNat])
    let desc := (List.range 3).map fun j => e.destOf (f.b.toNat + j)
    let ws := s.result 2 f.d.toNat (BitVec.ofNat 80 k.xnext.toNat)
    let word (off : Int) : Option Addr := if f.a = 63 then none else some (e.val80 f.a.toNat + BitVec.ofInt 80 off)
    let crooked (w : Option Addr) : Prop := ∃ a, w = some a ∧ a.toNat % 8 ≠ 0
    let full : Prop := 16 ≤ k.out.length ∨ k.chain ≠ .idle
    let isTile (form : TForm) : Bool := form == .cpyf || ((form == .cpy || form == .cpyt) && f.mod.getLsbD 2)
    let queued (form : TForm) (w : Option Addr) (x : Transfer) : Prop :=
      x.form = form ∧ x.id = k.xnext.toNat ∧ x.uid = s.nextId ∧ x.d0 = e.val f.b.toNat ∧ x.d1 = e.val (f.b.toNat + 1) ∧
        x.d2 = e.val (f.b.toNat + 2) ∧ x.tile = isTile form ∧ x.cword = w ∧
        x.cval = (if form = .cpyf then BitVec.ofNat 64 k.xnext.toNat else e.val f.x.toNat) ∧ x.cls = f.cls.toNat ∧
        x.scope = s.scopeOf e.seq f.scope ∧ x.ckset = f.imm.bits % 256 ∧ (form = .cpyf → x.follow = e.val f.x.toNat ∧ x.target = f.mod.toNat / 4 % 4) ∧
        (form = .hflush → x.base = e.ea f.a.toNat f.b.toNat f.imm.val ∧ x.len = (e.val f.x.toNat).toNat) ∧
        x.record = none ∧ x.begun = false ∧ x.moved = false ∧ x.got = [] ∧ x.wrote = [] ∧ x.waits = [] ∧ s.ptick < x.due
    let begins (i : Instr) (form : TForm) (reads : List Dest) (w : Option Addr) (clean : Prop) : Prop :=
      (s.Issues reads ws → f.scope ≠ 15 → ¬ full → ¬ crooked w → s.acquiring e = false → clean → ∃ x, queued form w x ∧
        exec i s = .next ({ s with fresh := s.fresh + 1, nextId := s.nextId + 1 }.setEng s.cur
          (({ e with chans := e.chans.set ch { k with xnext := k.xnext + 1, out := k.out ++ [x] } }.land ws).advance c words stall))) ∧
      (s.Ready reads → full → exec i s = .next (s.setEng s.cur { s.eng s.cur with status := .blocked (.channel n) c })) ∧
      (s.Issues reads ws → f.scope ≠ 15 → ¬ full → clean → ∀ a, w = some a → a.toNat % 8 ≠ 0 → exec i s = .next (s.accessFaulted a (.misaligned 3)))
    let copies (i : Instr) (op : Nat) (form : TForm) (off : Int) : Prop :=
      let t := e.copyOf f form s (word off)
      let illegal := s.xferIllegal s.cur t
      let strange : Prop := form = .cpyf ∧ followOk t.follow = false
      let whole : Prop := s.poisoned (s.shapePa t.srcIx) 64 = false ∧ (t.hasDst = true → s.poisoned (s.shapePa t.dstIx) 64 = false)
      let stops (cause detail : Nat) : Prop := exec i s = .next (s.raised cause detail e.pc)
      begins i form (named form ++ desc) (word off) (illegal = none ∧ ¬ strange ∧ s.xferShape s.cur e t = none ∧ s.xferFormat s.cur e op t = none ∧ whole) ∧
      (s.Ready (named form ++ desc) → ¬ full →
        (f.scope = 15 → (∀ x, illegal = some x → 9 < x.1) → stops 0x0002 (opDetail f.imm.len op 44 9)) ∧
        (∀ x, illegal = some x → f.scope ≠ 15 ∨ x.1 ≤ 9 → stops 0x0002 (opDetail f.imm.len op x.2 x.1)) ∧
        (f.scope ≠ 15 → illegal = none → strange → stops 0x0002 (opDetail f.imm.len op 0xFF 0x0E)) ∧
        (f.scope ≠ 15 → illegal = none → ¬ strange → whole → ∀ d, s.xferShape s.cur e t = some d → stops 0x0004 d) ∧
        (f.scope ≠ 15 → illegal = none → ¬ strange → whole → s.xferShape s.cur e t = none → ∀ d, s.xferFormat s.cur e op t = some d → stops 0x0003 d)) ∧
      (s.Issues (named form ++ desc) ws → f.scope ≠ 15 → ¬ full → illegal = none → ¬ strange → ¬ crooked (word off) → s.acquiring e = false →
        ∀ slot, s.shapePoison t = some slot → exec i s = .next (poisonFault s e 2 slot))
    let home (i : Instr) (op : Nat) (form : TForm) (more : List Dest) (w : Option Addr) : Prop :=
      begins i form (named form ++ more) w True ∧
      (s.Ready (named form ++ more) → ¬ full → f.scope = 15 → exec i s = .next (s.raised 0x0002 (opDetail f.imm.len op 44 9) e.pc))
    let head : Addr := (word f.imm.val).getD k.head
    let slot := s.cur.slot
    let set_ := f.imm.bits % 256
    let ck := (s.die slot).ckSet set_
    let answers (u : State) (v : Nat → Word) (t : State) : Prop :=
      ∃ l fresh, 1 ≤ l ∧ s.fresh ≤ fresh ∧ t = { u with
        engines := (s.setEng s.cur ({ e with
          inter := if e.destOf f.d.toNat = Dest.nil then e.inter else e.inter ++ [(e.destOf f.d.toNat, s.nextId)] }.advance c words stall)).engines
        replies := s.replies ++ [⟨s.nextId, s.cur, (s.die slot).incarn, optWrite ((e.destOf f.d.toNat).write (zext80 (v s.fresh))), s.ptick + l⟩]
        nextId := s.nextId + 1
        fresh := fresh }
    copies (.cpy f) 0x280 .cpy f.imm.val ∧ copies (.cpyt f) 0x281 .cpyt f.imm.val ∧ copies (.cpyh f) 0x282 .cpyh f.imm.val ∧
    copies (.cpym f) 0x283 .cpym f.imm.val ∧ copies (.cpyi f) 0x284 .cpyi f.imm.val ∧ copies (.cpyf f) 0x285 .cpyf f.imm.val ∧
    copies (.ckput f) 0x341 .ckput 0 ∧
    home (.cwr f) 0x287 .cwr [] (word f.imm.val) ∧ home (.ckget f) 0x343 .ckget [] (word 0) ∧
    home (.hflush f) 0x344 .hflush [e.destOf f.b.toNat] none ∧
    (s.Issues [e.destOf f.a.toNat] [] → k.chain = .idle → f.scope ≠ 15 →
      (head.toNat % 64 = 0 → s.acquiring e = false → exec (.chst f) s = .next (s.setEng s.cur ({ e with
        chans := e.chans.set ch { k with
          head := head, chain := .waitOwn head, chainCls := f.cls.toNat, chainScope := s.scopeOf e.seq f.scope, chainPc := e.pc } }.advance c words stall))) ∧
      (head.toNat % 64 ≠ 0 → exec (.chst f) s = .next (s.accessFaulted head (.misaligned 6)))) ∧
    (s.Ready [e.destOf f.a.toNat] → k.chain ≠ .idle → exec (.chst f) s = .next (s.setEng s.cur { s.eng s.cur with status := .blocked (.channel n) c })) ∧
    (s.Issues [] [] → ∃ t, exec (.ckopen f) s = .next t ∧
      answers (s.setDie slot { s.die slot with ckpt := (s.die slot).ckpt.put set_ { ck with last := ck.last + 1, building := some ⟨ck.last + 1, [], 0⟩ } })
        (fun _ => BitVec.ofNat 64 (ck.last + 1)) t) ∧
    (s.Issues [] [] → f.scope ≠ 15 → s.acquiring e = false →
      (s.putting slot set_ = true ∨ s.unreleased s.cur e c (max 4 (s.scopeOf e.seq f.scope)) = true → exec (.ckseal f) s = .next s.held) ∧
      (s.putting slot set_ = false → s.unreleased s.cur e c (max 4 (s.scopeOf e.seq f.scope)) = false →
        (∀ g, ck.building = some g → ∃ t, exec (.ckseal f) s = .next t ∧
          answers (s.setDie slot { s.die slot with ckpt := (s.die slot).ckpt.put set_ { ck with current := some { g with sealTick := s.ptick }, building := none } })
            (fun _ => BitVec.ofNat 64 g.number) t) ∧
        (ck.building = none → ∃ t, exec (.ckseal f) s = .next t ∧ answers s Config.freeWord t)))

/-- R109, R113, R135, R137, R246, R250, R257, R259: the payload of a transfer moves unit by unit, each unit read as the engine sees it
and written byte for byte where the two sides have one format; once it has moved its completion word is written, XDONE rises over the
completed prefix, a follow-on is handed over, and a chain goes on to its next record. A `cwr` completes after every lower ID.
A chain starts a record whose own bit it finds set, and refuses one it may not run. Logs 8, 34 and 45 say what the model chose here. -/
def Obligations.TransfersComplete : Prop :=
  ∀ (s : State) (id : EngId) (ch n a p q i : Nat) (x : Transfer) (pas r16 : List (Nat × Nat)) (m : Moves) (sp dp : Pieces) (u : TUnit) (rec_ : Addr),
    let e := s.eng id
    let k := e.chans[idx4 ch]
    let code := (s.shape x.srcIx).fmt % 16
    let len := x.cols * (elemBits code / 8)
    let one : Prop := ch < 4 ∧ x ∈ k.out ∧ x.id = n ∧ (∀ y ∈ k.out, y.id = n → y = x)
    let settled : Prop := (∀ y ∈ s.accesses, y.id ∉ x.waits) ∧
      (∀ y ∈ (s.cluster id.cl).fills, ¬ (y.by_ = id ∧ y.xfer = some (ch, x.id))) ∧ (x.form = .cwr → k.xdone.toNat + 1 = x.id)
    let ids := k.doneIds ++ [x.id]
    let passed (t : State) : Prop :=
      let u := (t.eng id).chans[idx4 ch]
      u.out = k.out.filter (fun y => y.id != x.id) ∧ u.xnext = k.xnext ∧ k.xdone.toNat ≤ u.xdone.toNat ∧
        (∀ m, k.xdone.toNat < m → m ≤ u.xdone.toNat → m ∈ ids) ∧ u.xdone.toNat + 1 ∉ ids
    let past := s.setEng id { e with chans := e.chans.set (idx4 ch) (k.complete x.id) }
    let target : EngId := ⟨id.slot, id.cluster, x.target⟩
    let b := (s.viewAll (.eng id) pas).flatten
    let go (s' : State) : Prop := exec (.transferComplete id ch n) s = .next s'
    let becomes (t : State) (y : Transfer) : Prop :=
      (t.eng id).chans[idx4 ch] = { k with out := k.out.map fun v => if v.uid = x.uid then y else v }
    let r := recordTransfer k rec_ b
    (one → x.moved = false → s.xferGoes id k x = true →
      (x.form = .cwr → ∃ t, go t ∧ t = { s with engines := t.engines } ∧ becomes t { x with begun := true, moved := true, got := [], wrote := [] }) ∧
      (s.moves id e x = .ok m → s.xferSteps id ch e x m = [.read i] → m.units[i]? = some u → m.unwritten x ≠ [] →
        (s.poisoned u.pa u.n = false → ∃ t y, go t ∧ t = { s with engines := t.engines, dies := t.dies, fresh := t.fresh } ∧ becomes t y ∧
          y = { x with begun := true, got := x.got.put i (s.view (.eng id) u.pa u.n), due := y.due }) ∧
        (s.poisoned u.pa u.n = true → x.record = none → ∃ t, go t ∧ t = { s with engines := t.engines, faults := t.faults } ∧
          (t.eng id).status = .stopped ∧ ∃ w, t.faults = s.faults ++ [w] ∧ w.cause = 0x0106 ∧ w.detail = BitVec.ofNat 64 (2 + paSlot u.pa * 256))) ∧
      (s.moves id e x = .ok m → s.xferSteps id ch e x m = [.write i] → m.src = some sp → m.dst = [(id, dp)] → m.puts[i]? = some (0, u) →
        x.form = .cpy → x.tile = false → (s.shape x.dstIx).fmt % 16 = code → isMx code = false → elemBits code % 8 = 0 →
        (∀ j < x.rows, (x.runRead sp j).length = len) → dp.elems.length = x.rows → u.run < x.rows → u.off + u.n ≤ len →
        s.frozen e.seq e.team u.pa = false →
        ∃ t y, go t ∧ t = { s with engines := t.engines, mem := t.mem, poison := t.poison, written := t.written, dies := t.dies, fresh := t.fresh } ∧
          becomes t y ∧ t.bytes u.pa u.n = ((x.runRead sp u.run).drop u.off).take u.n ∧
          ∀ y, (y < u.pa ∨ u.pa + u.n ≤ y) → byteAt t.mem y = byteAt s.mem y)) ∧
    (one → x.moved = true → x.due ≤ s.ptick → s.faulted id = false → s.dieUp id.slot = true → (∀ m ∈ ids, m < 2 ^ 48) →
      (x.record = none → (x.form = .cpyf → (s.eng target).status ≠ .finished) →
        (x.cword = none → s.mayComplete id ch e x [] [] = true → ∃ t, go t ∧ t = { s with engines := t.engines } ∧ passed t ∧
          (x.form = .cpyf → (t.eng target).follow = (s.eng target).follow ++ [⟨x.follow, id, s.ptick⟩])) ∧
        (∀ v, x.cword = some v → s.reachRun id e rWrite (v, 8) = .ok [(a, 8)] → s.mayComplete id ch e x [(a, 8)] [] = true →
          s.frozen e.seq e.team a = false →
          ∃ t, go t ∧ t = { s with engines := t.engines, mem := t.mem, poison := t.poison, written := t.written } ∧ passed t ∧
            natOf (t.bytes a 8) = x.cval.toNat ∧ ∀ y, y < a ∨ a + 8 ≤ y → byteAt t.mem y = byteAt s.mem y)) ∧
      (x.cword = none → ¬ settled → go s) ∧
      (x.cword = none → x.form ≠ .cpyf → x.record = some rec_ → s.reachRun id e rRead (rec_, 16) = .ok r16 → s.mayComplete id ch e x [] r16 = true →
        past.reachRun id (past.eng id) rRead (rec_, 10) = .ok [(p, 10)] → past.reachRun id (past.eng id) rWrite (rec_ + 10, 2) = .ok [(q, 2)] →
        s.frozen e.seq e.team q = false → s.poisoned p 10 = false →
        let nx := natOf (s.view (.eng id) p 10)
        nx % 64 = 0 → ∃ t, go t ∧ t = { s with engines := t.engines, mem := t.mem, poison := t.poison, written := t.written } ∧
          natOf (t.bytes q 2) = (if nx = 0 then 0 else 2) ∧
          (t.eng id).chans[idx4 ch] = { k.complete x.id with chain := if nx = 0 then .idle else .waitOwn (BitVec.ofNat 80 nx) })) ∧
    (k.chain = .waitOwn rec_ → s.reachRun id e rRead (rec_, 64) = .ok pas → (∀ y ∈ pas, s.poisoned y.1 y.2 = false) →
      s.dieUp id.slot = true → s.faulted id = false → k.out.length < 16 → e.status ≠ .stopped → e.isPaused = false →
      s.admits id false s.ptick pas = true → s.ownHeld pas k.chainScope = false →
      ((bytesFld b 10 1) % 2 = 0 → exec (.chainRecordStart id ch) s = .next s) ∧
      ((bytesFld b 10 1) % 2 = 1 → (∀ w, s.recordStatus id e r.1 r.2 = some w →
        exec (.chainRecordStart id ch) s = .next (s.chainFault id ch rec_ k.chainPc w))) ∧
      ((bytesFld b 10 1) % 2 = 1 → bytesFld b 12 1 ≤ 4 → s.recordStatus id e r.1 r.2 = none →
        ∃ t y, exec (.chainRecordStart id ch) s = .next t ∧
          t = { s with engines := t.engines, owns := t.owns, fresh := s.fresh + 1, nextId := s.nextId + 1 } ∧
          (t.eng id).chans[idx4 ch] = { k with chain := .running rec_ k.xnext.toNat, xnext := k.xnext + 1, out := k.out ++ [y] } ∧
          y.id = k.xnext.toNat ∧ y.form = [TForm.cpy, .cpyt, .cpyh, .cpym, .cpyi].getD (bytesFld b 12 1) .cpy ∧
          y.d0.toNat = bytesFld b 40 8 ∧ y.d1.toNat = bytesFld b 48 8 ∧ y.d2.toNat = bytesFld b 56 8 ∧ y.cval.toNat = bytesFld b 32 8 ∧
          y.cword = (if bytesFld b 16 10 = 0 then none else some (BitVec.ofNat 80 (bytesFld b 16 10))) ∧ y.record = some rec_ ∧
          s.ptick < y.due))

/-! ## The switch engine -/

/-- R275-R278, R145, R353, R356: `msend` hands the bytes of its buffer, in numbered packets of at most 9,000 bytes, to a pod port of its
quadrant that its die's table lets it use, and keeps them for retransmission, once its accesses have performed at pod scope. `karm` puts a descriptor into the launch table in place of its tag's entry, and `kdisarm` takes a tag's away. A
collective is held until every member on this package stands at it; where all its members do, it leaves in every buffer the sums
in rank order, the gathered parts, or the root's bytes, and each member goes on. Logs 48 and 58 say what the model chose here. -/
def Obligations.SwitchResults : Prop :=
  ∀ (s : State) (f : LG) (src desc head group buf : List (Nat × Nat)) (here : List Member),
    let e := s.issuer
    let words := f.imm.words
    let stall := f.stall.toNat
    let a := e.val80 f.a.toNat
    let d := e.val f.d.toNat
    let len := (e.val f.x.toNat).toNat
    let slot := s.cur.slot
    let package : BitVec 12 := s.mgmt.podcfg.extractLsb' 0 12
    let reaches (need : Rights) (va : Addr) (n : Nat) (pas : List (Nat × Nat)) : Prop := s.takeReach s.cur e pathK f.cls.toNat need va n = .ok pas
    let held (pas : List (Nat × Nat)) : List Byte := (s.viewAll (.eng s.cur) pas).flatten
    let raw (t : State) (pas : List (Nat × Nat)) : List Byte := (pas.map fun p => t.bytes p.1 p.2).flatten
    let packet : Message := ⟨d.extractLsb' 0 16, package, d.extractLsb' 16 12, e.master, e.seq, e.team, held src⟩
    let flow := packet.dst.toNat * 65536 + packet.tag.toNat
    let turn := s.trust.podSent.getD flow 0
    let frames := max 1 (((held src).length + 8999) / 9000)
    let sent (port : Nat) : List PodPacket := (List.range frames).map fun j =>
      ⟨3 * (slot / 9) + port, turn + j, true, { packet with payload := ((held src).drop (9000 * j)).take 9000 }, decide (j + 1 < frames)⟩
    let quiet : Prop := s.acquiring e = false ∧ s.unreleased s.cur e s.issueAt 5 = false
    let table := (s.die slot).armed
    let others := table.filter fun x => x.tag != d.extractLsb' 0 16
    let off := a + BitVec.ofInt 80 f.imm.val
    let kind := f.imm.bits % 8
    let ty := BitVec.ofNat 3 kind
    let w := typeBytes ty
    let count := (e.val f.b.toNat).toNat
    let gva := e.val80 f.x.toNat
    let ms := groupMembers (held group)
    let K := ms.length
    let call (c : Coll) (n : Nat) (va : Addr) : Call := ⟨c, n, va, gva, f.cls.toNat, words, stall⟩
    let buffer (r : Nat) : List Byte := match here.find? fun m => m.rank == r with | some m => (s.viewAll (.eng m.id) m.src).flatten | none => []
    let apart : Prop := (here.flatMap (·.pas)).Pairwise fun p q => p.1 + p.2 ≤ q.1 ∨ q.1 + q.2 ≤ p.1
    let standing (c : Call) (n : Nat) : Prop :=
      let part := c.source (bytesFld (held head) 8 8)
      quiet ∧ gva.toNat % 64 = 0 ∧ reaches rRead gva 16 head ∧ reaches rRead gva (16 + 2 * bytesFld (held head) 0 2) group ∧
        reaches rRead (c.va + BitVec.ofNat 80 part.1) part.2 src ∧ reaches rWrite c.va n buf ∧ (∃ port, s.portFor e ms = .ok port)
    let collects (i : Instr) (regs : List Nat) (c : Call) (n : Nat) (leaves : List Byte → Prop) : Prop :=
      s.Issues (regs.map e.destOf) [] →
      (e.collected = true → exec i s = .next (s.setEng s.cur ({ e with collected := false }.advance s.issueAt words stall))) ∧
      (e.collected = false → standing c n → s.members c ms = none → exec i s = .next s.held) ∧
      (e.collected = false → standing c n → s.members c ms = some here → apart → (∀ r < K, ∃ m ∈ here, m.rank = r) →
        (∀ m ∈ here, ∀ p ∈ m.pas, s.frozen m.eng.seq m.eng.team p.1 = false) →
        ∃ t, exec i s = .next t ∧
          t = { s with engines := t.engines, mem := t.mem, poison := t.poison, written := t.written, fresh := t.fresh } ∧
          t.eng s.cur = { e with collected := false }.advance s.issueAt words stall ∧
          (∀ m ∈ here, m.id.key ≠ s.cur.key → t.eng m.id = { s.eng m.id with collected := true }) ∧
          (∀ m ∈ here, leaves (raw t m.pas)) ∧
          ∀ y, (∀ m ∈ here, ∀ p ∈ m.pas, y < p.1 ∨ p.1 + p.2 ≤ y) → byteAt t.mem y = byteAt s.mem y)
    let part (r j : Nat) : Nat := bytesFld (buffer r) (j * w) w
    let floats : Prop := kind = 4 ∨ kind = 5
    let sum32 (j : Nat) : Word32 := ((List.range K).tail.map fun r => widenOpnd ty (BitVec.ofNat 64 (part r j))).foldl fadd32 (widenOpnd ty (BitVec.ofNat 64 (part 0 j)))
    let root := d.toNat % 2 ^ 14
    (s.Issues [e.destOf f.a.toNat, e.destOf f.x.toNat, e.destOf f.d.toNat] [] → f.scope ≠ 15 → quiet → reaches rRead off len src →
      (∀ port, s.sendPort slot e.master = .ok port → exec (.msend f) s = .next ({ s with
          outbox := s.outbox ++ (sent port).map fun x => Output.pod (3 * (slot / 9) + port) x
          trust := { s.trust with
            podSent := s.trust.podSent.put flow (turn + frames), podKept := s.trust.podKept ++ sent port } }.passed words stall [])) ∧
      (∀ x, s.sendPort slot e.master = .error x → exec (.msend f) s = .next (s.accessFaulted off x))) ∧
    (s.Issues [e.destOf f.a.toNat, e.destOf f.d.toNat] [] → s.acquiring e = false → reaches rRead off 64 desc →
      ∃ t l, exec (.karm f) s = .next t ∧ t = ({ s with fresh := s.fresh + 1 }.setDie slot { s.die slot with armed := l }).passed words stall [] ∧
        ⟨d.extractLsb' 0 16, held desc⟩ ∈ l ∧ (others.length < 256 → l = others ++ [⟨d.extractLsb' 0 16, held desc⟩]) ∧
        (others.length = 256 → l.length = 256 ∧ ∀ x ∈ l, x ∈ others ∨ x = ⟨d.extractLsb' 0 16, held desc⟩)) ∧
    (s.Issues [e.destOf f.d.toNat] [] → exec (.kdisarm f) s = .next ((s.setDie slot { s.die slot with armed := others }).passed words stall [])) ∧
    collects (.kred f) [f.a.toNat, f.b.toNat, f.x.toNat] (call (.red (f.mod.getLsbD 2) ty) count a) (count * w) (fun out =>
      ∀ j < count, (¬ floats → bytesFld out (j * w) w = ((List.range K).map fun r => part r j).sum % 2 ^ (8 * w)) ∧
        (floats → f.mod.getLsbD 2 = false → 0 < K → bytesFld out (j * w) w = (typeFmt ty).round (val32 (sum32 j)) % 2 ^ (8 * w))) ∧
    collects (.kgath f) [f.a.toNat, f.b.toNat, f.x.toNat] (call .gath count off) (K * count) (fun out =>
      ∀ r < K, (out.drop (r * count)).take count = (buffer r).take count) ∧
    collects (.kbcast f) [f.a.toNat, f.b.toNat, f.x.toNat, f.d.toNat] (call (.bcast root) count off) count (fun out => root < K → out = buffer root) ∧
    collects (.ksync f) [f.x.toNat] (call .sync 0 a) 0 (fun _ => True)

/-! ## The gather engines and the lattice -/

/-- R293-R296, R304, R305, R307: `gload` makes the graph of an image resident, each record in its cell, its initial tokens under one new
stamp. `gfeed` feeds its tokens one by one from the
cycle after its issue, each under a new stamp, those of one cycle edge by edge, and answers the last. `gtake` writes records of its edge queue
as they come, and goes on after the last. `gquiet` answers the squash counter and clears it, and `gunload` removes a graph, once
every stamp has committed. Logs 36, 40 and 46 say what the model chose here. -/
def Obligations.GatherResults : Prop :=
  ∀ (s : State) (f : LG) (id : EngId) (head pas : List (Nat × Nat)) (i pa since : Nat) (va' : Addr) (x' : Word) (dst : Dest)
    (g : Nat) (gr : Graph) (image : Option Addr),
    let e := s.issuer
    let words := f.imm.words
    let stall := f.stall.toNat
    let slot := s.cur.slot
    let l := s.lattice slot
    let d := f.d.toNat
    let va := e.ea f.a.toNat f.b.toNat f.imm.val
    let ab := [e.destOf f.a.toNat, e.destOf f.b.toNat]
    let abx := ab ++ [e.destOf f.x.toNat]
    let x := e.val f.x.toNat
    let reaches (need : Rights) (va : Addr) (n : Nat) (pas : List (Nat × Nat)) : Prop := s.takeReach s.cur e pathG f.cls.toNat need va n = .ok pas
    let blocks (why : Block) : State := s.setEng s.cur { s.eng s.cur with status := .blocked why s.issueAt }
    let new := graphOf (s.viewAll (.eng s.cur) head).flatten
    let image_ := (s.viewAll (.eng s.cur) pas).flatten
    let rec_ (j : Nat) : List Byte := (image_.drop (128 + 256 * j)).take 256
    let valid (j k : Nat) : Prop := bytesFld (rec_ j) 192 1 / 2 ^ k % 2 = 1
    let stamped : Prop := ∃ j < new.count, bytesFld (rec_ j) 192 1 ≠ 0
    let first := x.toNat / 2 ^ 48 % 32
    let lanes := x.toNat / 2 ^ 56 % 32 + 1
    let count := x.toNat % 2 ^ 17
    let n := x.toNat
    let edge := idx4 s.cur.index
    let queue := l.edges[edge]
    let recBytes (r : EdgeRec) : Nat := r.val.toNat + r.stamp.toNat * 2 ^ 64 + r.lane % 256 * 2 ^ 96
    -- the events
    let u := { s with cur := id }
    let ue := u.eng id
    let ul := u.lattice id.slot
    let uLane := x'.toNat / 2 ^ 48 % 32 + i % (x'.toNat / 2 ^ 56 % 32 + 1)
    let uCell := edgeCell id.index uLane
    let port := id.index + 1
    let v := BitVec.ofNat 64 (natOf (u.viewAll (.eng id) pas).flatten)
    let back := ue.resume (u.dom id.cl) u.ptick
    let retired (w : Option Write) : Engine :=
      ((back.settle back.nextIssue).land (landing back.nextIssue 1 w)).advance back.nextIssue words stall
    let quietNow : Prop := (s.die id.slot).lattice.log = [] ∧ (s.die id.slot).lattice.sill = [] ∧ (s.die id.slot).lattice.commit = none
    (s.Issues ab [] →
      (d < 8 → l.graphs.find d = none → s.acquiring e = false → va.toNat % 64 = 0 → reaches rRead va 128 head → new.x0 + new.w ≤ 31 → new.y0 + new.h ≤ 31 →
        reaches rRead va (128 + 256 * new.count) pas → (∀ j < new.count, ∀ w ∈ recordMoves (rec_ j), new.refuses (new.cell j) w = false) →
        (∀ k ∈ new.sinks, k.refused = false) → (∀ q ∈ l.graphs, q.2.overlaps new = false) → (stamped → l.log.length < 1024) →
        ∃ L, exec (.gload f) s = .next ((s.setLattice slot L).passed words stall []) ∧ L.graphs.find d = some new ∧
          (stamped → L.stampCtr = l.stampCtr + 1 ∧ L.log = l.log ++ [⟨l.stampCtr + 1, 0, 4, 0, 0, true⟩]) ∧
          (¬ stamped → L.stampCtr = l.stampCtr ∧ L.log = l.log) ∧
          (∀ j < new.count, ∃ k, L.cells.find (new.cell j) = some k ∧ k.graph = d ∧ k.ops = [] ∧ k.kept = [] ∧
            k.moves = (List.range 32).map (fun m => BitVec.ofNat 32 (bytesFld (rec_ j) (4 * m) 4)) ∧
            ∀ r < 8, (valid j r → k.port (8 + r) = some ⟨BitVec.ofNat 64 (bytesFld (rec_ j) (128 + 8 * r) 8), l.stampCtr + 1⟩) ∧
              (¬ valid j r → k.port (8 + r) = none)) ∧
          (∀ q, (∀ j < new.count, q ≠ new.cell j) → L.cells.find q = l.cells.find q) ∧
          L.sill = l.sill ∧ L.edges = l.edges ∧ L.squash = l.squash) ∧
      (7 < d → exec (.gload f) s = .next (s.raised 0x0002 (opDetail f.imm.len 0x300 20 4) e.pc)) ∧
      (d < 8 → l.graphs.find d ≠ none → exec (.gload f) s = .next (s.raised 0x0002 (opDetail f.imm.len 0x300 20 6) e.pc))) ∧
    (s.Issues abx [] →
      (65536 < count ∨ 32 < first + lanes → exec (.gfeed f) s = .next (s.raised 0x0002 (opDetail f.imm.len 0x301 38 4) e.pc)) ∧
      (count ≤ 65536 → first + lanes ≤ 32 → s.acquiring e = false →
        (∀ k < lanes, k < count → l.cells.find (edgeCell s.cur.index (first + k)) ≠ none) →
        (0 < count → va.toNat % 8 = 0 → exec (.gfeed f) s = .next (blocks (.feed 0 va x (e.destOf d)))) ∧
        (count = 0 → ∃ t r, exec (.gfeed f) s = .next t ∧ t = { s with
            engines := t.engines, fresh := t.fresh, nextId := s.nextId + 1, replies := s.replies ++ [r] } ∧
          r.id = s.nextId ∧ r.writes = optWrite ((e.destOf d).write (BitVec.ofNat 80 l.stampCtr.toNat)) ∧
          (t.eng s.cur).inter = (if e.destOf d = Dest.nil then e.inter else e.inter ++ [(e.destOf d, s.nextId)]) ∧
          (t.eng s.cur).status = .running))) ∧
    (s.Issues abx [] → 0 < n → n ≤ 65536 → s.acquiring e = false → va.toNat % 16 = 0 → e.gtake = none →
      (queue = [] → exec (.gtake f) s = .next s.held) ∧
      (n ≤ queue.length → reaches rWrite va (16 * n) [(pa, 16 * n)] → s.frozen e.seq e.team pa = false →
        ∃ t L, exec (.gtake f) s = .next t ∧ t = { (s.setLattice slot L).passed words stall [] with mem := t.mem, poison := t.poison, written := t.written } ∧
          L = { l with edges := l.edges.set edge (queue.drop n) } ∧
          (∀ j (h : j < n) (h' : j < queue.length), natOf (t.bytes (pa + 16 * j) 16) = recBytes queue[j]) ∧
          ∀ y, y < pa ∨ pa + 16 * n ≤ y → byteAt t.mem y = byteAt s.mem y) ∧
      (queue ≠ [] → queue.length < n → reaches rWrite va (16 * queue.length) [(pa, 16 * queue.length)] → s.frozen e.seq e.team pa = false →
        ∃ t, exec (.gtake f) s = .next t ∧ (t.eng s.cur).gtake = some (queue.length, va, n) ∧ (t.eng s.cur).pc = (s.eng s.cur).pc ∧
          (t.die slot).lattice.edges = l.edges.set edge [] ∧
          ∀ j (h : j < queue.length), natOf (t.bytes (pa + 16 * j) 16) = recBytes queue[j])) ∧
    (s.Issues [] [] → s.acquiring e = false → exec (.gquiet f) s = .next (blocks (.quiet (e.destOf d) none none))) ∧
    (s.Issues (if f.a = 63 then [] else ab) [] → s.acquiring e = false →
      (l.graphs.find d = none → exec (.gunload f) s = .next (s.raised 0x0002 (opDetail f.imm.len 0x303 20 6) e.pc)) ∧
      (l.graphs.find d ≠ none → f.a = 63 → exec (.gunload f) s = .next (blocks (.quiet .nil (some d) none))) ∧
      (l.graphs.find d ≠ none → f.a ≠ 63 → va.toNat % 64 = 0 → exec (.gunload f) s = .next (blocks (.quiet .nil (some d) (some va))))) ∧
    (ue.status = .blocked (.feed i va' x' dst) since → u.found id .ge ue = .inst (.gfeed f) → u.teamStateOf ue = some .running → id.index < 4 →
      ul.cells.find uCell ≠ none → (cellOf ul.start uCell).port port = none → (cellOf ul.cells uCell).port port = none → ul.log.length < 1024 →
      (∀ y ∈ ul.log, y.entered = false → ¬ (y.edge = id.index ∧ y.lane = uLane)) →
      since < ul.cycle → (∀ y ∈ ul.fired, y.1 = 1025 → y.2 ≤ id.index) →
      u.takeReach id ue pathG f.cls.toNat rRead (va' + BitVec.ofNat 80 (8 * i)) 8 = .ok pas →
      ∃ t L, exec (.feedTokenEntry id) s = .next t ∧ t = { u.setLattice id.slot L with engines := t.engines } ∧
        L.stampCtr = ul.stampCtr + 1 ∧ L.log = ul.log ++ [⟨ul.stampCtr + 1, v, id.index, uLane, 0, true⟩] ∧
        L.fired = ul.fired ++ [(1025, id.index)] ∧
        (∀ k q, (cellOf L.cells k).port q = if k = uCell ∧ q = port then some ⟨v, ul.stampCtr + 1⟩ else (cellOf ul.cells k).port q) ∧
        t.eng id = (if i + 1 < x'.toNat % 2 ^ 17 then { ue with status := .blocked (.feed (i + 1) va' x' dst) since }
          else retired (dst.write (BitVec.ofNat 80 (ul.stampCtr + 1).toNat)))) ∧
    (ue.status = .blocked (.quiet dst none none) since → u.found id .ge ue = .inst (.gquiet f) →
      (quietNow → exec (.latticeQuietRetire id) s = .next
        ((u.setLattice id.slot { ul with squash := 0 }).setEng id (retired (dst.write (BitVec.ofNat 80 ul.squash.toNat))))) ∧
      (¬ quietNow → exec (.latticeQuietRetire id) s = .next u)) ∧
    (ue.status = .blocked (.quiet .nil (some g) image) since → u.found id .ge ue = .inst (.gunload f) → quietNow → ul.graphs.find g = some gr →
      let gone (L : Lattice) : Prop := (∀ k c, L.cells.find k = some c → c.graph ≠ g) ∧
        (∀ k c, ul.cells.find k = some c → c.graph ≠ g → L.cells.find k = some c) ∧ (∀ m, m ≠ g → L.graphs.find m = ul.graphs.find m) ∧
        ((ul.graphs.map (·.1)).Nodup → L.graphs.find g = none)
      (image = none → ∃ L, exec (.latticeQuietRetire id) s = .next ((u.setLattice id.slot L).setEng id (retired none)) ∧ gone L) ∧
      (∀ va0, image = some va0 → gr.w = 0 → gr.h = 0 → u.takeReach id ue pathG f.cls.toNat rWrite (va0 + 256) 65 = .ok [(pa, 65)] →
        u.frozen ue.seq ue.team pa = false → ∃ t, exec (.latticeQuietRetire id) s = .next t ∧
          (∀ r < 8, natOf (t.bytes (pa + 8 * r) 8) = (match (cellOf ul.cells (gr.cell 0)).port (8 + r) with | some y => y.val.toNat | none => 0) ∧
            ((natOf (t.bytes (pa + 64) 1) / 2 ^ r % 2 = 1) ↔ (cellOf ul.cells (gr.cell 0)).port (8 + r) ≠ none)) ∧
          ∀ y, y < pa ∨ pa + 65 ≤ y → byteAt t.mem y = byteAt s.mem y))

/-- R282, R285, R287, R291, R292, R297, R299, R300: a word of a cell fires when its source held a token, and its destination none, as the cycle
began: the token moves on, and a kept one stays. A trigger starts its unit with the operand and takes the later of the two stamps;
tokens of different stamps join only once every earlier stamp is settled, a committed one whose tokens still move among them. A move off the lattice waits in the sill, and a store
there squashes each later stamp that has read what it writes. A word without a source does nothing.

R290, R298-R300, R302: a lattice load takes each byte from the newest store of its own stamp in the sill, else waits while an earlier stamp
stores there, else reads memory as the lattice sees it. The oldest stamp commits once it and every earlier one are settled: its stores reach memory, its edge outputs their queues, and it
leaves the log. A squashed stamp's token enters again once its link-in is free. Log 46 says what the model chose here. -/
def Obligations.LatticeEvents : Prop :=
  (∀ (s : State) (slot k i : Nat) (w : Word32) (t a : Token),
     let l := s.lattice slot
     let m := moveOf w
     let c := cellOf l.start k
     let now := cellOf l.cells k
     let fire (s' : State) : Prop := exec (.moveFire slot k i) s = .next s'
     let takes (L : Lattice) (extra : Option Nat) : Prop :=
       (∀ p, p ≠ m.src → some p ≠ extra → (cellOf L.cells k).port p = now.port p) ∧
         (cellOf L.cells k).port m.src = (if m.keep = true then now.port m.src else none)
     let b := if m.lit / 16 % 2 = 1 then (fun (g : Graph) => g.base1) else (fun (g : Graph) => g.base0)
     let later : BitVec 32 := latest t.stamp [a.stamp]
     let about (y : BitVec 32) : Prop := (∃ z ∈ l.log, z.stamp = y) ∨
       ∃ q ∈ l.start, (∃ r ∈ q.2.ports, r.2.stamp = y) ∨ ∃ o ∈ q.2.ops, o.stamp = y
     let settledBefore (x : BitVec 32) : Prop := ∀ y, about y → earlier y x = true → y ∈ l.settled
     let joins : Prop := a.stamp = t.stamp ∨ settledBefore later
     (c.port m.src = none → m.src ≠ 5 → now.moves[i]? = some w → fire s) ∧
     (s.latticeRuns slot = true → now.moves[i]? = some w → (now.ports.map (·.1)).Nodup → m.src ≠ 0 → m.src ≠ 5 → m.gmode = 0 → c.port m.src = some t → now.port m.src = some t →
       (m.keep = true → (i, m.src) ∉ c.kept) → (∀ x ∈ l.fired, x.1 ≠ k) →
       (8 ≤ m.dst → m.dst < 16 → m.dst ≠ m.src → c.port m.dst = none → ∃ L, fire (s.setLattice slot L) ∧ takes L (some m.dst) ∧
         (cellOf L.cells k).port m.dst = some t ∧ L.fired = l.fired ++ [(k, i)]) ∧
       (8 ≤ m.dst → m.dst < 16 → c.port m.dst ≠ none → fire s) ∧
       (∀ n, 1 ≤ m.dst → m.dst ≤ 4 → linkTo k m.dst = some n → n ≠ k → (cellOf l.start n).port (opposite m.dst) = none → ∃ L, fire (s.setLattice slot L) ∧
         takes L none ∧ (cellOf L.cells n).port (opposite m.dst) = some t) ∧
       (1 ≤ m.dst → m.dst ≤ 4 → linkTo k m.dst = none → l.sill.length < 256 → (∀ x ∈ l.log, x.squashes < 256) →
         ∃ L y, fire (s.setLattice slot L) ∧ takes L none ∧ L.sill = l.sill ++ [y] ∧ y.stamp = t.stamp ∧
           y.what = .edge (m.dst - 1) (if m.dst % 2 = 1 then k % 32 else k / 32) t.val) ∧
       (m.dst = 0x11 → 0x10 ≤ m.lit % 128 → m.lit % 128 ≤ 0x15 → m.lit / 128 % 2 = 0 → (∀ o ∈ c.ops, o.unit ≠ 0x11) → c.port 0x10 = none →
         ∃ L, fire (s.setLattice slot L) ∧ takes L none ∧
           (cellOf L.cells k).ops = now.ops ++ [⟨0x11, t.stamp, [(0x10, latticeAlu m.lit 0 t.val)], l.cycle + 1, none⟩]) ∧
       (m.dst = 0x11 → m.lit % 128 < 0x10 → m.lit / 128 % 2 = 0 → (∀ o ∈ c.ops, o.unit ≠ 0x11) → c.port 0x10 = none → c.port (latchKey 0x10) = some a →
         m.src ≠ latchKey 0x10 →
         (joins → ∃ L, fire (s.setLattice slot L) ∧ takes L (some (latchKey 0x10)) ∧ (cellOf L.cells k).port (latchKey 0x10) = none ∧
           (cellOf L.cells k).ops = now.ops ++ [⟨0x11, later, [(0x10, latticeAlu m.lit a.val t.val)], l.cycle + 1, none⟩]) ∧
         (¬ joins → fire s)) ∧
       (∀ pa g, m.dst = 0x17 → m.lit / 4 % 2 = 1 → (∀ o ∈ c.ops, o.unit ≠ 0x17) → c.port (latchKey 0x16) = some a → m.src ≠ latchKey 0x16 → joins →
         let n := 2 ^ (m.lit % 4)
         let va := b g + zext80 a.val
         l.graphs.find now.graph = some g → s.latticePa slot rWrite va n = .ok pa → l.sill.length < 256 → (∀ x ∈ l.log, x.squashes < 255) →
         let hit (y : SillEntry) : Prop := earlier later y.stamp = true ∧ ∃ va' q len sx, y.what = .load va' q len sx true ∧ q < pa + n ∧ pa < q + len
         ∃ L, fire (s.setLattice slot L) ∧
           (∃ y ∈ L.sill, y.stamp = later ∧ y.what = .store va pa (bytesOf n t.val.toNat) ∧ y.fault = none) ∧
           (∀ y ∈ l.sill, hit y → (∀ z ∈ L.sill, z.stamp ≠ y.stamp) ∧ (∀ z ∈ L.log, z.stamp = y.stamp → z.entered = false) ∧
             ∀ q p z, (cellOf L.cells q).port p = some z → z.stamp ≠ y.stamp) ∧
           ((∀ y ∈ l.sill, ¬ hit y) → L.squash = l.squash ∧ ∀ y ∈ l.sill, y ∈ L.sill)))) ∧
  (∀ (s : State) (slot cell pa n since : Nat) (va : Addr) (sx : Bool) (x : SillEntry) (y z : LogEntry) (rest : List LogEntry) (o : UnitOp),
     let l := s.lattice slot
     let id := s.latticeEngine slot
     let seen := l.sill.filter fun q => q.isStore && decide (q.due < l.cycle) && q.meets pa n
     let v (bs : List Byte) : Word := (loadValue n sx bs).extractLsb' 0 64
     let performed (bs : List Byte) : Prop :=
       ∃ t, exec (.memLoadPerform slot cell) s = .next t ∧ t = { s with dies := t.dies, fresh := t.fresh } ∧
         let L := (t.die slot).lattice
         (∃ q ∈ L.sill, q.id = x.id ∧ q.what = .load va pa n sx true ∧ q.fault = none) ∧
           ∃ r ∈ (cellOf L.cells cell).ops, r.sill = some x.id ∧ r.results = [(0x16, v bs)] ∧ l.cycle < r.ready
     let entries := l.sill.filter fun q => q.stamp == y.stamp
     let writes := entries.filterMap fun q => match q.what with | .store _ a d => some (a, d) | _ => none
     let about (y : BitVec 32) : Prop := (∃ z ∈ l.log, z.stamp = y) ∨
       ∃ q ∈ l.start, (∃ r ∈ q.2.ports, r.2.stamp = y) ∨ ∃ o ∈ q.2.ops, o.stamp = y
     let first : Prop := (∀ q ∈ rest, earlier q.stamp y.stamp = false) ∧ ∀ q ∈ l.sill, earlier q.stamp y.stamp = false
     let outs (e : Nat) : List EdgeRec := entries.filterMap fun q =>
       match q.what with | .edge e' lane val => if e' = e then some ⟨val, q.stamp, lane⟩ else none | _ => none
     let e := s.eng id
     (s.latticeRuns slot = true → l.loadOf cell = some x → x.what = .load va pa n sx false → x.due ≤ s.ptick → 0 < n → (∀ q ∈ l.log, q.stamp = x.stamp → q.edge ≠ 4) →
       s.admits id false x.due [(pa, n)] = true → o ∈ (cellOf l.cells cell).ops → o.sill = some x.id →
       (∀ q ∈ l.sill, ¬ (q.isStore = true ∧ q.due = l.cycle ∧ earlier q.stamp x.stamp = true ∧ q.meets pa n = true)) → (∀ q ∈ l.log, q.squashes < 256) →
       (seen = [] → s.poisoned pa n = false → performed (s.view (.lattice slot) pa n)) ∧
       (∀ q d va', seen = [q] → q.stamp = x.stamp → q.what = .store va' pa d → d.length = n → performed d) ∧
       (∀ q va' a d, seen = [q] → q.what = .store va' a d → d ≠ [] → earlier q.stamp x.stamp = true → q.stamp ≠ x.stamp → exec (.memLoadPerform slot cell) s = .next s)) ∧
     (s.latticeRuns slot = true → l.log = y :: rest → first → l.commit = none → y.stamp ∈ l.settled →
       (∀ q, about q → earlier q y.stamp = true → q ∈ l.settled) → l.freeAt ≤ l.cycle → entries.length ≤ 4 → (∀ q ∈ rest, q.stamp ≠ y.stamp) →
       (∀ q ∈ entries, q.fault = none ∧ ((∃ va a d, q.what = .store va a d) ∨ ∃ e lane val, q.what = .edge e lane val ∧ e < 4)) →
       (∀ e : Fin 4, (l.edges[e]).length + (outs e.val).length ≤ 64) → (l.sill.map (·.id)).Nodup →
       (∀ q ∈ writes, s.admits id false s.ptick [(q.1, q.2.length)] = true ∧ s.frozen e.seq e.team q.1 = false) →
       s.latticeShadowed slot (writes.map fun q => (q.1, q.2.length)) = false →
       (∀ i (hi : i < writes.length) j (hj : j < writes.length), i ≠ j →
         writes[i].1 + writes[i].2.length ≤ writes[j].1 ∨ writes[j].1 + writes[j].2.length ≤ writes[i].1) →
       ∃ t, exec (.stampCommit slot) s = .next t ∧ t = { s with mem := t.mem, poison := t.poison, written := t.written, dies := t.dies } ∧
         (∀ q ∈ writes, t.bytes q.1 q.2.length = q.2) ∧
         (∀ a, (∀ q ∈ writes, a < q.1 ∨ q.1 + q.2.length ≤ a) → byteAt t.mem a = byteAt s.mem a) ∧
         (t.die slot).lattice = { l with
           log := rest, sill := l.sill.filter (fun q => q.stamp != y.stamp), freeAt := l.cycle + 1, edges := (t.die slot).lattice.edges } ∧
         ∀ e : Fin 4, (t.die slot).lattice.edges[e] = l.edges[e] ++ outs e.val) ∧
     (l.log = y :: rest → first → y.stamp ∉ l.settled → l.commit = none → exec (.stampCommit slot) s = .next s) ∧
     (s.latticeRuns slot = true → z ∈ l.log → (∀ q ∈ l.log, q.stamp = z.stamp → q = z) → z.entered = false → (1024, z.stamp.toNat) ∉ l.fired →
       let k := edgeCell z.edge z.lane
       (cellOf l.start k).port (z.edge + 1) = none → (cellOf l.cells k).port (z.edge + 1) = none →
       (∀ q ∈ l.log, q.entered = false → q.edge = z.edge → q.lane = z.lane → earlier q.stamp z.stamp = false) →
       ∃ L, exec (.squashReentry slot z.stamp.toNat) s = .next (s.setLattice slot L) ∧ (cellOf L.cells k).port (z.edge + 1) = some ⟨z.val, z.stamp⟩ ∧
         (∀ q p, (q, p) ≠ (k, z.edge + 1) → (cellOf L.cells q).port p = (cellOf l.cells q).port p) ∧
         L.log = l.log.map fun q => if q.stamp = z.stamp then { q with entered := true } else q))

/-! ## What lets an engine go on -/

/-- R39, R40, R56, R111, R245, R258, R263, R267, R268: an engine that waits goes on in the first cycle from the tick in which its tile, slot, barrier,
transfers or channel are as it needs them (a tile's in the cycle after), its waiting cycles counted by kind; until then nothing
changes. An emptied tile lets one of its waiting writers go on, the lowest, once the tile is empty and no lower engine's write is ready. A take whose copy has performed and whose least time has passed retires, and empties its slot. One that
sleeps at a home that is lost faults (R13, R423). -/
def Obligations.WaitsEnd : Prop :=
  ∀ (s : State) (id : EngId) (since n pa win r : Nat) (t : EngId) (x : Word) (va : Addr) (cls : Nat),
    let e := s.eng id
    let d := s.dom id.cl
    let now := d.cycleFrom s.ptick
    let back (c : Nat) (kind : FbEntry → Nat → FbEntry) : State :=
      s.setEng id { e with status := .running, nextIssue := max c since, fbNow := kind e.fbNow (max c since - since) }
    let tile (f : FbEntry) (k : Nat) : FbEntry := { f with waitTile := f.waitTile + k }
    let window (f : FbEntry) (k : Nat) : FbEntry := { f with waitWindow := f.waitWindow + k }
    let other (f : FbEntry) (k : Nat) : FbEntry := { f with waitOther := f.waitOther + k }
    let waits (why : Block) (i : Instr) (ready : Prop) (t : State) : Prop :=
      e.status = .blocked why since → (ready → exec i s = .next t) ∧ (¬ ready → exec i s = .next s)
    let gone (va : Addr) : State := (s.setEng id { e with status := .stopped }).fault { faultAt s id 0x0103 1 e.pc with addr := va, addrValid := true }
    let w := (s.die id.slot).window win
    let depth := winDepth ((s.die id.slot).wincfgOf win)
    let k := e.chans[idx4 n]
    let phase := (s.bytes pa 32).getD 10 0
    let tl := (s.cluster id.cl).tiles[idx16 n]
    let next : Prop := tl.full = false ∧ tl.emptied ≤ s.ptick ∧ s.givenTo id.cl n = none ∧ (∀ y ∈ s.tileWriters id.cl n, id.key ≤ y.key) ∧
      ∀ y, s.nextFill id.cl n = some y → id.key < y.by_.key
    waits (.tile n true) (.tileWaitResume id) (tl.full = true) (back (d.cycleOf s.ptick + 1) tile) ∧
    waits (.tile n false) (.tileWaitResume id) next ((back (d.cycleOf s.ptick + 1) tile).setTile id.cl n { tl with given := some (id, e.pc) }) ∧
    waits (.take win) (.takeRetire id) (w.full.getLsbD w.takePos = true) (back now window) ∧
    (e.status = .blocked (.takeEnds win r) since →
      (s.ptick < d.tickOf r → exec (.takeRetire id) s = .next s) ∧
      (d.tickOf r ≤ s.ptick → ∃ t, exec (.takeRetire id) s = .next t ∧ t = { s with engines := t.engines, dies := t.dies } ∧
        t.eng id = { e with status := .running, nextIssue := max now since, fbNow := window e.fbNow (max now since - since), consumed := true } ∧
        (w.takePos < 64 → let u := (t.die id.slot).window win
          u.fillPos = w.fillPos ∧ u.takePos = (w.takePos + 1) % max 1 depth ∧
            ∀ j < 64, u.full.getLsbD j = (decide (j ≠ w.takePos) && w.full.getLsbD j)))) ∧
    (s.slotGone (paSlot pa) = false → s.dieUp (paSlot pa) = true → s.poisoned pa 32 = false → waits (.barrier (some pa) va cls x) (.barWaitReread id) (phase.toNat % 2 ≠ x.toNat % 2) (back now other)) ∧
    (s.slotGone (paSlot pa) = true → e.status = .blocked (.barrier (some pa) va cls x) since → exec (.barWaitReread id) s = .next (gone va)) ∧
    (s.slotGone (paSlot pa) = true → e.status = .blocked (.wait (some pa) va cls n x) since → exec (.waitReread id) s = .next (gone va)) ∧
    waits (.xwait t n x) (.xwaitRetire id) (x.toNat ≤ ((s.eng t).chans[idx4 n]).xdone.toNat) (back now other) ∧
    waits (.channel n) (.channelSlotResume id) (k.out.length < 16 ∧ k.chain = .idle) (back now other)

/-- R35-R38, R390, R395: an engine stands at its header until each partner has retired the section its dependency names; then it is in the
next section. A header inside a region, past an inhibited handler's section, or with a wrong number is refused. A section retires once
what it issued has landed and performed at cluster scope; a notify when its release has performed at its scope. Logs 32, 41 and 45 say what the model chose here. -/
def Obligations.SectionResults : Prop :=
  ∀ (s : State) (id : EngId) (w0 w1 : Word32) (p : SecPend) (rest : List SecPend) (scope : Nat),
    let e0 := s.eng id
    let e := s.reachEnd id e0
    let u := { s with cur := id }
    let h := e.secNum.toNat
    let num : Nat := w0.toNat / 4 % 2 ^ 14
    let len := w0.toNat / 2 ^ 16
    let next := if (h + 1) % 256 = 0 then h + 2 else h + 1
    let pc := e.pc.toNat
    let waiting (why : Block) (e : Engine) : Prop := ∃ since, e.status = .blocked why since
    let due : Prop := (e.started = false ∨ pc = (u.bounds id e).2) ∧ (u.engineDue id e = true ∨ waiting .header e)
    let words : Prop := u.codeWord id e pc = .ok w0 ∧ u.codeWord id e (pc + 1) = .ok w1
    let after (i : Nat) : Nat := w1.toNat / 2 ^ (8 * i) % 256
    let part (i : Nat) : Nat := e.secpart.toNat / 2 ^ (16 * i) % 2 ^ 16
    let partner (i : Nat) : EngId := ⟨id.slot, part i / 32 % 16, part i % 32⟩
    let met (i : Nat) : Prop := after i = 0 ∨ part i < 2 ^ 15 ∨
      ∀ D : Int, (num : Int) - 128 ≤ D → D ≤ (num : Int) + 127 → D % 256 = (after i : Int) → D ≤ ((s.eng (partner i)).sret.toNat : Int)
    let sound : Prop := due ∧ words ∧ e.region = none ∧ (chkInh e.chksb = false ∨ pc = e.secEnd) ∧ h ≠ 16383 ∧ w0.toNat % 4 = 3 ∧ num = next
    let bad (cause detail : Nat) : Prop := exec (.sectionHeaderPass id) s =
      .next (takeException u id ((e.replayAt e.nextIssue).settle e.nextIssue) e.nextIssue cause detail ((e.replayAt e.nextIssue).settle e.nextIssue).pc)
    let expects (reason : Nat) : Nat := next % 65536 * 65536 + reason
    (sound → u.teamStateOf e = some .running → (∀ i < 4, met i) → ∃ t, exec (.sectionHeaderPass id) s = .next t ∧ t = { u with engines := t.engines } ∧
      let v := t.eng id
      v.started = true ∧ v.secNum.toNat = num ∧ v.secStart = pc + 2 ∧ v.secEnd = pc + 2 + len ∧ v.pc = e.pc + 2 ∧ v.status = .running ∧
        v.secPend = e.secPend ∧ v.sret = e.sret ∧ e.sameRegs v) ∧
    (sound → u.teamStateOf e = some .running → ¬ (∀ i < 4, met i) → ∃ t, exec (.sectionHeaderPass id) s = .next t ∧
      t = { u with engines := t.engines } ∧ waiting .header (t.eng id) ∧ (t.eng id).pc = e.pc ∧ (t.eng id).secNum = e.secNum) ∧
    (¬ due → exec (.sectionHeaderPass id) s = .next u) ∧
    (due → words → (e.region ≠ none → bad 0x0002 (opDetail 3 0 0xFF 7)) ∧
      (e.region = none → (chkInh e.chksb = false ∨ pc = e.secEnd) → h ≠ 16383 →
        (w0.toNat % 4 ≠ 3 → bad 0x000A (expects 2)) ∧ (w0.toNat % 4 = 3 → num ≠ next → bad 0x000A (expects 3)))) ∧
    (e0.secPend = p :: rest →
      let done : Prop := p.landBy ≤ s.cycleNow id.cl ∧
        (∀ n ∈ p.accs, (∀ a ∈ s.accesses, a.id = n → s.performedAt a 1 = true) ∧ (∀ r ∈ s.replies, r.id ≠ n) ∧ (∀ x ∈ (s.cluster id.cl).fills, x.id ≠ n) ∧
          ∀ y ∈ e0.transfers, y.uid ≠ n) ∧ ∀ g ∈ e0.groups, ¬ (g.taken = true ∧ g.done = false)
      (¬ done → exec (.sectionRetire id) s = .next s) ∧
      (done → ∃ t, exec (.sectionRetire id) s = .next t ∧ t = { s with engines := t.engines, clusters := t.clusters, nextId := s.nextId + 1 } ∧
        (t.eng id).sret = p.secNum ∧ (t.eng id).secPend = rest ∧ (t.eng id).pc = e0.pc ∧ e0.sameRegs (t.eng id))) ∧
    (e0.secPend = [] → e0.status = .notifying scope →
      let released : Prop := s.releasable id s.nextId [] scope = true ∧ (∀ r ∈ s.replies, r.eng ≠ id) ∧ e0.follow = [] ∧
        e0.mtxUntil ≤ s.cycleNow id.cl ∧ ∀ q : Fin 8, e0.zLand[q] ≤ s.cycleNow id.cl
      (released → exec (.sectionRetire id) s = .next (s.setEng id { e0 with status := .finished })) ∧
      (¬ released → exec (.sectionRetire id) s = .next s))

/-- R35-R38, R193: the two events of sections complete, on conditions of the state alone. An engine that runs, in a team that runs, at a due header
with the next section's number and no partner passes it: it is in that section, its counters' entry opened, and nothing else has
changed. The oldest section an engine has left, all that it issued performed, retires: SRET is its number. A notify whose
engine has nothing under way and has seen no write of another finishes it. -/
def Obligations.SectionEventsComplete : Prop :=
  ∀ (s : State) (id : EngId) (w0 w1 : Word32) (p : SecPend) (rest : List SecPend) (scope : Nat),
    let e := s.eng id
    let u := { s with cur := id }
    let pc := e.pc.toNat
    let num := BitVec.ofNat 14 (w0.toNat / 4)
    let entry := { FbEntry.reset with secNum := num }
    (e.status = .running → e.follow = [] → (s.dom id.cl).tickOf e.nextIssue ≤ s.ptick → u.teamStateOf e = some .running → e.sret = e.secNum →
      e.started = false ∨ pc = (u.bounds id e).2 → e.region = none → chkInh e.chksb = false → e.secpart = 0 →
      u.codeWord id e pc = .ok w0 → u.codeWord id e (pc + 1) = .ok w1 → w0.toNat % 4 = 3 → e.secNum.toNat < 16383 →
      num.toNat = (if (e.secNum.toNat + 1) % 256 = 0 then e.secNum.toNat + 2 else e.secNum.toNat + 1) → e.fbNow.secNum = e.secNum →
      exec (.sectionHeaderPass id) s = .next (u.setEng id { e with
        started := true, secNum := num, secStart := pc + 2, secEnd := pc + 2 + w0.toNat / 2 ^ 16, pc := e.pc + 2, hdrCycle := e.nextIssue,
        progBase := 0, hdrStamp := s.nextId, fbDone := (if e.started = true then e.fbDone ++ [e.fbNow] else e.fbDone), fbNow := entry })) ∧
    (e.secPend = p :: rest → p.landBy ≤ s.cycleNow id.cl → p.accs = [] → e.groups = [] → e.deadl = none →
      exec (.sectionRetire id) s = .next ((s.retireSaves id p.secNum).setEng id { e with sret := p.secNum, secPend := rest })) ∧
    (e.secPend = [] → e.status = .notifying scope → s.accesses = [] → s.pushes = [] → s.pieces = [] → s.replies = [] → e.transfers = [] →
      e.stores = [] → e.follow = [] → e.mtxUntil ≤ s.cycleNow id.cl → (∀ q : Fin 8, e.zLand[q] ≤ s.cycleNow id.cl) →
      exec (.sectionRetire id) s = .next (s.setEng id { e with status := .finished }))

/-! ## Arrivals -/

/-- R24-R27, R45, R100-R102, R374, R403, R407: a reply writes its engine's registers, which wait for it no longer; one of an earlier incarnation is
counted and dropped, also one that nobody waits for any more. An entry of a merge buffer is sent after 8 ticks without a join, at 64 operations, or for a release, and the k-th
requester of a combined fetch gets the value it would have seen alone, if it fetches. A walk that ends is cached for the accesses that wait, or faults
them.

R23, R40, R107, R141, R261, R262, R403, R408: the first push of a route is sent, one after another, each piece to land after the path's latency and
the ticks of the bytes before it. A piece takes the next slot of its window in ring order and fills it; on a full slot nothing is written
and its team faults with schedule violation; a slot that answers no traffic takes none. Logs 23 and 42 say what the model chose here. -/
def Obligations.ArrivalsLand : Prop :=
  (∀ (s : State) (id slot page fr l : Nat) (incarn : BitVec 16) (r : Reply) (m : MergeEntry) (x : Crossing) (v : Word) (w : Walk) (a : Access)
     (rights : Rights) (f : MemFault) (pas : List (Nat × Nat)) (stray : BitVec 16 × Nat),
     let d := s.die slot
     let rest := s.replies.filter fun q => q.id != id
     let e := s.eng r.eng
     let sent : Prop := m.last + 8 ≤ s.ptick ∨ 64 ≤ m.parts.length ∨ m.sealedBy ≠ [] ∨ (64 < d.merge.length ∧ d.merge.head? = some m)
     let share (k : Nat) : Word := (x.entry.parts.take k).foldl (fun v p => atomicNew { x.entry.req with opnd := p.opnd } v) v
     let walks := { d with walks := d.walks.filter fun y => !(y.page == page && y.asid == w.asid) }
     let cached := s.setDie slot { walks with
       cache := d.cache.filter (fun c => !(c.asid == w.asid && c.page == page)) ++ [⟨w.asid, page, fr, rights, l⟩] }
     (s.replies.find? (fun q => q.id == id) = some r →
       (s.ptick < r.due → exec (.variableLatencyResult id) s = .next s) ∧
       (r.due ≤ s.ptick → s.dieUp r.eng.slot = false → exec (.variableLatencyResult id) s = .next { s with replies := rest }) ∧
       (r.due ≤ s.ptick → s.dieUp r.eng.slot = true → r.incarn ≠ (s.die r.eng.slot).incarn → exec (.variableLatencyResult id) s = .next s) ∧
       (r.due ≤ s.ptick → s.dieUp r.eng.slot = true → r.incarn = (s.die r.eng.slot).incarn →
         exec (.variableLatencyResult id) s = .next ({ s with replies := rest }.setEng r.eng
           { r.writes.foldl Engine.landOne (e.settle (if e.standing = true then min (s.cycleNow r.eng.cl) e.nextIssue else s.cycleNow r.eng.cl)) with
             inter := e.inter.filter fun p => p.2 != id }))) ∧
     (s.replies.find? (fun q => q.eng.slot == slot && q.incarn == incarn && decide (q.due ≤ s.ptick)) = some r →
       (incarn ≠ d.incarn → s.dieUp slot = true → exec (.staleResponseDiscard slot incarn) s = .next
         ({ s with replies := s.replies.filter fun q => q.id != r.id }.setDie slot
           { d with stale := if d.stale.toNat = 2 ^ 32 - 1 then d.stale else d.stale + 1 })) ∧
       (incarn = d.incarn → exec (.staleResponseDiscard slot incarn) s = .next s)) ∧
     (s.replies.find? (fun q => q.eng.slot == slot && q.incarn == incarn && decide (q.due ≤ s.ptick)) = none →
       let met := d.strays.find? fun y => y.1 == incarn && decide (y.2 ≤ s.ptick)
       (met = none → exec (.staleResponseDiscard slot incarn) s = .next s) ∧
       (met = some stray → exec (.staleResponseDiscard slot incarn) s = .next (s.setDie slot { d with
         strays := d.strays.erase stray
         stale := if incarn ≠ d.incarn ∧ s.dieUp slot = true ∧ d.stale.toNat ≠ 2 ^ 32 - 1 then d.stale + 1 else d.stale }))) ∧
     (d.merge.find? (fun q => q.id == id) = some m → (d.merge.head?.map (·.id) = some m.id → d.merge.head? = some m) →
       (¬ sent → exec (.mergeEntrySend slot id) s = .next s) ∧
       (sent → ∃ t c, exec (.mergeEntrySend slot id) s = .next t ∧
         t = { s.setDie slot { d with merge := d.merge.filter fun q => q.id != id } with
           crossings := s.crossings ++ [c], fresh := s.fresh + 1, nextId := s.nextId + 1 } ∧
         c.entry = m ∧ c.slot = slot ∧ c.ret = none ∧ s.ptick < c.due)) ∧
     (s.crossings.find? (fun q => q.id == id) = some x → x.ret = some v →
       (s.ptick < x.due → exec (.fetchReplySplit id) s = .next s) ∧
       (x.due ≤ s.ptick → ∃ t, exec (.fetchReplySplit id) s = .next t ∧
         t = { s with crossings := s.crossings.filter (fun q => q.id != id), accesses := t.accesses, replies := t.replies } ∧
         (∀ q, q ∈ t.accesses ↔ q ∈ s.accesses ∧ ∀ p ∈ x.entry.parts, p.acc ≠ q.id) ∧ (∀ q ∈ s.replies, q ∈ t.replies) ∧
         ∀ k (h : k < x.entry.parts.length), ∀ q, s.accesses.find? (fun y => y.id == (x.entry.parts[k]).acc) = some q → q.fetches = true →
           (⟨q.id, q.eng, q.incarn, optWrite (q.fetchDst.write (zext80 (share k))), s.ptick⟩ : Reply) ∈ t.replies)) ∧
     (d.walks.find? (fun y => y.page == page && decide (y.due ≤ s.ptick)) = some w →
       (s.walk w.homeBd w.asid page = .page fr rights l →
         (s.untranslated slot = [] → exec (.pageWalkComplete slot page) s = .next cached) ∧
         (s.untranslated slot = [a] → a.orderedHome = none → cached.resolveAll a.eng (s.eng a.eng) a.need a.winKind a.vas = .ok (pas, none) →
           mergesTo a.eng.slot a.op pas = none → exec (.pageWalkComplete slot page) s = .next { cached with
             accesses := s.accesses.map fun q => if q.id = a.id then { a with pas := a.op.units pas } else q })) ∧
       (s.walk w.homeBd w.asid page = .bad f → s.untranslated slot = [a] → (s.eng a.eng).asid = w.asid → (s.setDie slot walks).missOf a = some page →
         ∃ t ev, exec (.pageWalkComplete slot page) s = .next t ∧ t.faults = s.faults ++ [ev] ∧ ev.cause = f.cause ∧
           ev.detail = BitVec.ofNat 64 f.detail ∧ ev.eng = some a.eng ∧ ev.addrValid = true ∧ (t.eng a.eng).status = .stopped ∧
           ∀ q ∈ t.accesses, q.id ≠ a.id))) ∧
  (∀ (s : State) (slot route id : Nat) (p : PushReq) (q : Piece),
     let d := s.die slot
     let r := d.routeOf route
     let dst := routeSlot r
     let win := routeWindow r
     let m := max 1 (routeModules r)
     let size := winSlotBytes ((s.die dst).wincfgOf win)
     let u := max p.issue (d.routeFree.getD route 0)
     let n := (p.pieces.map (·.length)).sum
     let go (s' : State) : Prop := exec (.pushSendStart slot route) s = .next s'
     let land (s' : State) : Prop := exec (.pushPieceLand id) s = .next s'
     let w := (s.die q.dst).window q.win
     let pa := slotPa q.dst q.win w.fillPos
     let others := s.pieces.filter fun y => y.id != id
     (s.firstPush slot route = some p →
       (u ≤ s.ptick → p.issue < s.ptick → ∃ t, go t ∧
         t = { s.setDie slot { d with routeFree := d.routeFree.put route (u + ceilDiv n (384 * m)) } with
           pushes := s.pushes.filter fun y => y.id != p.id, pieces := t.pieces, nextId := s.nextId + p.pieces.length } ∧
         t.pieces.take s.pieces.length = s.pieces ∧ t.pieces.length = s.pieces.length + p.pieces.length ∧
         ∀ k (h : k < p.pieces.length) (h' : s.pieces.length + k < t.pieces.length), let y := t.pieces[s.pieces.length + k]
           y.dst = dst ∧ y.win = win ∧ y.data = p.pieces[k] ∧ y.eng = p.eng ∧
             y.land = u + pathLatency slot dst + ceilDiv (min n ((k + 1) * size)) (384 * m) - 1) ∧
       (s.ptick < u → go s)) ∧
     (s.pieces.find? (fun y => y.id == id) = some q →
       (s.ptick < q.land → land s) ∧
       (q.land ≤ s.ptick → s.slotGone q.dst = true → land { s with pieces := others }) ∧
       (q.land ≤ s.ptick → s.slotGone q.dst = false → w.fillPos < 64 → w.full.getLsbD w.fillPos = false → ∃ t, land t ∧
         t = { s with pieces := others, mem := t.mem, poison := t.poison, written := t.written, dies := t.dies } ∧
         (∀ a, byteAt t.mem a = if pa ≤ a ∧ a < pa + q.data.length then q.data.getD (a - pa) 0 else byteAt s.mem a) ∧
         (let v := (t.die q.dst).window q.win
          v.takePos = w.takePos ∧ v.fillPos = (w.fillPos + 1) % max 1 (winDepth ((s.die q.dst).wincfgOf q.win)) ∧
            ∀ j < 64, v.full.getLsbD j = (decide (j = w.fillPos) || w.full.getLsbD j)) ∧
         ∀ k, k ≠ q.win → (t.die q.dst).window k = (s.die q.dst).window k) ∧
       (q.land ≤ s.ptick → s.slotGone q.dst = false → w.full.getLsbD w.fillPos = true → ∃ ev, land { s with pieces := others, faults := s.faults ++ [ev] } ∧
         ev.cause = 0x0201 ∧ ev.detail = BitVec.ofNat 64 (1 + q.win * 2 ^ 8 + w.fillPos * 2 ^ 16 + q.eng.slot * 2 ^ 24) ∧
         ev.eng = some q.eng ∧ ev.seq = q.seq ∧ ev.team = q.team ∧ ev.after = .stop)) ∧
     (pathLatency slot slot = 8 ∧ (slot / 9 ≠ dst / 9 → slot < 36 → dst < 36 → pathLatency slot dst = 64)))

/-! ## Images, tables and the host -/

/-- R98, R103, R104, R309, R310, R454: opening a slot zeroes its aperture, which takes writes while it loads. A commit that its checks pass seals the
image's hash and its promise; another leaves the slot in error. A slot with tasks is not unloaded. An invalidate drops the translations
it names on every die, and those of sleeping waits, and may set a root table's entry. A shape entry waits for the courses to end, under the writer's tag; SHAPEBASE and a
BD's cache size are set between courses. Logs 19, 41, 48 and 51 say what the model chose here. -/
def Obligations.ImagesAndTables : Prop :=
  ∀ (s : State) (i off asid slot index fn : Nat) (bs : List Byte) (base limit : Addr) (v : Word) (x : PatternTables) (root : Option (Nat × Nat))
    (where_ : Option Nat),
    let m := s.image i
    let pa := imagePa i 0
    let set (f : ImageSlot → ImageSlot) : State := { s with images := s.images.put i (f m) }
    let running : Prop := ∃ l ∈ s.launches, l.state = .inCourse
    let id := BitVec.ofNat 16 asid
    let named (c : CachedPage) : Prop := c.asid = id ∧ base.toNat / 4096 ≤ c.page ∧ c.page ≤ limit.toNat / 4096
    let tag : BitVec 16 := if isTdi fn = true ∧ (s.tdi fn).state = .run then (s.tdi fn).tenant else 0
    let entry : List Byte := bs.take 16 ++ bytesOf 2 tag.toNat ++ bs.drop 18
    let holds : Prop := (∃ l ∈ s.launches, l.image = i) ∨ m.framesHeld ≠ 0
    let placed : State := match where_ with
      | some b => { s with mgmt := { s.mgmt with shapebase := BitVec.ofNat 64 (b % 2 ^ 56 / 64 * 64) } }
      | none => s
    (i < 64 → m.state = 0 ∨ m.state = 3 → ∃ t, exec (.imageOpen i) s = .next t ∧ t = { s with images := t.images, mem := t.mem, poison := t.poison, written := t.written } ∧
      (t.image i).state = 1 ∧ (t.image i).lstat = m.lstat ∧
      (∀ a, byteAt t.mem a = if pa ≤ a ∧ a < pa + 0x400000 then 0 else byteAt s.mem a) ∧
      ∀ a, a ∈ t.poison ↔ a ∈ s.poison ∧ ¬ (pa ≤ a ∧ a < pa + 0x400000)) ∧
    (m.state = 1 ∨ m.state = 2 → exec (.imageOpen i) s = .next s) ∧
    (i < 64 → m.state = 1 → off + bs.length ≤ 0x400000 → ∃ t, exec (.imageApertureWrite i off bs x) s = .next t ∧
      t = { set (fun m => { m with inits := m.inits ++ x.inits, banks := m.banks ++ x.banks, groups := m.groups ++ x.groups }) with
        mem := t.mem, poison := t.poison, written := t.written } ∧ t.bytes (pa + off) bs.length = bs ∧
      ∀ a, a < pa + off ∨ pa + off + bs.length ≤ a → byteAt t.mem a = byteAt s.mem a) ∧
    (m.state ≠ 1 → exec (.imageApertureWrite i off bs x) s = .next s ∧ exec (.imageCommit i) s = .next s) ∧
    (i < 64 → m.state = 1 → s.imageOk i = false → exec (.imageCommit i) s = .next (set fun m => { m with state := 3 })) ∧
    (i < 64 → m.state = 1 → s.imageOk i = true → ∃ t, exec (.imageCommit i) s = .next t ∧
      t = { s with images := t.images, mem := t.mem, poison := t.poison, written := t.written } ∧ (t.image i).state = 2 ∧
      t.bytes (imagePa i 96) 32 = sha256 ((t.bytes pa (t.img i 0 4)).take 96 ++ List.replicate 32 0 ++ (t.bytes pa (t.img i 0 4)).drop 128) ∧
      (t.img i 88 1 = 1 ↔ ∀ p ∈ s.allStreams i, s.streamReproducible i p.1 p.2 = true)) ∧
    (m.state = 0 → exec (.imageUnload i) s = .next s) ∧
    (i < 64 → m.state ≠ 0 → (holds → exec (.imageUnload i) s = .next (set fun m => { m with lstat := BitVec.ofNat 64 (m.lstat.toNat / 256 * 256 + 1) })) ∧
      (¬ holds → exec (.imageUnload i) s = .next (set fun m => { m with state := 0 }))) ∧
    (s.accesses = [] → s.crossings = [] → (∀ k, ∀ x ∈ (s.die k).merge, x.parts ≠ []) →
      ∃ t, exec (.translationInvalidate asid base limit root) s = .next t ∧ t = { s with dies := t.dies, engines := t.engines } ∧
      (∀ j, t.eng j = if (s.eng j).asid = id then (s.eng j).unread base limit else s.eng j) ∧
      ∀ k < 37, let d := s.die k
        t.die k = { d with cache := (t.die k).cache, ranges := (t.die k).ranges, roots := (t.die k).roots } ∧
        (t.die k).roots = (match root with
          | some (b, at_) => if b = k ∧ dieKind k = some .bd then d.roots.put (asid % 65536) (at_ % 2 ^ 56 / 0x20000 * 0x20000) else d.roots
          | none => d.roots) ∧
        (∀ c, c ∈ (t.die k).cache ↔ c ∈ d.cache ∧ ¬ named c) ∧ ((∀ r ∈ d.ranges, r.asid ≠ id) → (t.die k).ranges = d.ranges)) ∧
    (index < 65536 → bs.length = 64 →
      (running → exec (.shapeTableWrite index fn bs where_) s = .next { s with mgmt := { s.mgmt with shapePend := s.mgmt.shapePend ++ [(index, entry)] } }) ∧
      (¬ running → s.mgmt.shapePend = [] → ∃ t, exec (.shapeTableWrite index fn bs where_) s = .next t ∧
        t = { placed with mem := t.mem, poison := t.poison, written := t.written } ∧ t.bytes (placed.shapePa index) 64 = entry ∧
        ∀ a, a < placed.shapePa index ∨ placed.shapePa index + 64 ≤ a → byteAt t.mem a = byteAt s.mem a)) ∧
    (dieKind slot = some .bd → v.toNat % 32 ≤ 16 →
      (running → exec (.bdcfgWrite slot v) s = .next s) ∧
      (¬ running → exec (.bdcfgWrite slot v) s = .next (s.setDie slot { s.die slot with bdcfg := BitVec.ofNat 64 (v.toNat % 32) })))

/-- R4, R12, R342, R347, R352, R353, R372, R438, R446, R455: a host request that the tables admit reads or writes its bytes and is completed; one they deny is
counted in DENYLOG and completed as unsupported, as one of an address that maps nothing is; one that IDE refuses has no effect; what a TDI in ERROR
is bound to reads as all ones, and a function that does not exist gets unsupported. A write
of a management register acts on the fields that R4 lets it change, and bounds PCAP. Logs 30, 43 and 48 say what the model chose here. -/
def Obligations.HostRequests : Prop :=
  ∀ (s : State) (h : HostReq) (bs : List Byte) (v : Word) (slot k : Nat) (r : MReg),
    let pa := h.pa.toNat
    let q : HostReq := { h with len := bs.length }
    let up : Prop := (s.die 36).phase ≠ .lost
    let ide : Prop := h.ide = none ∧ h.stream ∉ s.trust.ideOn
    let master := s.hostMaster h.fn
    let memory : Prop := match placeOf pa with | .mgmt _ => False | .sched _ => False | _ => True
    let ready (h : HostReq) (data : Option (List Byte)) : Prop := s.hostReady ⟨h, data, s.ptick⟩ = true ∧ s.slotGone (paSlot pa) = false
    let open_ (h : HostReq) : Prop := s.hostShut h = false
    let ends (s' : State) (h : HostReq) (how : Completion) (bytes : List Byte) : State :=
      if h.posted = true then s' else { s' with outbox := s'.outbox ++ [Output.completion h how bytes] }
    let counted : State := { s with mgmt := { s.mgmt with
      denylog := BitVec.ofNat 64 (min (s.mgmt.denylog.toNat / 2 ^ 32 + 1) 0xFFFFFFFF * 2 ^ 32 + master.toNat * 2 ^ 16 + paSlot pa * 2 ^ 8) } }
    let write (off : Nat) (s' : State) : Prop := exec (.registerWrite off v) s = .next s'
    let mgmt (f : Mgmt → Mgmt) : State := { s with mgmt := f s.mgmt }
    let gov (f : Gov → Gov) : State := { s with gov := f s.gov }
    (up → 16 < h.fn → exec (.hostRead h) s = .next (ends s h .unsupported []) ∧ exec (.hostWrite h bs) s = .next (ends s q .unsupported [])) ∧
    (up → h.fn ≤ 16 → ide → open_ h → open_ q →
      (s.hostJudge master rRead pa h.len = .ok → memory → ready h none → s.poisoned pa h.len = false →
        exec (.hostRead h) s = .next (ends s h .success (s.view .host pa h.len))) ∧
      (s.hostJudge master rRead pa h.len = .denied → isTdi h.fn = false → exec (.hostRead h) s = .next (ends counted h .unsupported [])) ∧
      (s.hostJudge master rRead pa h.len = .unmapped → exec (.hostRead h) s = .next (ends s h .unsupported [])) ∧
      (s.hostJudge master rRead pa h.len = .ok → isTdi h.fn = false → pa % 8 = 0 → h.len = 8 → placeOf pa = .mgmt (paOff pa) → mregAt (paOff pa) = some r →
        exec (.hostRead h) s = .next (ends s h .success (bytesOf 8 (s.readReg r).toNat))) ∧
      (s.hostJudge master rWrite pa bs.length = .ok → memory → ready q (some bs) → s.poison = [] →
        ∃ t, exec (.hostWrite h bs) s = .next (ends t q .success []) ∧ t = { s with mem := t.mem, written := t.written } ∧
          ∀ a, byteAt t.mem a = if pa ≤ a ∧ a < pa + bs.length then bs.getD (a - pa) 0 else byteAt s.mem a) ∧
      (s.hostJudge master rWrite pa bs.length = .denied → isTdi h.fn = false → exec (.hostWrite h bs) s = .next (ends counted q .unsupported [])) ∧
      (s.hostJudge master rWrite pa bs.length = .unmapped → exec (.hostWrite h bs) s = .next (ends s q .unsupported []))) ∧
    (up → h.fn ≤ 16 → ide → s.hostShut h = true → exec (.hostRead h) s = .next (ends s h .success (List.replicate h.len 0xFF))) ∧
    (h.fn ≤ 16 → h.ide = some false ∨ (h.ide = some true ∧ 8 < h.stream) ∨ (h.ide = none ∧ h.stream ∈ s.trust.ideOn) → exec (.hostRead h) s = .next s ∧ exec (.hostWrite h bs) s = .next s) ∧
    (mregAt k = none → write k s) ∧
    (∀ o ∈ [0x80000000, 0x80000028, 0x80000030, 0x80000100, 0x80130140, 0x80140008, 0x80150800], write o s) ∧
    write 0x80130000 (gov fun g => { g with govcfg := v &&& 0xFFFFFFFF00FFFF03 }) ∧
    write 0x80130010 (gov fun g => { g with drisk := g.drisk &&& ~~~(v &&& 3) }) ∧
    write 0x80140028 (mgmt fun m => { m with spillbase := v &&& 0xFFFFFFFFFFFFF000 }) ∧
    write 0x80150000 (mgmt fun m => { m with flog := v &&& 0x00FFFFFFFFFFF00F }) ∧
    write 0x80150008 (mgmt fun m => { m with fltcfg := (m.fltcfg &&& ~~~0xFFFF0001) ||| (v &&& 0xFFFF0001) }) ∧
    write 0x80151000 (mgmt fun m => { m with fresp0 := v }) ∧
    write 0x80130008 (gov fun g => { g with pcap := BitVec.ofNat 64 (max 1000 (min 8400 (v.toNat % 2 ^ 16))) }) ∧
    exec (.pcapWrite v) s = .next (gov fun g => { g with pcap := BitVec.ofNat 64 (max 1000 (min 8400 (v.toNat % 2 ^ 16))) }) ∧
    (slot ≤ 36 → v.toNat % 256 = 0 → exec (.tripcauseWrite slot v) s = .next (s.setDie slot { s.die slot with tripCause := 0 })) ∧
    (v.toNat % 256 ≠ 0 → exec (.tripcauseWrite slot v) s = .next s)

/-! ## Tasks, courses and launches -/

/-- R315-R320, R323-R325, R368, R415: a trigger is turned away with its code in LSTAT when its image is not ready, its queue or both frames are
full, or its patch list is bad; else the block is copied and patched in the lower free frame and the task joins its queue. The first message
for its tag belongs to what is armed after its tick: it takes the lowest buffer no live launch holds and fires its armed launch, waits while
there is none or the queue is full, and is refused when nothing is armed. The best head is selected; a selected task is refused with its code, or waits for dies, or is bound by the placement,
its range list on every die. Logs 20, 35, 47 and 59 say what the model chose here. -/
def Obligations.TasksStart : Prop :=
  ∀ (s : State) (i slot seq k : Nat) (v : Word) (m : Message) (r : Receipt) (a : Armed) (l : Launch) (h : Head),
    let img := s.image i
    let room (q : Nat) : Prop := (s.launches.filter fun l => l.queue == q && l.state == .queued).length < 64
    let noted (t : State) (seq status : Nat) (frames : BitVec 2) : Prop := (∀ j, j ≠ i → t.image j = s.image j) ∧
      t.image i = { img with
        ltrig := v &&& 0x00FFFFFFFFFFFFC1, framesHeld := frames,
        lstat := BitVec.ofNat 64 (seq % 2 ^ 48 * 2 ^ 16 + frames.toNat * 2 ^ 8 + status) }
    let turned (code : Nat) : Prop := ∃ t, exec (.launchTrigger i v) s = .next t ∧ t = { s with images := t.images } ∧ noted t 0 code img.framesHeld
    let f : Nat := if img.framesHeld.getLsbD 0 then 1 else 0
    let block := s.bytes (imagePa i (s.paramOff i)) (s.paramLen i)
    let d := s.die slot
    let first : Prop := (d.messages.find? fun x => x.msg.tag == m.tag) = some r ∧ r.msg = m
    let armed : Option (Option Armed) := match r.entry with
      | some x => some x
      | none => if r.tick < s.ptick then some (d.armed.find? fun x => x.tag == m.tag) else none
    let d1 := d.resolve s.ptick
    let seen : State := s.setDie slot d1
    let d2 : Die := { d1 with messages := d1.messages.erase { r with entry := armed } }
    let gone : State := s.setDie slot d2
    let refused : State := gone.fault (teamEv gone 0 0 0x0208 (m.tag.toNat + m.src.toNat * 2 ^ 16) 1 slot)
    let buf (j : Nat) : Nat := a.bufPa + j * a.bufSize
    let held (j : Nat) : Prop := ∃ x ∈ s.launches, ∃ n tag len src va, x.task = .net n tag (buf j) len src va
    let ready : Prop := s.launch seq = some l ∧ l.state = .selected
    let free : Option (List (Nat × Nat) × List (Nat × Nat)) := s.place l.image (s.freeSlot seq)
    let code : Option Nat := s.refusal l.image
    (i < 64 →
      (img.state ≠ 2 → turned 2) ∧
      (img.state = 2 → ¬ room img.queue.toNat ∨ img.framesHeld = 3 → turned 1) ∧
      (img.state = 2 → room img.queue.toNat → img.framesHeld ≠ 3 →
        (s.patches i v = none → turned 3) ∧
        ∀ ps, s.patches i v = some ps → ∃ t, exec (.launchTrigger i v) s = .next t ∧
          t = { s with images := t.images, mem := t.mem, poison := t.poison, written := t.written, launches := t.launches, nextSeq := s.nextSeq + 1 } ∧
          noted t s.nextSeq 0 (img.framesHeld ||| (1 : BitVec 2) <<< f) ∧
          t.mem = ps.foldl (fun b p => writeBytes b (s.framePa i f + p.1) p.2) (writeBytes s.mem (s.framePa i f) block) ∧
          t.launches = s.launches ++ [Launch.fresh s.nextSeq i (.host f) img.queue.toNat s.ptick])) ∧
    (first → armed = none → exec (.messageReceipt slot m) s = .next seen) ∧
    (first → armed = some none → exec (.messageReceipt slot m) s = .next { refused with outbox := refused.outbox ++ [Output.refusal m] }) ∧
    (first → armed = some (some a) → (∀ j < a.nbuf, held j) ∨ ¬ room a.queue → exec (.messageReceipt slot m) s = .next seen) ∧
    (first → armed = some (some a) → k < a.nbuf → ¬ held k → (∀ j < k, held j) → room a.queue → ∃ t, exec (.messageReceipt slot m) s = .next t ∧
      t = { s with dies := t.dies, mem := t.mem, poison := t.poison, written := t.written, launches := t.launches, nextSeq := s.nextSeq + 1 } ∧
      t.mem = writeBytes s.mem (buf k) m.payload ∧
      t.die slot = (if a.oneShot = true then d2.usedUp a else d2) ∧ (∀ j, j ≠ slot → t.die j = s.die j) ∧
      t.launches = s.launches ++
        [Launch.fresh s.nextSeq a.image (.net slot m.tag (buf k) m.payload.length m.src (a.bufVa + k * a.bufSize)) a.queue s.ptick]) ∧
    ((∀ x ∈ d.messages, x.msg.tag ≠ m.tag) → exec (.messageReceipt slot m) s = .next s) ∧
    (s.bestHead = some h → h.team = none → (∀ x ∈ s.launches, x.state = .selected → x.prio < h.prio) →
      exec .taskSelect s = .next (s.updLaunch h.seq fun l => { l with state := .selected, prio := h.prio })) ∧
    (s.bestHead = some h → (∃ x ∈ s.launches, x.state = .selected ∧ h.prio ≤ x.prio) → exec .taskSelect s = .next s) ∧
    (ready → ∀ c, code = some c → exec (.taskBind seq) s = .next ((s.report l 0 36 0 c).endLaunch l)) ∧
    (ready → code = none → (s.place l.image fun _ => true) = none → exec (.taskBind seq) s = .next ((s.report l 0 36 0 0x10).endLaunch l)) ∧
    (ready → code = none → (s.place l.image fun _ => true) ≠ none → free = none → exec (.taskBind seq) s = .next s) ∧
    (ready → code = none → (s.place l.image fun _ => true) ≠ none → ∀ qs b, free = some (qs, b) →
      let io := s.ioEngines l.image b
      let asid := BitVec.ofNat 16 (s.lrAsid l.image)
      ((∃ e ∈ io, ∃ x ∈ s.launches, x.seq ≠ seq ∧ e ∈ x.engines) ∨ (∃ p ∈ b, (s.die p.2).barred = true) → exec (.taskBind seq) s = .next s) ∧
      ((∀ e ∈ io, ∀ x ∈ s.launches, x.seq ≠ seq → e ∉ x.engines) → (∀ p ∈ b, (s.die p.2).barred = false) → 0 < s.ncourse l.image →
        ∃ t, exec (.taskBind seq) s = .next t ∧
        t = { s with launches := t.launches, fresh := t.fresh, dies := t.dies, clusters := t.clusters } ∧
        (∀ n ∈ b.map (·.2) ++ [36], t.die n =
          { s.die n with ranges := (s.die n).ranges.filter (fun x => x.asid != asid) ++ s.rangeList l.image asid }) ∧ ∃ l', t.launch seq = some l' ∧ l'.bind = b ∧ l'.quads = qs ∧ l'.engines = io ∧
          l'.state = .walking ∧ l'.next = 0 ∧ l'.task = l.task))

/-- R33, R326, R335, R403, R415: a control entry that is due moves the walk of its launch: a skip by its predicate word, a jump, a call (to eight
levels), a return, a deadline span, a notify's word and vector. The next entry is handled 16 ticks later, a course after a free time; the
walk ends past the last entry. A bad target, a ninth call, a return from nowhere and an unreadable predicate are recorded at the end of the tick,
with a completion record, and the launch is held for abandon. Logs 21 and 47 say what the model chose here. -/
def Obligations.CourseListsWalk : Prop :=
  ∀ (s : State) (seq : Nat) (l : Launch), s.launch seq = some l →
    let E (off n : Nat) : Nat := s.entry l.image l.next off n
    let last := s.ncourse l.image
    let due (kind : Nat) : Prop := l.state = .walking ∧ l.due ≤ s.ptick ∧ l.next < last ∧ E 0 1 = kind ∧ l.waits = false
    let comes (i : Instr) (u : State) (l' : Launch) (goal : Nat) : Prop :=
      (last ≤ goal → exec i s = .next (u.endLaunch l')) ∧
      (goal < last → ∃ t x, exec i s = .next t ∧ t = { u with launches := t.launches, fresh := t.fresh } ∧
        t.launch seq = some { l' with
          state := .walking, next := goal, course := goal, streams := [], teams := [], gauges := [], crcAborts := 0, crcDue := none, due := x } ∧
        (∀ n, n ≠ seq → t.launch n = s.launch n) ∧
        (s.entry l.image goal 0 1 = 1 → s.ptick < x) ∧ (s.entry l.image goal 0 1 = 2 → s.ptick + 16 < x) ∧
        (s.entry l.image goal 0 1 ≠ 1 → s.entry l.image goal 0 1 ≠ 2 → x = s.ptick + 16 ∧ t.fresh = s.fresh))
    let fails (i : Instr) (reason : Nat) : Prop := exec i s = .next
      ((s.fault { teamEv s seq (2 ^ 32 - 1) 0x0206 reason 1 36 with after := .report l [(0, 36 * 16)] 1 }).updLaunch seq
        fun x => { x with state := .heldAnswer false })
    let with_ (l' : Launch) : State := s.updLaunch seq fun _ => l'
    let va := E 6 10
    let skip := l.next + 1 + E 4 2
    (due 2 → va % 8 ≠ 0 ∨ s.launchPa l va rRead = none ∨ (∃ pa, s.launchPa l va rRead = some pa ∧ s.readHd pa 8 = none) → fails (.courseListSkip seq) 4) ∧
    (due 2 → va % 8 = 0 → ∀ pa bs, s.launchPa l va rRead = some pa → s.readHd pa 8 = some bs →
      let hit : Prop := natOf bs &&& E 16 8 ≠ 0
      let skips : Prop := (E 1 1 % 2 = 0 ∧ hit) ∨ (E 1 1 % 2 = 1 ∧ ¬ hit)
      (¬ skips → comes (.courseListSkip seq) s l (l.next + 1)) ∧
      (skips → skip ≤ last → comes (.courseListSkip seq) s l skip) ∧ (skips → last < skip → fails (.courseListSkip seq) 1)) ∧
    (due 3 → (E 4 2 < last → comes (.courseListJump seq) s l (E 4 2)) ∧ (last ≤ E 4 2 → fails (.courseListJump seq) 1)) ∧
    (due 4 → (last ≤ E 4 2 → fails (.courseListCall seq) 1) ∧ (E 4 2 < last → 8 ≤ l.stack.length → fails (.courseListCall seq) 2) ∧
      (E 4 2 < last → l.stack.length < 8 →
        let l' : Launch := { l with stack := (l.next + 1) :: l.stack }
        comes (.courseListCall seq) (with_ l') l' (E 4 2))) ∧
    (due 5 → (l.stack = [] → fails (.courseListReturn seq) 3) ∧ ∀ goal rest, l.stack = goal :: rest →
      comes (.courseListReturn seq) (with_ { l with stack := rest }) { l with stack := rest } goal) ∧
    (due 6 →
      let l' : Launch := { l with span := if E 8 4 = 0 then none else some (s.ptick, E 8 4) }
      comes (.courseListDeadline seq) (with_ l') l' (l.next + 1)) ∧
    (due 7 → ∀ pa, s.launchPa l va rWrite = some pa →
      let rings : List Output := if E 1 1 % 2 = 1 then [.interrupt (E 24 2)] else []
      let u : State := s.store pa (bytesOf 8 (E 16 8))
      u.ncourse l.image = last → (∀ k, u.entry l.image k 0 1 = s.entry l.image k 0 1) →
        comes (.courseListNotify seq) { u with outbox := u.outbox ++ rings } l (l.next + 1)) ∧
    (l.due > s.ptick ∨ l.waits = true → ∀ i ∈ ([.courseListSkip seq, .courseListJump seq, .courseListCall seq, .courseListReturn seq,
      .courseListDeadline seq, .courseListNotify seq, .courseStart seq] : List Instr), exec i s = .next s)

/-- R31-R33, R52, R88, R143, R313, R314, R321, R324, R326, R335, R368, R420: a course starts at T0 once its dies take work: its deadline runs, its streams stand at
their first header with the registers of R321, and the memory of the launch's compute dies reads zero. A group whose streams have all retired
their notify reports one record, the word and the event; the course ends with the last of them, and the walk goes on. A rerun discards
the attempt's partials, writes the restart set back and walks to the same course. Epochs of ended streams close.
Logs 19 and 47 say what the model chose here. -/
def Obligations.CoursesRun : Prop :=
  (∀ (s : State) (seq : Nat) (l : Launch), s.launch seq = some l →
    let k := l.next
    let due : Prop := l.state = .walking ∧ l.due ≤ s.ptick ∧ k < s.ncourse l.image ∧ s.entry l.image k 0 1 = 1 ∧ l.waits = false
    let up : Prop := ∀ p ∈ l.bind, s.dieUp p.2 = true
    let xs := (List.range (s.nstrm l.image k)).map (s.streamOf l k)
    (due → ¬ up → exec (.courseStart seq) s = .next s) ∧
    (due → up → s.mgmt.shapePend = [] → ∃ t x, exec (.courseStart seq) s = .next t ∧ t.launch seq = some x ∧
      x.state = .inCourse ∧ x.course = k ∧ x.next = k + 1 ∧ x.t0 = s.ptick ∧ x.deadline = s.ptick + s.entry l.image k 8 4 ∧ x.span = l.span ∧
      x.streams = xs ∧ x.teams = teamsOf xs ∧ x.bind = l.bind ∧ (∀ n, n ≠ seq → t.launch n = s.launch n) ∧ t.ptick = s.ptick ∧
      ((xs.map (·.eng)).Nodup → ∀ y ∈ xs,
        let e := t.eng y.eng
        let f (off n : Nat) : Nat := s.strm l.image k y.index off n
        e.status = .running ∧ e.pc = 0 ∧ e.secNum = 0 ∧ e.started = false ∧ e.seq = seq ∧ e.team = y.team ∧ e.codeVa = BitVec.ofNat 80 (f 0 10) ∧
          e.secpart = BitVec.ofNat 64 (f 16 8) &&& 0x81FF81FF81FF81FF ∧ e.strmcfg = BitVec.ofNat 64 (f 24 8 % 2) ∧ e.aspace = s.aspaceOf l.image ∧
          e.nextIssue = (s.dom y.eng.cl).cycleFrom s.ptick ∧ e.glob[0] = BitVec.ofNat 64 seq ∧
          (∀ fr, l.task = .host fr → e.a[0] = BitVec.ofNat 80 (s.frameVa l.image fr) ∧ e.a[1] = 0 ∧ e.glob[1] = 0 ∧ e.glob[2] = 0) ∧
          ∀ d tag b len src va, l.task = .net d tag b len src va → e.a[1] = BitVec.ofNat 80 va ∧ e.glob[1] = BitVec.ofNat 64 len ∧
            e.glob[2] = src.setWidth 64) ∧
      ((∀ z ∈ (s.image l.image).inits, z.1 ≠ k) → ∀ p ∈ l.bind, ∀ off,
        (dieKind p.2 = some .md ∨ dieKind p.2 = some .vd) ∧ off < 0x10000000 ∨ dieKind p.2 = some .gd ∧ off < 0x4000000 →
          byteAt t.mem (paOf p.2 off) = 0)) ∧
    (l.state = .rerun → s.lostSlot l = false → ∀ b, s.fullBind l = some b → ∃ t x, exec (.courseRerun seq) s = .next t ∧
      t = { s with launches := t.launches, engines := t.engines, dies := t.dies, clusters := t.clusters, mem := t.mem, poison := t.poison, written := t.written } ∧
      t.launch seq = some { l with state := .walking, bind := b, next := l.course, due := s.ptick + x, streams := [], teams := [], gauges := [] } ∧
      (∀ y ∈ l.streams, (t.eng y.eng).status = .off) ∧ (∀ d, ∀ p ∈ (t.die d).partials, ∀ y ∈ l.streams, y.eng ≠ p.src) ∧
      (l.rstcfg.getLsbD 16 = false → x = 0 ∧ t.mem = s.mem) ∧
      (l.rstcfg.getLsbD 16 = true → ∀ p, s.pinnedBds l = [p] →
        let ys := s.restoreExtents l p
        t.mem = ys.foldl (fun m y => writeBytes m y.1 y.2) s.mem ∧ x = ((ys.map fun y => y.2.length).sum + 255) / 256))) ∧
  (∀ (s : State) (seq team cl slot : Nat) (l : Launch) (tm : Team), s.launch seq = some l → l.teamOf? team = some tm →
    let l' : Launch := l.updTeam team fun t => { t with fired := t.fired ++ [cl] }
    let fires : Prop := l.state = .inCourse ∧ tm.state = .running ∧ cl ∉ tm.fired ∧ s.groupDone l team cl = true
    let u : State := if l.lastOnDie team cl = true then (s.flushDie (cl / 16)).feedback l (cl / 16) else s
    let v : State := (u.report l team (cl / 16) (cl % 16) 0).updLaunch seq fun _ => l'
    let ended : State := s.endCourse l
    let cw := s.launchPa l (s.cwordVa l.image) (rRead ||| rWrite)
    let past : List EngId := ((s.die slot).partials.map (·.src)).filter fun id => id.kind.isSome && (s.eng id).status == .off
    (fires → (∃ g ∈ l'.allGroups, l'.hasFired g = false) → exec (.combinerFire seq team cl) s = .next v) ∧
    (fires → (∀ g ∈ l'.allGroups, l'.hasFired g = true) → exec (.combinerFire seq team cl) s = .next (v.endCourse l')) ∧
    (¬ fires → exec (.combinerFire seq team cl) s = .next s) ∧
    (∀ y ∈ l.streams, (ended.eng y.eng).status = .off) ∧
    (l.next < ended.ncourse l.image → ∃ x, ended.launch seq = some x ∧ x.state = .walking ∧ x.next = l.next ∧ x.streams = [] ∧ x.teams = [] ∧
      x.bind = l.bind ∧ x.stack = l.stack ∧ x.span = l.span) ∧
    (∀ status w, cw = some w → ∀ pa, s.launchPa l (s.ringVa l.image + 32 * (natOf (s.bytes w 8) % 2 ^ s.ringLog2 l.image)) rWrite = some pa →
      let t := s.report l team slot (cl % 16) status
      t = { s with mem := t.mem, poison := t.poison, written := t.written, outbox := s.outbox ++ [Output.event l.seq slot (cl % 16)] } ∧
      t.mem = writeBytes (writeBytes s.mem pa (bytesOf 8 s.ptick ++ bytesOf 2 l.course ++ bytesOf 1 l.image ++ bytesOf 1 status ++
        bytesOf 2 (slot * 256 + cl % 16) ++ [0, 0] ++ bytesOf 8 l.seq ++ bytesOf 4 team ++ [0, 0, 0, 0])) w (bytesOf 8 (natOf (s.bytes w 8) + 1))) ∧
    (past ≠ [] → (∀ p ∈ (s.die slot).partials, paSlot p.pa = slot) → ∃ t, exec (.epochCloseAtCourseEnd slot) s = .next t ∧
      t = { s with dies := t.dies, mem := t.mem, poison := t.poison, written := t.written } ∧ ∀ p, p ∈ (t.die slot).partials → p ∈ (s.die slot).partials ∧ p.src ∉ past) ∧
    (past = [] → exec (.epochCloseAtCourseEnd slot) s = .next s))

/-! ## Clocks, shutters and power -/

/-- R41, R114, R332, R337, R343, R344, R346, R451: a cluster is gated once nothing waits for it, and a request that arrives since it began to close wakes
it, open at OP0 2,400 ticks later. At T_sw every domain whose change is due counts its cycles at the new point from there. An interval gives the new grants and
lowers the arbiters' counters. An evaluation sets every change out for one tick, a multiple of 12, the least point that meets its target
where neither a gauge nor the cap binds. At 105 °C a die's teams are saved and its domains go to OP0. Logs 4 and 16 say what the model chose here. -/
def Obligations.ClocksAndPower : Prop :=
  ∀ (s : State) (cl slot : Nat) (temp : BitVec 16),
    let k := s.cluster cl
    let closes : Prop := ((∃ t, k.shutter = .closing t) ∨ (k.shutter = .opened ∧ k.closeAsked = true)) ∧ s.arrivedAt cl 0 = false
    let wakes : Prop := ((∃ t, k.shutter = .closing t ∧ s.arrivedAt cl t = true) ∨ (k.shutter = .off ∧ s.arrivedAt cl 0 = true)) ∧
      s.dieUp (cl / 16) = true
    let tick := s.ptick / 12 * 12
    let first (t : Nat) : Nat := (t + 11) / 12 * 12
    let domains (t : State) (f : Domain → Domain → Prop) : Prop :=
      t = { s with clusters := t.clusters } ∧ ∀ n, t.cluster n = { s.cluster n with dom := (t.cluster n).dom } ∧ f (s.dom n) (t.dom n)
    let interval : Prop := s.ptick % 1200 = 0 ∧ s.ptick ≠ 0 ∧ s.gov.lastInterval ≠ some s.ptick
    let granted (d : Domain) : Domain := match d.nextGrant with
      | some (at_, g) => if at_ ≤ s.ptick then { d with grant := g, nextGrant := none } else d
      | none => d
    let d := s.die slot
    let sw (rise : Bool) : Nat := first (s.ptick + if rise = true then 1200 else 60)
    let least (x : Nat) (n q : Nat) : Prop :=
      let meets (m : Nat) : Prop := s.fin x q m ≤ (s.domDue q).tick - s.gov.govcfg.toNat / 2 ^ 32
      (n < 8 ∧ meets n ∧ ∀ m < n, ¬ meets m) ∨ (n = 7 ∧ ∀ m < 8, ¬ meets m)
    (closes → exec (.shutterOff cl) s = .next (s.setCluster cl { k with shutter := .off, closeAsked := false })) ∧
    (¬ closes → exec (.shutterOff cl) s = .next s) ∧
    (wakes → exec (.shutterWakeStart cl) s = .next (s.setCluster cl { k with shutter := .waking (s.ptick + 2400) })) ∧
    (¬ wakes → exec (.shutterWakeStart cl) s = .next s) ∧
    (∀ t, k.shutter = .waking t →
      (s.ptick < t → exec (.shutterWakeComplete cl) s = .next s) ∧
      (t ≤ s.ptick → exec (.shutterWakeComplete cl) s = .next (s.setCluster cl { k with
        shutter := .opened, dom := { k.dom with op := 0, refTick := tick, refCycle := k.dom.cycleFrom tick } }))) ∧
    (∃ t, exec .clockSwitch s = .next t ∧ domains t fun a b => ∀ due : Bool, due = (match a.next with | some (w, _) => decide (w ≤ s.ptick) | none => false) →
      (due = false → b = a) ∧ (due = true → ∃ w n, a.next = some (w, n) ∧
        b = { a with op := n, refTick := w, refCycle := a.cycleFrom w, next := none })) ∧
    (∃ t, exec .transitEnd s = .next t ∧ domains t fun a b =>
      b = if a.transitEnd ≠ 0 ∧ a.transitEnd ≤ s.ptick then { a with transitEnd := 0 } else a) ∧
    (¬ interval → exec .byteBudgetInterval s = .next s) ∧
    (interval → ∃ t, exec .byteBudgetInterval s = .next t ∧ t = { s with clusters := t.clusters, dies := t.dies, gov := t.gov } ∧
      t.gov = { s.gov with lastInterval := some s.ptick } ∧ (∀ n, t.cluster n = { s.cluster n with dom := granted (s.dom n) }) ∧
      ∀ b, t.die b = { s.die b with arb := (t.die b).arb } ∧ ∀ n, (t.die b).arb.find n = ((s.die b).arb.find n).map fun u => u - (t.dom n).grant) ∧
    (s.evaluates = false → exec .governorEvaluation s = .next s) ∧
    (s.evaluates = true → ∃ t x, exec .governorEvaluation s = .next t ∧
      t = { s with fresh := t.fresh, launches := t.launches, outbox := t.outbox, clusters := t.clusters, gov := t.gov } ∧
      t.gov.lastEval = some s.ptick ∧ (x = sw false ∨ x = sw true) ∧
      (∀ n, let a := s.dom n; let b := t.dom n; b.op = a.op ∧ b.refTick = a.refTick ∧ b.refCycle = a.refCycle ∧ b.grant = a.grant ∧
        (n ∈ s.governed → ∀ w m, b.next = some (w, m) → w = x ∧ m ≤ 7 ∧ m ≠ a.op)) ∧
      (s.gov.govcfg.getLsbD 0 = true → s.liveGauges = [] → s.ceiling s.decided s.runningDoms.length = 7 →
        fld (s.gov.measure (Config.watts s.fresh).toNat).pstat 32 3 = 7 → ∃ y, (y = sw false ∨ y = sw true) ∧ ∀ q ∈ s.runningDoms, q ∈ s.governed →
          least y (match (t.dom q).next with | some (_, m) => m | none => (s.dom q).op) q)) ∧
    (temp.toInt < 1680 → exec (.softThermalThreshold slot temp) s = .next (s.setDie slot { d with temp := temp })) ∧
    (1680 ≤ temp.toInt → slot ≤ 36 → ∃ t, exec (.softThermalThreshold slot temp) s = .next t ∧
      t.die slot = { d with temp := temp, soft := true, hot := true } ∧ (∀ n, n ≠ slot → t.die n = s.die n) ∧
      (∀ n, n / 16 = slot → (s.clusters.find n).isSome = true → (t.dom n).op = (s.dom n).op ∧
        (t.dom n).next = if (s.dom n).op = 0 then none else some (first s.ptick, 0)) ∧
      ∀ p ∈ s.teamsOn slot, s.noPreempt ⟨p.1, p.2, 2, 0, 0, 0xFFFF⟩ = none →
        ∃ l q e, t.launch p.1 = some l ∧ l.teamState p.2 = some (.stopping q 2 e) ∧ q.source = 0xFFFF) ∧
    exec (.softThermalClear slot temp) s = .next (s.setDie slot { d with temp := temp, hot := d.hot && decide (1520 ≤ temp.toInt) })

/-! ## Pre-emption -/

/-- R60, R61, R306, R327-R330: a request for a team that stops or does not run is only recorded; another stops it by the action forced when that is eligible,
else by the action of least cost among those meeting the deadline, else of least stop time, ties to drain, then save. A waiting task of a
pre-empting queue makes the same request of the lowest team holding what it needs. A stop is complete once every engine has stopped and
nothing of the team is on its way, its lattices quiet: its windows and the dies no other team needs are released, its state is kept, and
the record is written.

R62, R329, R418, R449: a team at the head that is taken next, for which its dies are there, resumes: every engine restarts at one tick, with
the registers it had, or, after a discard, those of its begin mark. Poison found in its saved state stops it with cause 0x0106.
Logs 22 and 44 say what the model chose here. -/
def Obligations.PreemptionAndResume : Prop :=
  ((∀ (s : State) (q : PreReq) (l : Launch),
     let n (a : Nat) : PreReq := { q with action := a }
     let asks (a : Nat) : Instr := match a with | 0 => .preemptEstimator q | 1 => .preemptDrain q | 2 => .preemptSave q | _ => .preemptDiscard q
     let engs := l.engsOf q.team
     let e := (s.estimate l q.team).1
     let mayDrain : Prop := ∀ id ∈ engs, (s.eng id).status ≠ .atBrk
     let mayDiscard : Prop := ∀ id ∈ engs, s.canDiscard id (s.eng id) = true
     let eligible (a : Nat) : Prop := (a = 1 ∧ mayDrain) ∨ a = 2 ∨ (a = 3 ∧ mayDiscard)
     let tSd := (e.bd + 255) / 256 + 600
     let stop (a : Nat) : Nat := if a = 1 then e.tDrain + tSd else if a = 2 then (e.b + 255) / 256 + 600 else 100
     let cost (a : Nat) : Nat := if a = 1 then e.tDrain + 2 * tSd else if a = 2 then 2 * ((e.b + 255) / 256 + 600) else 100 + e.lost
     let quick (a : Nat) : Prop := eligible a ∧ stop a ≤ q.deadline
     let chosen (c r : Nat) : Prop :=
       ((∃ a, quick a) → r = 0 ∧ quick c ∧ ∀ b, quick b → cost c < cost b ∨ (cost c = cost b ∧ c ≤ b)) ∧
       ((¬ ∃ a, quick a) → r = 3 ∧ eligible c ∧ ∀ b, eligible b → stop c < stop b ∨ (stop c = stop b ∧ c ≤ b))
     let stops (a c r : Nat) : Prop := ∃ t l', exec (asks a) s = .next t ∧
       t = { s with fresh := t.fresh, engines := t.engines, launches := t.launches } ∧ t.launch q.seq = some l' ∧
       l'.teamState q.team = some (.stopping (n a) c { e with reason := r, met := decide (stop c ≤ q.deadline) }) ∧
       (c = 1 → t.engines = s.engines) ∧ (∀ id, id ∉ engs → (∀ x ∈ engs, x.key ≠ id.key) → t.eng id = s.eng id) ∧
       (c ≠ 1 → ∀ id ∈ engs, (s.eng id).status = .running → ∃ was, (t.eng id).status = .paused was)
     (∀ r, s.noPreempt q = some r → ∀ a < 4, exec (asks a) s = .next (s.preRecord (n a) Estimate.none_ 0 r false)) ∧
     (s.noPreempt q = none → s.launch q.seq = some l →
       stops 2 2 1 ∧ (mayDrain → stops 1 1 1) ∧ (mayDiscard → stops 3 3 1) ∧
       (∃ c r, chosen c r ∧ stops 0 c r) ∧ (¬ mayDrain → ∃ c r, chosen c r ∧ stops 1 c r) ∧ (¬ mayDiscard → ∃ c r, chosen c r ∧ stops 3 c 2))) ∧
   (∀ (s : State) (seq team a : Nat) (l : Launch) (q : PreReq) (e : Estimate), s.launch seq = some l →
     let vs := s.victims l
     let before (p r : Launch × Nat) : Prop :=
       p.1.prio < r.1.prio ∨ (p.1.prio = r.1.prio ∧ (r.1.seq < p.1.seq ∨ (r.1.seq = p.1.seq ∧ p.2 ≤ r.2)))
     let asks : Prop := l.state = .selected ∧ (s.qcfg l.queue).getLsbD 7 = true ∧ s.place l.image (s.freeSlot seq) = none ∧
       s.place l.image (fun _ => true) ≠ none ∧ s.stoppingFor l.queue = false
     let engs := l.engsOf team
     let quiet : Prop := (∀ id ∈ engs, (s.eng id).hasPaused a = true) ∧ s.teamInFlight seq team = false ∧
       (∀ n ∈ l.teamDies team, dieKind (slotIn l.bind n) = some .gd → s.latticeQuiet (slotIn l.bind n) = true) ∧ e.due ≤ s.ptick
     let at_ : Nat := if q.record ≠ 0 then q.record else s.precPa l.image
     let gone : List Nat := (l.freedDies team).filter fun n => !(s.ldieEntry l.image n).pinned
     (asks → vs ≠ [] → ∃ p ∈ vs, (∀ r ∈ vs, before p r) ∧ exec (.distributorPreemptRequest seq) s =
       .next (s.preempt ⟨p.1.seq, p.2, 0, (s.qcfg l.queue).toNat / 2 ^ 32, 0, 1 + l.queue⟩)) ∧
     (¬ asks ∨ vs = [] → exec (.distributorPreemptRequest seq) s = .next s) ∧
     (l.teamState team = some (.stopping q a e) →
       (¬ (a < 4 ∧ quiet ∧ s.teamFaulting seq team = false) → exec (.preemptStopComplete seq team) s = .next s) ∧
       (a < 4 → quiet → s.teamFaulting seq team = false → ∀ slot, s.savePoisoned l team = some slot → exec (.preemptStopComplete seq team) s =
         .next { s with faults := s.faults ++ [{ teamEv s seq team 0x0106 (5 + slot * 256) 1 slot with after := .stop }] }) ∧
       (a < 4 → q.action < 4 → quiet → s.teamFaulting seq team = false → s.savePoisoned l team = none → q.seq = seq →
         ∃ t l' tm, exec (.preemptStopComplete seq team) s = .next t ∧
         t = { s with engines := t.engines, clusters := t.clusters, dies := t.dies, launches := t.launches, mem := t.mem, poison := t.poison, written := t.written } ∧
         t.mem = writeBytes s.mem at_ (preBytes q e a e.reason e.met s.ptick) ∧ (∀ id ∈ engs, (t.eng id).status = .off) ∧
         t.launch seq = some l' ∧ l'.bind = l.bind.filter (fun p => !gone.contains p.1) ∧ l'.teamOf? team = some tm ∧
         tm.state = .saved a s.ptick ∧ tm.saved = some (s.takeTeam l team) ∧
         ∀ m, m ≠ team → l'.teamOf? m = l.teamOf? m)))) ∧
  (∀ (s : State) (seq team a w : Nat) (l : Launch) (tm : Team) (kept : Saved) (b : List (Nat × Nat)), s.launch seq = some l → l.teamOf? team = some tm →
     tm.state = .saved a w → tm.saved = some kept →
     let due : Prop := s.headIs seq team = true ∧ l.state = .inCourse
     let area := l.saveArea team
     let place (id : EngId) : EngId := { id with slot := if 128 ≤ id.slot then slotIn b (id.slot - 128) else id.slot }
     let home := s.lrHomeBd l.image
     (s.rebind l team = none ∨ ¬ due → exec (.teamResume seq team) s = .next s) ∧
     (s.rebind l team = some b → due → ∃ t l' tm' start f, exec (.teamResume seq team) s = .next t ∧
       t.faults = (if s.poisoned area.1 (area.2 + 1) = true then s.faults ++ [f] else s.faults) ∧
       f.seq = seq ∧ f.team = team ∧ f.cause = 0x0106 ∧ f.detail = BitVec.ofNat 64 (5 + home * 256) ∧ f.slot = home ∧ f.after = .stop ∧
       t.ptick = s.ptick ∧ s.ptick < start ∧ t.launch seq = some l' ∧ l'.bind = b ∧ l'.teamOf? team = some tm' ∧ tm'.state = .running ∧ tm'.saved = none ∧
       (∀ m, m ≠ team → l'.teamOf? m = l.teamOf? m) ∧ (∀ n, n ≠ seq → t.launch n = s.launch n) ∧
       ((kept.engines.map fun x => (place x.1).key).Nodup → ∀ x ∈ kept.engines,
         let e := x.2
         let u := t.eng (place x.1)
         let now := (s.dom (place x.1).cl).cycleFrom start
         (a ≠ 3 → e.sameRegs u ∧ u.pc = e.pc ∧ u.secNum = e.secNum ∧ u.sret = e.sret ∧ u.nextIssue = now ∧ u.snap = e.snap ∧ u.lc = e.lc ∧
           (e.status = .paused none → u.status = .running) ∧ (e.status = .finished → u.status = .finished)) ∧
         (a = 3 → e.status ≠ .finished → u.status = .running ∧ u.nextIssue = now ∧ u.pend = [] ∧ u.region = none ∧ u.secNum = e.secNum ∧
           u.sret = e.sret ∧ u.w = Vector.replicate 8 0 ∧
           ∀ r, e.region = some r → u.pc = r.pc ∧ u.glob = r.glob ∧ u.win = r.win ∧ u.a = r.a ∧ u.c = r.c ∧ u.lc = r.lc ∧ u.depth = r.depth))))

/-! ## Faults of teams -/

/-- R330, R366, R369, R370: a fault record is numbered by FLTCFG's count, stored at its place in the package log (its address, pc and detail
zeroed when a tenant's) and in its launch's ring, also when the launch has ended, and announced by the vector where that is on. The layouts of a fault record and of a
pre-emption record. Logs 17 and 44 say what the model chose here. -/
def Obligations.RecordsWritten : Prop :=
  ∀ (s : State) (f : FaultEv) (n course pattern : Nat) (red : Bool) (q : PreReq) (e : Estimate) (action reason stop : Nat) (met : Bool),
    let cfg := s.mgmt.fltcfg.toNat
    let num := cfg / 2 ^ 32
    let t := s.record f
    let flog := s.mgmt.flog.toNat
    let at_ : Nat := flog / 2 ^ 12 % 2 ^ 44 * 4096 + 64 * (num % 2 ^ (flog % 16))
    let b := recordBytes f n course pattern red
    let has (off len v : Nat) : Prop := bytesFld b off len = v % 2 ^ (8 * len)
    let seen (v : Nat) : Nat := if red = true then 0 else v
    let p := preBytes q e action reason met stop
    let holds (off len v : Nat) : Prop := bytesFld p off len = v % 2 ^ (8 * len)
    let log (c i : Nat) (red : Bool) : List Host.Cell := if inBd at_ = true then writeBytes s.mem at_ (recordBytes f num c i red) else s.mem
    let both (c i tenant prec : Nat) : Prop :=
      t.mem = writeBytes (log c i (tenant != 0)) (prec + 0x1000 + 64 * (num % 64)) (recordBytes f num c i false)
    (t = { s with mem := t.mem, poison := t.poison, written := t.written, mgmt := t.mgmt, outbox := t.outbox } ∧ t.mgmt = { s.mgmt with fltcfg := t.mgmt.fltcfg } ∧
      t.mgmt.fltcfg.toNat / 2 ^ 32 = (num + 1) % 2 ^ 32 ∧ t.mgmt.fltcfg.toNat % 2 ^ 32 = cfg % 2 ^ 32 ∧
      t.outbox = s.outbox ++ (if cfg % 2 = 1 then [Output.interrupt (cfg / 2 ^ 16 % 2 ^ 16)] else []) ∧
      (∀ l, s.launch f.seq = some l → both l.course l.image (s.lrTenant l.image) (s.precPa l.image)) ∧
      (s.launch f.seq = none → (∀ p, s.past.find? (fun p => p.seq == f.seq) = some p → both p.course p.image p.tenant p.prec) ∧
        (s.past.find? (fun p => p.seq == f.seq) = none → t.mem = log 0 0 false))) ∧
    (b.length = 64 ∧ has 0 2 f.cause ∧ has 2 2 n ∧ has 4 2 0 ∧ has 6 2 f.incarn.toNat ∧ has 8 1 pattern ∧ has 10 1 f.level ∧ has 12 2 (f.slot * 256 + f.cluster) ∧
      has 14 2 course ∧ has 16 8 (seen f.detail.toNat) ∧ has 24 4 (seen f.pc.toNat) ∧ has 28 4 f.team ∧ has 32 6 0 ∧ has 38 10 (seen f.addr.toNat) ∧
      has 48 8 f.seq ∧ has 56 8 f.tick ∧ (f.eng = none → has 11 1 0) ∧ ∀ id, f.eng = some id → has 11 1 (128 + id.index)) ∧
    (p.length = 64 ∧ holds 0 8 q.seq ∧ holds 8 2 q.source ∧ holds 10 1 (if met = true then 1 else 0) ∧ holds 11 1 action ∧ holds 12 1 reason ∧
      holds 13 3 0 ∧ holds 16 4 q.team ∧ holds 20 4 q.deadline ∧ holds 24 4 (min e.tDrain (2 ^ 32 - 1)) ∧ holds 28 4 e.tSave ∧ holds 32 4 e.tDisc ∧
      holds 36 4 (min e.lost (2 ^ 32 - 1)) ∧ holds 40 8 e.b ∧ holds 48 8 e.bd ∧ holds 56 8 stop)

/-- R370, R372, R385, R400-R405, R415-R417, R420, R442, R447, R449: the faults of a tick stop their teams, one for each engine, in the order of their places; a
stop overtakes an exception of its team in the same tick (R377); one without a retry freezes the team's memory and makes its peers stop. A peer is over once its engines have stopped. An answer to a held team
retries it 100 ticks later from its begin marks, reruns the launch, or abandons it; another answer only sets FRESP1's status.
Logs 18 and 44 say what the model chose here. -/
def Obligations.FaultsStopTeams : Prop :=
  (∀ (s : State) (f g : FaultEv) (status : Nat) (retry : Bool) (m : Message) (l : Launch) (tm : Team) (id : EngId),
    let t := s.stopTeam f status retry
    let acts (s : State) (f : FaultEv) : State := match f.after with
      | .nothing => s.record f
      | .stop => s.stopTeam f 1 (retryCause f.cause f.detail.toNat && s.teamRetry f.seq f.team)
      | .report l groups status => (s.record f).reportGroups l groups status
    let access (f : FaultEv) : Prop := f.after = .stop ∧ f.cause ≠ 0x0306
    let left (k : Nat) (fs : List FaultEv) (t : State) : State :=
      { t with faults := (t.faults.drop k).filter fun x => !(fs.any fun y => y.seq == x.seq && y.team == x.team) }
    let overtaken (f g : FaultEv) : Prop := f.after = .stop ∧ g.after = .stop ∧ f.cause < 0x0100 ∧ 0x0100 ≤ g.cause ∧ f.seq = g.seq ∧ f.team = g.team
    let place (f : FaultEv) : Nat := f.slot * 2 ^ 32 + (match f.eng with | some e => e.key | none => 2 ^ 31)
    let detail := m.tag.toNat + m.dst.toNat * 2 ^ 16 + 2 ^ 28
    let e := s.eng id
    (s.launch f.seq = some l → l.teamOf? f.team = some tm → tm.state.live = true → ∃ l', t.launch f.seq = some l' ∧ l'.state = l.state ∧
      l'.teamOf? f.team = some { tm with state := .held f.cause retry, frozen := !retry } ∧
      (∀ n x, n ≠ f.team → l.teamOf? n = some x → l'.teamOf? n = some (if retry = false ∧ x.parent = tm.parent ∧ x.state.live = true
        then { x with state := .peer (s.mgmt.fltcfg.toNat / 2 ^ 32) f.team } else x)) ∧
      (∀ n, n ≠ f.seq → t.launch n = s.launch n) ∧
      (e.ofTeam f.seq f.team = true → let u := t.eng id
        (u.status = .stopped ∨ u.status = .finished) ∧ u.pend = [] ∧ u.follow = [] ∧ (∀ c : Fin 4, u.chans[c].out = []) ∧ u.sret = e.sret) ∧
      (∀ p ∈ t.pushes, ¬ (p.seq = f.seq ∧ p.team = f.team))) ∧
    ((s.launch f.seq = none → t = s.record { f with level := if f.seq = 0 then f.level else 1 }) ∧
      (s.launch f.seq = some l → l.teamOf? f.team = none ∨ (∃ x, l.teamOf? f.team = some x ∧ x.state.live = false) →
        t = s.record { f with level := 1 })) ∧
    exec (.unarmedTagRefusalReturn m) s = .next { s with faults := s.faults ++ [{ teamEv s m.seq m.team 0x0208 detail 1 36 with after := .stop }] } ∧
    (s.faults = [f] → exec .faultStop s = .next (left 1 [f] (acts s f))) ∧
    (s.faults = [f, g] ∨ s.faults = [g, f] → overtaken f g → exec .faultStop s = .next (left 2 [g] (acts s g))) ∧
    (s.faults = [f, g] ∨ s.faults = [g, f] → ¬ overtaken f g → ¬ overtaken g f → (f.eng = g.eng → f.eng = none ∨ ¬ access f ∨ ¬ access g ∨ f.issue = g.issue) → place f < place g →
      exec .faultStop s = .next (left 2 [f, g] (acts (acts s f) g))) ∧
    (s.faults = [f, g] ∨ s.faults = [g, f] → ¬ overtaken f g → ¬ overtaken g f → f.eng = g.eng → f.eng ≠ none → access f → access g → f.issue < g.issue →
      exec .faultStop s = .next (left 2 [f] (acts s f))) ∧
    (id.kind.isSome = true → e.status ≠ .off → exec (.parityError id) s = .next { s with faults := s.faults ++ [faultAt s id 0x0306 0 e.pc] }) ∧
    (e.status = .off → exec (.parityError id) s = .next s)) ∧
  (∀ (s : State) (seq team cl : Nat) (l : Launch) (v : Word), s.launch seq = some l →
    let engs := l.engsOf team
    let st := l.teamState team
    let still (x : Status) : Prop := x = .stopped ∨ x = .finished ∨ x = .atBrk ∨ x = .off ∨ (∃ n, x = .notifying n) ∨ (∃ b, x = .paused b) ∨
      ∃ b c, x = .blocked b c
    let gone : Launch := l.updTeam team fun t => { t with state := .past 2, fired := l.groupsOf team, frozen := false }
    let told (u : State) (code action : Nat) : State := { u with mgmt := { u.mgmt with
      fresp0 := BitVec.ofNat 64 seq, fresp1 := BitVec.ofNat 64 (code % 256 * 2 ^ 40 + action * 2 ^ 32 + team % 2 ^ 32) } }
    let answer (action : Nat) (i : Instr) (code : Nat) (p : State → Prop) : Prop := ∃ u, exec i s = .next (told u code action) ∧ p u
    let same (u : State) : Prop := u = s
    let plain : Prop := ∀ r, l.state ≠ .heldAnswer r
    let named (i : Nat) : Prop := i < 17 ∧ v.getLsbD i = true ∧ (s.cluster cl).engstop.getLsbD i = true
    let who (i : Nat) : EngId := ⟨cl / 16, cl % 16, i⟩
    (∀ rec f, st = some (.peer rec f) →
      (¬ (∀ id ∈ engs, still (s.eng id).status) → ∃ t, exec (.peerStop seq team) s = .next t ∧ t = { s with engines := t.engines } ∧
        ∀ id ∈ engs, (∀ b c, (s.eng id).status ≠ .blocked b c) → t.eng id = s.eng id) ∧
      ((∀ id ∈ engs, still (s.eng id).status) → ∃ u ev, u.launch seq = some gone ∧ ev ∈ u.faults ∧ ev.cause = 0x0301 ∧ ev.seq = seq ∧ ev.team = team ∧
        ev.detail = BitVec.ofNat 64 (rec % 65536 + f % 2 ^ 32 * 65536) ∧ ev.after = .report l (l.unfired team) 2 ∧
        exec (.peerStop seq team) s = .next (if ∀ g ∈ gone.allGroups, gone.hasFired g = true then u.endCourse gone else u))) ∧
    (∃ t, exec (.engstopResume cl v) s = .next t ∧ t = { s with engines := t.engines, clusters := t.clusters } ∧
      t.cluster cl = { s.cluster cl with engstop := (s.cluster cl).engstop &&& ~~~(v.extractLsb' 0 17) } ∧
      ∀ i < 17, let a := s.eng (who i); let b := t.eng (who i)
        (named i → a.status = .atBrk → b.status = .running ∧ b.pc = a.epc.setWidth 32 ∧ b.nextIssue = (s.dom (who i).cl).cycleFrom s.ptick ∧
          a.sameRegs b) ∧ (¬ named i → b = a)) ∧
    (plain → ∀ cause retry, st = some (.held cause retry) →
      (retry = true → answer 1 (.faultRetry seq team) 0 fun u =>
        u = s.updLaunch seq fun x => x.updTeam team fun t => { t with state := .restart (s.ptick + 100) }) ∧
      (retry = false → answer 1 (.faultRetry seq team) 2 same) ∧
      (cause = 0x030B → answer 2 (.faultRerun seq team) 2 same) ∧
      (cause ≠ 0x030B → answer 2 (.faultRerun seq team) 0 fun u => ∃ l', u.launch seq = some l' ∧ l'.state = .rerun ∧ l'.course = l.course ∧
        l'.streams = l.streams ∧ (∀ x ∈ l'.teams, x.state = .past 0) ∧
        ∀ x ∈ l.teams, ∀ id ∈ l.engsOf x.index, (s.eng id).ofTeam seq x.index = true → (u.eng id).status = .stopped ∨ (u.eng id).status = .finished) ∧
      answer 3 (.faultAbandon seq team) 0 fun u => u.launch seq = none ∨ ∃ l' tm, u.launch seq = some l' ∧
        ((l'.teamOf? team = some tm ∧ tm.state = .past 3 ∧ tm.frozen = false ∧ l'.next = s.ncourse l.image) ∨ l'.state = .walking)) ∧
    (∀ rerun, l.state = .heldAnswer rerun →
      answer 1 (.faultRetry seq team) 2 same ∧ (rerun = false → answer 2 (.faultRerun seq team) 2 same) ∧
      (rerun = true → answer 2 (.faultRerun seq team) 0 fun u => ∃ l', u.launch seq = some l' ∧ l'.state = .rerun) ∧
      answer 3 (.faultAbandon seq team) 0 fun u => u.launch seq = none) ∧
    (plain → l.waits = false → (∀ c r, st ≠ some (.held c r)) → answer 1 (.faultRetry seq team) 1 same ∧ answer 2 (.faultRerun seq team) 1 same ∧
      answer 3 (.faultAbandon seq team) 1 same) ∧
    (∀ at_, st = some (.restart at_) →
      (s.ptick < at_ → exec (.retryRestart seq team) s = .next s) ∧
      (at_ ≤ s.ptick → ∃ t l' tm, exec (.retryRestart seq team) s = .next t ∧
        t = { s with engines := t.engines, clusters := t.clusters, launches := t.launches } ∧ t.launch seq = some l' ∧ l'.checkDl = false ∧
        l'.teamOf? team = some tm ∧ tm.state = .running ∧ tm.frozen = false ∧
        (∀ c ∈ l.groupsOf team, (t.cluster c).tiles = Vector.replicate 16 Tile.reset) ∧
        ∀ id ∈ engs, let e := s.eng id; let u := t.eng id
          e.status ≠ .finished → u.status = .running ∧ u.nextIssue = (s.dom id.cl).cycleFrom s.ptick ∧ u.pend = [] ∧ u.secNum = e.secNum ∧ u.sret = e.sret ∧
            (∀ r, e.region = some r → u.pc = r.pc ∧ u.glob = r.glob ∧ u.a = r.a ∧ u.c = r.c) ∧
            (e.region = none → u.pc = e.pc ∧ (e.pend = [] → e.replay = false → u.glob = e.glob)))))

/-! ## Deadlines, links and memory errors -/

/-- R371-R373, R375, R428, R434, R441, R442: a deadline that has passed in a running course is recorded once for each source and team: action 0 stops nothing,
1 and 3 hold every team with cause 0x0309, 2 ends the launch. A piece that fails its CRC never lands and its course aborts within 2,400 ticks: it
reruns, or ends the fourth time. A second streaming failure in 1.2 × 10⁹ ticks, or the sixteenth retry in a row, retires a module. A scrub counts what it
corrects. An uncorrectable unit is poisoned, but for one that nothing has written since it was cleared (R32), and counted; too many of them evacuate a BD or lose a die, and one in scheduler memory holds every launch.
Log 44 says what the model chose here. -/
def Obligations.ErrorsAndDeadlines : Prop :=
  (∀ (s : State) (seq t0 : Nat) (l : Launch) (src : MissSource) (id : EngId) (d : Deadl), s.launch seq = some l →
    let e := s.eng id
    let runs : Prop := l.state = .inCourse ∧ l.checkDl = true
    let whole : Prop := (src = .courseEntry ∧ t0 = l.deadline) ∨ (src = .span ∧ ∃ h n, l.span = some (h, n) ∧ t0 = h + n)
    let code : Nat := match src with | .courseEntry => 1 | .span => 2 | .deadl _ => 3
    let fresh : Prop := (code, 2 ^ 32) ∉ l.missed
    let due (x : Team) : Bool := x.state.live && !l.missed.contains (code, x.index)
    let act := l.dlact.toNat % 4
    let own : Prop := src = .deadl id ∧ l.state = .inCourse ∧ e.deadl = some d ∧ d.missed = false ∧ (∃ x ∈ l.streams, x.eng = id) ∧ e.sret ≠ d.secNum
    (runs → whole → s.ptick ≤ t0 ∨ ¬ fresh → exec (.deadlineMiss seq src) s = .next s) ∧
    (runs → whole → t0 < s.ptick → fresh → act = 0 → ∃ t l', exec (.deadlineMiss seq src) s = .next t ∧
      t = { s with faults := t.faults, launches := t.launches } ∧ t.launch seq = some l' ∧
      l'.teams = l.teams ∧ l'.state = .inCourse ∧ (code, 2 ^ 32) ∈ l'.missed ∧ (∀ x ∈ l.teams, x.state.live = true → (code, x.index) ∈ l'.missed) ∧
      ∃ fs, t.faults = s.faults ++ fs ∧ fs.map (·.team) = (l.teams.filter due).map (·.index) ∧
        ∀ f ∈ fs, f.cause = 0x0309 ∧ f.seq = seq ∧ f.tick = s.ptick ∧ f.after = .nothing) ∧
    (runs → whole → t0 < s.ptick → fresh → act = 1 ∨ act = 3 → (l.teams.any due) = true → ∃ t l', exec (.deadlineMiss seq src) s = .next t ∧
      t.launch seq = some l' ∧ (∀ x ∈ l'.teams, x.state.live = false) ∧
        ∀ y ∈ l.teams, y.state.live = true → ∃ x ∈ l'.teams, x.index = y.index ∧ ∃ r, x.state = .held 0x0309 r) ∧
    (runs → whole → t0 < s.ptick → fresh → act = 2 → (l.teams.any due) = true → ∃ t, exec (.deadlineMiss seq src) s = .next t ∧ t.launch seq = none) ∧
    (own → s.ptick ≤ d.tick → exec (.deadlineMiss seq src) s = .next s) ∧
    (own → fresh → d.tick < s.ptick → act = 0 → ∃ t, exec (.deadlineMiss seq src) s = .next t ∧ (t.eng id).deadl = some { d with missed := true } ∧
      (t.eng id).status = e.status ∧ (t.eng id).pc = e.pc ∧ (∀ y, y.key ≠ id.key → t.eng y = s.eng y))) ∧
  (∀ (s : State) (piece mod slot pa : Nat) (p : Piece) (again : Bool) (units : List Nat) (seq t : Nat) (l : Launch),
    let lo := mod / 512
    let k := mod % 512
    let d := s.die lo
    let g := s.die slot
    let n : Nat := if again = true then AMap.getD g.retries mod 0 + 1 else 1
    let home := s.die (paSlot pa)
    let day : Nat := (home.uncorrTicks.filter fun u => decide (s.ptick < u + 103680000000000)).length
    let unit := unitOf pa
    let unread : Prop := carriesWritten unit = true ∧ unit / 256 * 256 ∉ s.written
    let poison : List Nat := if unit ∈ s.poison ∨ unread then s.poison else s.poison ++ [unit]
    let counted (s : State) : State := s.setDie (paSlot pa) { home with
      uncorr := BitVec.ofNat 16 (min (home.uncorr.toNat + 1) 65535),
      uncorrTicks := (home.uncorrTicks.filter fun u => decide (s.ptick < u + 103680000000000)) ++ [s.ptick] }
    let bad : State := counted { s with poison := poison }
    let memory : Prop := match placeOf pa with | .nothing => False | .mgmt _ => False | .sched _ => False | _ => True
    let bd : Prop := dieKind (paSlot pa) = some .bd
    let marks : Nat := (poison.filter fun u => paSlot u == paSlot pa).length
    let after (t : State) : Prop := exec (.uncorrectableError pa) s = .next t
    (s.pieces.find? (fun x => x.id == piece) = some p → ∃ t, exec (.streamingCrcFailure piece mod) s = .next t ∧
      t = { s with fresh := s.fresh + 1, pieces := s.pieces.filter (fun x => x.id != piece), dies := t.dies, launches := t.launches } ∧
      (∀ j, j ≠ lo → t.die j = s.die j) ∧
      (∀ u, d.crcTicks.find k = some u → s.ptick < u + 1200000000 → t.die lo = { d with retired := d.retired.put k s.ptick }) ∧
      ((∀ u, d.crcTicks.find k = some u → u + 1200000000 ≤ s.ptick) → t.die lo = { d with crcTicks := d.crcTicks.put k s.ptick }) ∧
      ∀ l, s.launch p.seq = some l → ∃ due, t.launch p.seq = some { l with crcDue := some due } ∧
        (l.crcDue = none → s.ptick ≤ due ∧ due ≤ s.ptick + 2400) ∧ ∀ u, l.crcDue = some u → due = u) ∧
    (s.pieces.find? (fun x => x.id == piece) = none → exec (.streamingCrcFailure piece mod) s = .next s) ∧
    (s.launch seq = some l → l.crcDue = some t →
      (l.state ≠ .inCourse ∨ s.ptick < t → exec (.courseAbortCrc seq) s = .next s) ∧
      (l.state = .inCourse → t ≤ s.ptick → l.crcAborts < 3 → ∃ u l', exec (.courseAbortCrc seq) s = .next u ∧ u.launch seq = some l' ∧
        l'.state = .rerun ∧ l'.crcAborts = l.crcAborts + 1 ∧ l'.crcDue = none ∧ l'.course = l.course ∧ ∀ x ∈ l'.teams, x.state = .past 0) ∧
      (l.state = .inCourse → t ≤ s.ptick → 3 ≤ l.crcAborts → ∃ u, exec (.courseAbortCrc seq) s = .next u ∧ u.launch seq = none)) ∧
    exec (.ordinaryCrcRetry slot mod again) s = .next (s.setDie slot (if 16 ≤ n then { g with retries := g.retries.erase mod, retired := g.retired.put mod s.ptick }
      else { g with retries := g.retries.put mod n })) ∧
    (dieKind slot = some .bd → exec (.scrubPass slot units) s =
      .next (s.setDie slot { g with corr := BitVec.ofNat 32 (min (g.corr.toNat + units.length) (2 ^ 32 - 1)) })) ∧
    (dieKind slot ≠ some .bd → exec (.scrubPass slot units) s = .next s) ∧
    (placeOf pa = .nothing → after s) ∧
    (memory → paSlot pa ≠ 36 → 15 ≤ day → after (bad.loseDie (paSlot pa) 3)) ∧
    (memory → bd → day < 15 → 3 ≤ day ∨ 64 ≤ marks → after (bad.startEvac (paSlot pa) true)) ∧
    (memory → (bd ∧ day < 3 ∧ marks < 64) ∨ (¬ bd ∧ (day < 15 ∨ paSlot pa = 36)) → after bad) ∧
    (∀ off, placeOf pa = .sched off ∨ (placeOf pa = .mgmt off ∧ paSlot pa = 36) → ∃ t, after t ∧
      ∀ l ∈ s.launches, l.bound = true → ∀ l', t.launch l.seq = some l' → l'.state = .heldAnswer true ∧ ∀ x ∈ l'.teams, ∃ n, x.state = .past n))

/-! ## Dies that fail and come back -/

/-- R14, R346, R359, R360, R375, R422-R428, R433, R437-R440: a die declared lost fails in MIX, and an SD takes its quadrant with it; a launch it stops waits for other
dies, or for abandon when a BD's memory is gone, and its lost logical die goes to the lowest free slot of its type in the quadrant. A die restarts
by yield, quiet, self-test and rejoin, its memory zero and its incarnation one higher; failing twice loses it. A tripped compute die is off
until below 95 °C; a third trip in a day, or a trip of a BD or SD, loses it, and one of the HD ends every launch.
Logs 25, 26, 39 and 48 say what the model chose here. -/
def Obligations.DiesFailAndReturn : Prop :=
  (∀ (s : State) (slot reason n k : Nat) (l : Launch) (cause : BitVec 8) (temp : BitVec 16),
    let d := s.die slot
    let gone : Prop := s.slotGone slot = true
    let parked (t : State) (p : Launch → Prop) (st : LaunchState) : Prop := ∀ l ∈ s.launches, p l → ∀ l', t.launch l.seq = some l' →
      l'.state = st ∧ ∀ x ∈ l'.teams, ∃ n, x.state = .past n
    let bd : Prop := dieKind slot = some .bd
    let compute : Prop := dieKind slot = some .md ∨ dieKind slot = some .vd ∨ dieKind slot = some .gd
    let trip (i : State → Prop) : Prop := ∃ t, exec (.hardThermalTrip slot cause temp) s = .next t ∧ i t
    let live : Prop := slot ≤ 36 ∧ ¬ gone ∧ d.phase ≠ .off ∧ d.phase ≠ .lost
    let today : Nat := (d.tripTicks.filter fun u => decide (s.ptick < u + 103680000000000)).length
    let e := s.ldieEntry l.image n
    let free (b : List (Nat × Nat)) (pq j : Nat) : Prop := j ∈ s.slotsOf (s.freeSlot l.seq) pq e.ty ∧ ∀ p ∈ b, p.2 ≠ j
    let active : Prop := s.launch l.seq = some l ∧ (l.state = .waitDies ∨ ((l.state = .walking ∨ l.state = .rerun) ∧ s.lostSlot l = true))
    let rebinds (b : List (Nat × Nat)) (f : Launch → Launch) : Prop := exec (.rebindAfterLoss l.seq) s = .next
      ((s.enterDies l.image ((b.filter fun p => !l.bind.contains p || l.state == .waitDies).map (·.2))).updLaunch l.seq f)
    let bound (b q : List (Nat × Nat)) (x : Launch) : Launch := { x with bind := b, quads := q, state := if x.state = .waitDies then .rerun else x.state }
    let rest : List (Nat × Nat) := l.bind.filter fun p => !s.badSlot l p.2
    (slot ≤ 36 → ¬ gone → dieKind slot ≠ some .sd → ∃ t, exec (.dieLostDeclare slot reason) s = .next t ∧ t.slotGone slot = true ∧
      (∀ j, j ≠ slot → t.slotGone j = s.slotGone j) ∧ (t.die slot).phase = .lost ∧ t.mgmt.health.getLsbD slot = true ∧ t.mgmt.health.getLsbD 39 = true ∧
      t.mgmt.health.toNat / 2 ^ 40 % 256 = slot ∧ (slot = 36 → t.launches = []) ∧
      parked t (fun l => s.losesBy l slot = true) (if bd then .heldAnswer false else .waitDies)) ∧
    (¬ gone → dieKind slot = some .sd → ∃ t, exec (.dieLostDeclare slot reason) s = .next t ∧
      ∀ j < 36, t.slotGone j = (s.slotGone j || decide (j / 9 = slot / 9))) ∧
    (gone → exec (.dieLostDeclare slot reason) s = .next s) ∧
    (¬ active → s.launch l.seq = some l → exec (.rebindAfterLoss l.seq) s = .next s) ∧
    (active → s.rebindAll l = .wait → exec (.rebindAfterLoss l.seq) s = .next s) ∧
    (active → s.rebindAll l = .held → exec (.rebindAfterLoss l.seq) s = .next (s.updLaunch l.seq fun x => { x with state := .heldAnswer false })) ∧
    (active → ∀ b q, s.rebindAll l = .done b q → rebinds b (bound b q)) ∧
    (active → l.bind.filter (fun p => s.badSlot l p.2) = [(n, k)] → (∀ p ∈ rest, p.1 ≠ n) → e.pinned = false → ∀ pq,
      (l.quads.find? fun p => p.1 == e.quad) = some (e.quad, pq) → ∀ j, free rest pq j → (∀ i, free rest pq i → j ≤ i) →
        rebinds (rest ++ [(n, j)]) (bound (rest ++ [(n, j)]) l.quads)) ∧
    (live → compute → today < 2 → trip fun t => (t.die slot).phase = .off ∧ (t.die slot).tripCause = cause ∧ (t.die slot).tripTemp = temp ∧
      (t.die slot).temp = temp ∧ (t.die slot).tripCount = (if d.tripCount = BitVec.allOnes 16 then d.tripCount else d.tripCount + 1) ∧
      (t.die slot).incarn = d.incarn ∧ (∀ j, t.slotGone j = s.slotGone j) ∧
      parked t (fun l => l.bound = true ∧ ∃ x ∈ l.streams, x.eng.slot = slot) .waitDies) ∧
    (live → slot ≠ 36 → ¬ compute ∨ 2 ≤ today → trip fun t => t.slotGone slot = true ∧ (t.die slot).phase = .lost) ∧
    (live → slot = 36 → trip fun t => t.launches = [] ∧ (t.die 36).phase = .lost) ∧
    (¬ live → exec (.hardThermalTrip slot cause temp) s = .next s)) ∧
  (∀ (s : State) (slot deadline tq : Nat) (q : SpdmReq) (temp : BitVec 16) (id : EngId) (set_ : Option Nat),
    let d := s.die slot
    let held : Prop := ∃ l ∈ s.launches, ∃ p ∈ l.bind, p.2 = slot
    let may : Prop := s.trust.measFail = false ∧ (∃ x, s.session? q.session = some x ∧ x.open_ = true)
    let compute : Prop := dieKind slot = some .md ∨ dieKind slot = some .vd ∨ dieKind slot = some .gd
    let answers (t : State) (r : SpdmReply) : Prop := t.outbox = s.outbox ++ [Output.spdm q.session r]
    let reset (t : State) : Prop :=
      t = { s with dies := t.dies, clusters := t.clusters, engines := t.engines, crossings := t.crossings, accesses := t.accesses } ∧
      (∀ x, x ∈ t.crossings ↔ x ∈ s.crossings ∧ x.slot ≠ slot) ∧ (∀ a, a ∈ t.accesses ↔ a ∈ s.accesses ∧ a.eng.slot ≠ slot) ∧ (t.die slot).phase = .quiet s.ptick ∧
      (t.die slot).incarn = d.incarn ∧ (t.die slot).cache = [] ∧ (t.die slot).windows = [] ∧ (t.die slot).acc = d.acc ∧
      (∀ j, j ≠ slot → t.die j = s.die j) ∧ (id.slot = slot → id.cluster < 256 → id.index < 256 → t.eng id = Engine.reset)
    let due (i : Instr) (at_ : Nat) (f : State → Prop) : Prop := (s.ptick < at_ → exec i s = .next s) ∧ (at_ ≤ s.ptick → ∃ t, exec i s = .next t ∧ f t)
    let phased (p : DiePhase) : State := s.setDie slot { d with phase := p }
    let cleared : State := match set_ with
      | some n => s.setDie slot { d with barred := true, ckpt := d.ckpt.put n { (d.ckpt.getD n CkSet.reset) with current := none } }
      | none => s.setDie slot { d with barred := true }
    (may → compute → d.phase = .up → s.slotGone slot = false → ∃ t, exec (.dieRestartRequest q slot deadline) s = .next t ∧ answers t .done ∧
      (t.die slot).phase = .yielding deadline ∧ ∀ p ∈ s.teamsOn slot, s.noPreempt ⟨p.1, p.2, 0, deadline, 0, 0⟩ = none →
        (∀ a ∈ s.launches, ∀ b ∈ s.launches, a.seq = b.seq → a = b) → ∃ l r a e, t.launch p.1 = some l ∧ l.teamState p.2 = some (.stopping r a e) ∧ r.deadline = deadline) ∧
    (may → ¬ compute ∨ d.phase ≠ .up ∨ s.slotGone slot = true → ∃ t, exec (.dieRestartRequest q slot deadline) s = .next t ∧ answers t .failed ∧
      t = { s with outbox := t.outbox }) ∧
    (d.phase = .yielding deadline → (held ∨ s.dieIdle slot = false → exec (.dieQuiet slot) s = .next s) ∧
      (¬ held → s.dieIdle slot = true → ∃ t, exec (.dieQuiet slot) s = .next t ∧ reset t)) ∧
    (d.phase = .quiet tq → due (.selfTestStart slot) (tq + 12000) fun t => t = { s with dies := t.dies, mem := t.mem, poison := t.poison, written := t.written } ∧
      (t.die slot).phase = .selfTest tq ∧ (∀ off < 0x80000000, byteAt t.mem (paOf slot off) = 0) ∧
      ∀ a, a < paOf slot 0 ∨ paOf slot 0x80000000 ≤ a → byteAt t.mem a = byteAt s.mem a) ∧
    (d.phase = .selfTest tq → due (.rejoinStart slot) (tq + 108000) fun t => (Config.coin s.fresh = true → (t.die slot).phase = .rejoin tq (Config.coin (s.fresh + 1))) ∧
      (Config.coin s.fresh = false → slot ≤ 36 → (t.die slot).phase = .lost ∨ s.slotGone slot = true)) ∧
    (d.phase = .rejoin tq true → due (.rejoinComplete slot) (tq + 120000) fun t => (t.die slot).phase = .up ∧ (t.die slot).incarn = d.incarn + 1 ∧
      (t.die slot).restarts = 0 ∧ t.mix = s.mix) ∧
    (d.phase = .rejoin tq false → due (.rejoinTimeout slot) (tq + 240000) fun t => (d.restarts = 0 → (t.die slot).phase = .quiet s.ptick ∧
      (t.die slot).restarts = 1) ∧ (1 ≤ d.restarts → slot ≤ 36 → t.slotGone slot = true)) ∧
    (d.phase = .off → compute → 1520 ≤ temp.toInt → exec (.trippedDieCooldown slot temp) s = .next (s.setDie slot { d with temp := temp })) ∧
    (d.phase = .off → compute → temp.toInt < 1520 → ∃ t, exec (.trippedDieCooldown slot temp) s = .next t ∧ reset t ∧ (t.die slot).hot = false) ∧
    (d.phase ≠ .off ∨ ¬ compute → exec (.trippedDieCooldown slot temp) s = .next s) ∧
    (dieKind slot = some .bd → ∃ t, exec (.bdTableError slot set_) s = .next t ∧ (t.die slot).barred = true ∧
      ((∀ l ∈ s.launches, s.losesBy l slot = false) → t = { cleared with faults := s.faults ++ [teamEv s 0 0 0x0305 0 2 slot] }) ∧
      ∀ l ∈ s.launches, s.losesBy l slot = true → ∀ l', t.launch l.seq = some l' → ∀ x ∈ l'.teams, x.state.live = false) ∧
    (dieKind slot ≠ some .bd → exec (.bdTableError slot set_) s = .next s)) ∧
  (∀ (s : State) (k : Nat),
    let zeroed (t : State) : Prop := t.mem = [] ∧ t.poison = [] ∧ t.launches = [] ∧ t.engines = [] ∧ t.clusters = [] ∧ t.accesses = [] ∧ t.images = [] ∧
      t.faults = [] ∧ t.trust.tenants = [] ∧ t.trust.sessions = []
    let status (t : State) (j : Fin 37) : Nat := (t.mix[j]).toNat / 8 % 4
    let passes (j : Nat) : Prop := Config.coin (s.fresh + j) = true
    let off (j : Fin 37) : Prop := (s.fuse[j]).toNat / 8 % 4 = 1
    let booted (t : State) : Prop := t.fuse = s.fuse ∧ t.mgmt.podcfg = 0 ∧
      ∀ j : Fin 37, (t.mix[j]).toNat % 8 = (s.fuse[j]).toNat % 8 ∧ t.mgmt.health.getLsbD j.val = decide (status t j = 2)
    (∃ t, exec .packageReset s = .next t ∧ zeroed t ∧ booted t ∧ t.ptick = s.ptick ∧ (∀ j : Fin 37, (status s j = 2 → status t j = 2) ∧
      (status s j ≠ 2 → off j ∨ passes j → t.mix[j] = s.fuse[j]) ∧ (status s j ≠ 2 → ¬ off j → ¬ passes j → status t j = 2)) ∧ (k < 37 → (t.die k).incarn = (s.die k).incarn + 1 ∧
      (t.die k).acc = [] ∧ (t.die k).keys = [] ∧ (t.die k).uncorr = (s.die k).uncorr ∧ (t.die k).tripCount = (s.die k).tripCount)) ∧
    (∃ t, exec .packagePowerOn s = .next t ∧ zeroed t ∧ booted t ∧ t.ptick = 0 ∧ (k < 37 → (t.die k).incarn = 0 ∧ (t.die k).phase = .up) ∧
      ∀ j : Fin 37, (off j ∨ passes j → t.mix[j] = s.fuse[j]) ∧ (¬ off j → ¬ passes j → status t j = 2)))

/-- R429-R432: an evacuation starts once, and holds the launches that pin or map its BD. Its extents move one at a time where one fits, are spilled
as far as the region goes, sealed lines in their outer form (R355), and the BD is lost when all have left; else it is short, by the MiB that remain, and goes on when room is
free. A spilled extent returns to free HBM4E. Log 27 says what the model chose here. -/
def Obligations.EvacuationMoves : Prop :=
  ∀ (s : State) (a n k q m dst pa : Nat) (x : Extent) (y : Spill),
    let v := s.mgmt.evacctl.toNat
    let slot := v / 2 ^ 32 % 256
    let status := v / 2 ^ 16 % 16
    let on := s.mgmt.evacFrom
    let runs : Prop := status = 1 ∨ status = 3
    let may : Prop := ¬ runs ∧ dieKind slot = some .bd ∧ s.slotGone slot = false
    let hit (l : Launch) : Bool := l.bound && (s.pins l slot || s.mapsSlot l slot)
    let waits : Prop := ∃ l ∈ s.launches, l.waits = true ∧ l.state = .inCourse
    let moving : Prop := status = 1 ∧ ¬ waits
    let xs := s.extentsOn on
    let reads (t : State) (status short go : Nat) : Prop :=
      let w := t.mgmt.evacctl.toNat
      w / 2 ^ 16 % 16 = status ∧ w / 2 ^ 40 = short ∧ w % 2 = go ∧ w / 2 ^ 32 % 256 = slot
    let mib := ((xs.map fun x => s.extentSize on x).sum + 2 ^ 20 - 1) / 2 ^ 20
    let moved : State := (s.moveExtent on x dst pa).releaseAll on
    let elsewhere (t : State) (k : Nat) : Prop := ∀ a, paSlot a ≠ dst → paSlot a ≠ k → byteAt t.mem a = byteAt s.mem a
    let back : Option (Spill × Nat × Nat × Die × List AccEntry) := s.trust.spilled.findSome? fun z => (s.spillHome z).map fun d => (z, d)
    (¬ may → exec .evacuationStart s = .next s) ∧
    (may → ∃ t, exec .evacuationStart s = .next t ∧ t = { s with mgmt := t.mgmt, launches := t.launches } ∧
      t.mgmt = { s.mgmt with evacctl := t.mgmt.evacctl, evacFrom := slot } ∧ reads t 1 0 1 ∧ t.mgmt.evacctl.toNat / 2 % 2 = 0 ∧
      t.launches = s.launches.map fun (l : Launch) => if hit l then { l with waits := true } else l) ∧
    (¬ moving → exec .extentMove s = .next s) ∧
    (moving → s.movable on = some (x, dst, pa) → exec .extentMove s = .next (s.moveExtent on x dst pa)) ∧
    (moving → s.movable on = some (.log a n, dst, pa) → ∃ t, exec .extentMove s = .next t ∧ t.bytes pa n = s.bytes a n ∧ elsewhere t on ∧
      t = { s with mem := t.mem, poison := t.poison, written := t.written, dies := t.dies, trust := t.trust, mgmt := { s.mgmt with flog := t.mgmt.flog } } ∧
      t.mgmt.flog.toNat / 2 ^ 12 % 2 ^ 44 = pa / 4096 % 2 ^ 44) ∧
    (moving → s.movable on = some (.save q m a n, dst, pa) → ∃ t, exec .extentMove s = .next t ∧ t.bytes pa n = s.bytes a n ∧ elsewhere t on ∧
      t = { s with mem := t.mem, poison := t.poison, written := t.written, dies := t.dies, trust := t.trust, launches := t.launches } ∧
      t.launches = s.launches.map fun (l : Launch) => if l.seq = q then { l with areas := l.areas.put m (pa, n - 1) } else l) ∧
    (moving → dieKind on = some .bd → s.movable on = some (.generation k, dst, pa) → ∃ t, exec .extentMove s = .next t ∧ t = { s with dies := t.dies } ∧
      ((t.die dst).ckSet k).current = ((s.die on).ckSet k).current ∧ ((t.die on).ckSet k).current = none) ∧
    (moving → s.movable on = none → xs.find? (fun x => s.spillFits on x) = some x → exec .extentMove s = .next (s.spillExtent on x)) ∧
    (moving → s.movable on = none → xs.find? (fun x => s.spillFits on x) = some (.generation k) →
      ∀ g, ((s.die on).ckSet k).current = some g → ∃ t z, exec .extentMove s = .next t ∧
      t = { s with trust := { s.trust with spilled := s.trust.spilled ++ [z] }, outbox := t.outbox, dies := t.dies } ∧ z.what = .generation k ∧
      z.gen = some g ∧ z.slot = on ∧ ((t.die on).ckSet k).current = none ∧
      t.outbox = s.outbox ++ [Output.hostWrite (s.mgmt.spillbase.toNat / 2 ^ 12 * 4096 + s.spillUsed)
        (g.extents.flatMap fun e => s.outerForm e.1 e.2)]) ∧
    (moving → xs = [] → ∃ t, exec .extentMove s = .next t ∧ reads t 2 0 0 ∧ t.slotGone on = true) ∧
    (moving → s.movable on = none → xs ≠ [] → (∀ x ∈ xs, s.spillFits on x = false) → ∃ t, exec .extentMove s = .next t ∧ reads t 3 (mib % 2 ^ 24) 1 ∧
      t.slotGone on = s.slotGone on) ∧
    (status ≠ 3 ∨ s.movable on = none → exec .evacuationResume s = .next s) ∧
    (status = 3 → s.movable on = some (x, dst, pa) →
      (moved.extentsOn on ≠ [] → exec .evacuationResume s = .next moved) ∧
      (moved.extentsOn on = [] → ∃ t, exec .evacuationResume s = .next t ∧ reads t 2 0 0 ∧ t.slotGone on = true)) ∧
    (back = none → exec .spilledExtentReturn s = .next s) ∧
    (∀ d es, back = some (y, dst, pa, d, es) → ∃ t, exec .spilledExtentReturn s = .next t ∧ t.trust.spilled = s.trust.spilled.erase y ∧
      (y.what = .generation k → t.mem = s.mem ∧ ((t.die dst).ckSet k).current = y.gen) ∧
      (y.what = .log a n → t.bytes pa y.data.length = y.data ∧ elsewhere t dst ∧ t.mgmt.flog.toNat / 2 ^ 12 % 2 ^ 44 = pa / 4096 % 2 ^ 44))

/-! ## Trust -/

/-- R348-R351, R359, R448: the states of a TDI; the answers of the SPDM requests, which make, open and end sessions; GET_MEASUREMENTS and ATTEST answer the
index of R350; after a measurement failure, which holds every launch, ends every session and puts every TDI in ERROR once what it issued has performed, CHALLENGE, GET_MEASUREMENTS,
KEY_EXCHANGE and the package's own requests are answered Unspecified. What a body says, and a request outside a session, are the model's (log 11). -/
def Obligations.SessionsAnswer : Prop :=
  ∀ (s : State) (n tag reason : Nat) (images queues : List Nat) (q : SpdmReq) (x : Session),
    let tdi : Prop := 1 ≤ n ∧ n ≤ 16
    let st := (s.tdi n).state
    let owner : Option (BitVec 16) := (s.trust.tenants.find? fun t => t.tdi == n).map fun t => t.tag
    let other : Prop := ∃ t, owner = some t ∧ t ≠ BitVec.ofNat 16 tag
    let waits : Prop := ∃ x ∈ s.mgmt.hostHeld, x.req.fn = n
    let cert : Nat := (q.body.getD 0 0).toNat % 16
    let tells (u : State) (r : SpdmReply) : State := { u with outbox := u.outbox ++ [Output.spdm q.session r] }
    let body := Config.spdmBody s.fresh q.body
    let drawn (u : State) : State := { u with fresh := u.fresh + 1 }
    let sess (l : List Session) : State := { s with trust := { s.trust with sessions := l } }
    let failed : Prop := s.trust.measFail = true
    let isOpen : Prop := s.session? q.session = some x ∧ x.open_ = true
    let upd (f : Session → Session) : List Session := s.trust.sessions.map fun y => if y.id = q.session then f y else y
    let whole (ms : List (Nat × List Byte)) : Prop :=
      (0x01, bytesOf 32 s.trust.rootDigest.toNat) ∈ ms ∧ (0x30, s.mix.toList ++ [0, 0, 0]) ∈ ms ∧ (0x31, bytesOf 8 s.arithrev.toNat) ∈ ms ∧
        (∀ k < 37, (2 + k, if s.slotGone k = true then List.replicate 32 0 else bytesOf 32 (s.die k).fwDigest.toNat) ∈ ms) ∧
        (∀ i < 64, (0x40 + i, if (s.image i).state = 2 then s.bytes (imagePa i 96) 32 ++ s.bytes (imagePa i 88) 1 else List.replicate 33 0) ∈ ms) ∧
        ms.length = 104
    let measures (i : Instr) : Prop := ∃ ms, exec i s = .next (tells (drawn s) (.measurements ms body)) ∧ whole ms
    (tdi → st = .unlocked → ¬ other → exec (.lockInterface n tag images queues) s = .next (s.setTdi n ⟨.locked, false, BitVec.ofNat 16 tag, images, queues⟩)) ∧
    (¬ tdi ∨ st ≠ .unlocked ∨ other → exec (.lockInterface n tag images queues) s = .next s) ∧
    (tdi → st = .locked → exec (.startInterfaceRequest n) s = .next (s.setTdi n { s.tdi n with state := .run })) ∧
    (¬ tdi ∨ st ≠ .locked → exec (.startInterfaceRequest n) s = .next s) ∧
    (tdi → exec (.stopInterfaceRequest n) s = .next (s.setTdi n ⟨.unlocked, false, owner.getD 0, [], []⟩)) ∧
    exec (.getVersion q) s = .next (tells s (.version 1 3)) ∧
    exec (.getCapabilities q) s = .next (tells (drawn s) (.response body)) ∧
    exec (.negotiateAlgorithms q) s = .next (tells s (.algorithms .ecdsaP256 .sha256 .ecdheP256 .aes256Gcm)) ∧
    exec (.getDigests q) s = .next (tells s (.digests [(0, sha256 (Config.certChain 0)), (1, sha256 (Config.certChain 1))])) ∧
    (cert ≤ 1 → exec (.getCertificate q) s = .next (tells s (.certificate cert (Config.certChain cert)))) ∧
    (1 < cert → exec (.getCertificate q) s = .next (tells s (.error .unstated))) ∧
    (failed → ∀ i ∈ ([.challenge q, .getMeasurements q, .keyExchange q, .attest q] : List Instr), ∃ t, exec i s = .next t ∧
      t.outbox = s.outbox ++ [Output.spdm q.session (.error .unspecified)] ∧ t.trust = s.trust) ∧
    (¬ failed → exec (.challenge q) s = .next (tells (drawn s) (.response body)) ∧ measures (.getMeasurements q) ∧ (isOpen → measures (.attest q)) ∧
      exec (.keyExchange q) s = .next (tells { sess (s.trust.sessions ++ [⟨s.nextId, false, false⟩]) with nextId := s.nextId + 1 } (.session s.nextId))) ∧
    (s.session? q.session = some x → x.open_ = false →
      exec (.finish q) s = .next (tells (drawn (sess (upd fun y => { y with open_ := true }))) (.response body))) ∧
    (isOpen → exec (.heartbeat q) s = .next (tells (drawn s) (.response body)) ∧ exec (.keyUpdate q) s = .next (tells (drawn s) (.response body)) ∧
      exec (.endSession q) s = .next (tells (drawn (sess (s.trust.sessions.filter fun y => y.id != q.session))) (.response body)) ∧
      exec (.subscribeEventTypes q) s = .next (tells (drawn (sess (upd fun y => { y with subscribed := true }))) (.response body))) ∧
    ((∀ y, s.session? q.session = some y → y.open_ = false) → ∀ i ∈ ([.heartbeat q, .keyUpdate q, .endSession q, .subscribeEventTypes q] : List Instr),
      exec i s = .next (tells s (.error .unstated))) ∧
    (∃ t, exec (.measurementFailure reason) s = .next t ∧ t.trust.measFail = true ∧ t.trust.sessions = [] ∧
      (tdi → ¬ waits → (t.tdi n).state = .error) ∧ (tdi → waits → (t.tdi n).failing = true) ∧
      ∀ l ∈ s.launches, l.bound = true → ∀ l', t.launch l.seq = some l' → l'.state = .heldAnswer false)

/-- R351, R353-R360, R435, R447, R448: the requests of an open session: a tenant is provisioned whole or not at all, its entries replaced once
what was admitted under the old ones has performed, or all of it removed once its teams have stopped, its
launches ended and its regions zero; firmware is staged, and active once no launch holds its die. A key slot that fails is reloaded within
12,000 ticks or lost. Authentic packets of a joined port are taken in the order of their flow and as the table admits, and a message with its last. Current generations are copied to the
pod store in their outer form, and restored, resealed, as current generations. Logs 28, 29, 43 and 58 say what the model chose here. -/
def Obligations.TenantsAndRepair : Prop :=
  (∀ (s : State) (q : SpdmReq) (g : Grant) (e : GrantEntry) (tn : Tenant) (f : Firmware) (slot tag j b : Nat) (save : Bool),
    let may : Prop := s.trust.measFail = false ∧ ∃ x, s.session? q.session = some x ∧ x.open_ = true
    let tells (u : State) (r : SpdmReply) : State := { u with outbox := u.outbox ++ [Output.spdm q.session r] }
    let known : Prop := g.tag = 0xFFFE ∨ g.tag = 0xFFFF ∨ ∃ t ∈ s.trust.tenants, t.tag = g.tag
    let tdiBad : Prop := g.tdi ≠ 0 ∧ (16 < g.tdi ∨ (s.tdi g.tdi).state ≠ .unlocked ∨ ∃ t ∈ s.trust.tenants, t.tdi = g.tdi)
    let a : AccEntry := writtenEntry e.entry 0
    let old := s.table e.slot e.cluster
    let fits : Prop := grantOk e g.tag = true ∧ old.length < 128 ∧ hostApart (old ++ [a]) = true ∧ e.entry.key.toNat % 16 = 0
    let keys := (s.die b).keys
    let id := BitVec.ofNat 16 tag
    let pend : Option (SpdmReq × Grant × List Nat × List HeldReq) := s.trust.changes.find? fun c => c.1 == q && c.2.1 == g
    let old' := s.admitted g.tag
    let replaced (t : State) : Prop :=
      (∀ p ∈ allTargets, ∀ a ∈ t.table p.1 p.2, a.master ≠ g.tag) ∧ ∀ x ∈ t.trust.tenants, x.tag = g.tag → x.entries = []
    let asked : Prop := (q, id.toNat, save) ∈ s.trust.releases
    let going : State := if (q, id.toNat, save) ∈ s.trust.releases then s else
      { s with trust := { s.trust with releases := s.trust.releases ++ [(q, id.toNat, save)] } }
    let begun : State := going.releaseBegin id.toNat save
    let own (t : BitVec 16) : Option Tenant := s.trust.tenants.find? fun x => x.tag == t && x.session == q.session
    let staged : Option Firmware := s.trust.staged.find? fun x => x.slot == slot
    let held : Prop := ∃ l ∈ s.launches, ∃ p ∈ l.bind, p.2 = slot
    let waiting : Prop := (q, slot) ∈ s.trust.activations
    let rest : List Firmware := s.trust.staged.filter fun x => x.slot != slot
    let bit (t : State) : Bool := t.mgmt.health.getLsbD 37
    let actions (i : Instr) (r : SpdmReply) (p : State → Prop) : Prop := ∃ t, exec i s = .next t ∧ t.outbox.getLast? = some (Output.spdm q.session r) ∧ p t
    let failure (i : Instr) : Prop := exec i s = .next (tells s .failed)
    let active (t : State) : Prop := (t.die slot).fwDigest = f.digest ∧ t.trust.staged = rest ∧ bit t = !rest.isEmpty ∧
      (∀ k, k ≠ slot → t.die k = s.die k) ∧ ∀ x ∈ s.trust.sessions, x.open_ = true → x.subscribed = true → Output.spdmEvent x.id ∈ t.outbox
    (may → known ∨ tdiBad → failure (.provision q g)) ∧
    (may → ¬ known → ¬ tdiBad → g.bds = [] ∨ g.tag = 0 → g.entries = [e] → fits → actions (.provision q g) .done fun t =>
      t.trust.tenants = s.trust.tenants ++ [⟨g.tag, q.session, g.tdi, g.key, [{ e with entry := a }]⟩] ∧ t.table e.slot e.cluster = old ++ [a] ∧
      (g.tdi ≠ 0 → (t.tdi g.tdi).tenant = g.tag)) ∧
    (may → ¬ known → ¬ tdiBad → g.tag ≠ 0 → g.bds = [b] → g.entries = [] → dieKind b = some .bd → 1 ≤ j → j < 16 → keys.find j = none →
      (∀ i, 1 ≤ i → i < j → keys.find i ≠ none) → actions (.provision q g) .done fun t => (t.die b).keys.find j = some ⟨g.tag, g.key, none⟩) ∧
    (may → pend = none → own g.tag = none → failure (.reprovision q g)) ∧
    (may → pend = none → own g.tag = some tn → g.entries = [] →
      (s.drained old' = true → actions (.reprovision q g) .done replaced) ∧
      (s.drained old' = false → ∃ t, exec (.reprovision q g) s = .next t ∧ t.outbox = s.outbox ∧ t.trust.changes = s.trust.changes ++ [(q, g, old')] ∧
        replaced t)) ∧
    (∀ c, pend = some c → (s.drained c.2.2 = false → exec (.reprovision q g) s = .next s) ∧ (s.drained c.2.2 = true →
      exec (.reprovision q g) s = .next (tells { s with trust := { s.trust with changes := s.trust.changes.erase c } } .done))) ∧
    (may → ¬ asked → own id = none → failure (.release q tag save)) ∧
    ((asked ∧ s.trust.tenants.find? (fun t => t.tag == id) = some tn) ∨ (¬ asked ∧ may ∧ own id = some tn) →
      (begun.releaseQuiet id.toNat = false → exec (.release q tag save) s = .next begun) ∧
      (begun.releaseQuiet id.toNat = true → actions (.release q tag save) .done fun t => (∀ x ∈ t.trust.tenants, x.tag ≠ id) ∧
        (∀ k < 37, ∀ p ∈ (t.die k).keys, p.2.tenant ≠ id) ∧ (∀ r ∈ t.trust.releases, r.2.1 ≠ id.toNat) ∧
        (∀ p ∈ allTargets, ∀ a ∈ t.table p.1 p.2, a.master ≠ id) ∧
        (∀ l ∈ begun.launches, begun.lrTenant l.image = id.toNat → t.launch l.seq = none) ∧ (id ≠ 0 → ∀ k, (t.tdi k).tenant ≠ id) ∧
        ∀ p ∈ allTargets, dieKind p.1 ≠ some .sd → dieKind p.1 ≠ some .hd → ∀ a ∈ begun.table p.1 p.2, a.master = id → a.base.toNat % 256 = 0 →
          (a.limit.toNat + 1) % 256 = 0 → ∀ off, a.base.toNat ≤ off → off ≤ a.limit.toNat → byteAt t.mem (paOf p.1 (p.2 * 0x1000000 + off)) = 0)) ∧
    (may → f.slot ≤ 36 → actions (.firmwareStage q f) .done fun t => t.trust.staged = s.trust.staged.filter (fun x => x.slot != f.slot) ++ [f] ∧ bit t = true ∧
      t.dies = s.dies) ∧
    (may → 36 < f.slot → failure (.firmwareStage q f)) ∧
    (may → staged = none → failure (.firmwareActivate q slot)) ∧
    (staged = some f → waiting → ¬ held → f.sigOk = true → actions (.firmwareActivate q slot) .done active) ∧
    (may → staged = some f → ¬ waiting → f.sigOk = true → ¬ held → actions (.firmwareActivate q slot) .done active) ∧
    (may ∨ (waiting ∧ ¬ held) → staged = some f → f.sigOk = false → actions (.firmwareActivate q slot) (.error .invalidRequest) fun t =>
      t.trust.staged = rest ∧ t.dies = s.dies ∧ bit t = !rest.isEmpty) ∧
    (may → staged = some f → f.sigOk = true → held → actions (.firmwareActivate q slot) (.response []) fun t =>
      (q, slot) ∈ t.trust.activations ∧ t.dies = s.dies ∧ t.trust.staged = s.trust.staged) ∧
    (s.trust.measFail = true → ∀ i : Instr, i ∈ ([.provision q g, .firmwareStage q f, .dieRestartRequest q slot j] : List Instr) ∨
      (i = .reprovision q g ∧ pend = none) ∨ (i = .release q tag save ∧ ¬ asked) → exec i s = .next (tells s (.error .unspecified)))) ∧
  (∀ (s : State) (slot key : Nat) (k : KeySlot) (ok : Bool) (pkg ports : BitVec 12) (p : PodPacket) (c : SafeCopy),
    let d := s.die slot
    let spoilt (a : AccEntry) : AccEntry := if a.key.toNat % 16 = key then { a with rights := a.rights &&& 0xF7 } else a
    let flow := p.msg.src.toNat * 65536 + p.msg.tag.toNat
    let joined : Prop := p.port < 12 ∧ s.mgmt.podcfg.getLsbD (12 + p.port) = true
    let taken : Prop := dieKind slot = some .sd ∧ joined ∧ p.authentic = true ∧ AMap.getD s.trust.podNext flow 0 = p.number ∧
      s.podAdmits slot p = true ∧ p.msg.payload.length ≤ 9000
    let got : List Byte := AMap.getD s.trust.podParts flow [] ++ p.msg.payload
    let podded (parts : AMap (List Byte)) : State := { s with trust := { s.trust with
      podNext := s.trust.podNext.put flow (p.number + 1), podParts := parts } }
    let sent : Prop := dieKind slot = some .sd ∧ p.port / 3 = slot / 9 ∧ p ∈ s.trust.podKept
    let v := s.mgmt.safectl.toNat
    let w := s.mgmt.saferst.toNat
    let dst := w / 2 ^ 32 % 256
    let copyIs (t : State) (status go : Nat) : Prop := t.mgmt.safectl.toNat / 2 ^ 16 % 16 = status ∧ t.mgmt.safectl.toNat % 2 = go
    let restIs (t : State) (status go : Nat) : Prop := t.mgmt.saferst.toNat / 2 ^ 48 % 16 = status ∧ t.mgmt.saferst.toNat % 2 = go
    let copy : Option SafeCopy := s.trust.safeCopies.find? fun c => c.pkg.toNat == w / 2 ^ 52 && c.slot == w / 2 ^ 40 % 256 && c.set_ == w / 2 ^ 24 % 256
    let out := c.gen.extents.zip c.owners
    let tagOf (o : Option (BitVec 16 × BitVec 512)) : BitVec 16 := match o with | some o => o.1 | none => 0
    let covered : Prop := ∀ x ∈ out, (accEntryFor (s.die dst).acc (tagOf x.2) (paOff x.1.1)).isSome = true ∧
      (accEntryFor (s.die dst).acc (tagOf x.2) (paOff x.1.1 + (x.1.2.length - 1))).isSome = true ∧ (s.resealFor dst x.1.1 x.1.2 x.2).isSome = true
    (d.keys.find key = none → exec (.keySlotEccFailure slot key ok) s = .next s ∧ exec (.keyReloadComplete slot key) s = .next s) ∧
    (d.keys.find key = some k →
      (∃ due, exec (.keySlotEccFailure slot key true) s = .next ({ s with fresh := s.fresh + 1 }.setDie slot { d with
          keys := d.keys.put key { k with reload := some due } }) ∧ s.ptick ≤ due ∧ due ≤ s.ptick + 12000) ∧
      (∃ t, exec (.keySlotEccFailure slot key false) s = .next t ∧ (t.die slot).keys = d.keys.erase key ∧ (t.die slot).acc = d.acc.map spoilt ∧
        ((∀ a ∈ s.launches, ∀ b ∈ s.launches, a.seq = b.seq → a = b) → ∀ l ∈ s.launches, ∀ x ∈ l.teams, x.state.stoppable = true →
          (∃ y ∈ l.streams, y.team = x.index ∧ y.eng.slot = slot) →
          ∃ l' x', t.launch l.seq = some l' ∧ x' ∈ l'.teams ∧ x'.index = x.index ∧ x'.state = .held 0x030B false)) ∧
      (∀ due, k.reload = some due → (s.ptick < due → exec (.keyReloadComplete slot key) s = .next s) ∧
        (due ≤ s.ptick → exec (.keyReloadComplete slot key) s = .next (s.setDie slot { d with keys := d.keys.put key { k with reload := none } })))) ∧
    exec (.podJoin pkg ports) s = .next { s with mgmt := { s.mgmt with podcfg := BitVec.ofNat 64 (ports.toNat * 4096 + pkg.toNat) } } ∧
    (taken → p.more = true → exec (.podPacketReceive slot p) s = .next (podded (s.trust.podParts.put flow got))) ∧
    (taken → p.more = false → exec (.podPacketReceive slot p) s = .next ((podded (s.trust.podParts.erase flow)).setDie slot
      { d with messages := d.messages ++ [⟨{ p.msg with payload := got }, s.ptick, none⟩] })) ∧
    (¬ taken → exec (.podPacketReceive slot p) s = .next s) ∧
    (sent → exec (.podPacketRetransmit slot p) s = .next { s with outbox := s.outbox ++ [.pod p.port p] }) ∧
    (¬ sent → exec (.podPacketRetransmit slot p) s = .next s) ∧
    (v / 2 ^ 16 % 16 = 1 → exec .safeTierCopy s = .next s) ∧
    (v / 2 ^ 16 % 16 ≠ 1 → ∃ t due, exec .safeTierCopy s = .next t ∧ copyIs t 1 1 ∧ t.mgmt.safeDue = some due ∧ s.ptick < due ∧
      t = { s with fresh := s.fresh + 1, mgmt := t.mgmt, trust := t.trust, outbox := s.outbox ++ t.trust.copying.map s.copyOut } ∧ t.trust.safeCopies = s.trust.safeCopies ∧
      ∀ x ∈ t.trust.copying, x.pkg = s.package ∧ dieKind x.slot = some .bd ∧ (v / 2 % 2 = 1 ∨ x.set_ = v / 2 ^ 8 % 256) ∧
        ∃ y ∈ (s.die x.slot).ckpt, y.1 = x.set_ ∧ y.2.current = some x.gen) ∧
    (v / 2 ^ 16 % 16 ≠ 1 → exec (.safeTierCopyDone ok) s = .next s) ∧
    (v / 2 ^ 16 % 16 = 1 → ∃ t, exec (.safeTierCopyDone ok) s = .next t ∧ copyIs t (if ok = true then 2 else 3) 0 ∧ t.mgmt.safeDue = none ∧
      t.trust.copying = [] ∧ (ok = true → ∀ x ∈ s.trust.copying, x ∈ t.trust.safeCopies) ∧ (ok = false → t.trust.safeCopies = s.trust.safeCopies)) ∧
    (w / 2 ^ 48 % 16 = 1 → exec .safeRestore s = .next s) ∧
    (w / 2 ^ 48 % 16 ≠ 1 → copy = none ∨ dieKind dst ≠ some .bd ∨ s.slotGone dst = true → ∃ t, exec .safeRestore s = .next t ∧ restIs t 3 0 ∧
      t = { s with mgmt := t.mgmt }) ∧
    (w / 2 ^ 48 % 16 ≠ 1 → copy = some c → dieKind dst = some .bd → s.slotGone dst = false → covered → ∃ t, exec .safeRestore s = .next t ∧ restIs t 1 1 ∧
      t.mem = out.foldl (fun m x => writeBytes m (paOf dst (paOff x.1.1)) ((s.resealFor dst x.1.1 x.1.2 x.2).getD [])) s.mem ∧
      ((t.die dst).ckSet c.set_).current = some { c.gen with extents := c.gen.extents.map fun x => (paOf dst (paOff x.1), x.2) }) ∧
    (w / 2 ^ 48 % 16 ≠ 1 → exec (.safeRestoreDone ok) s = .next s) ∧
    (w / 2 ^ 48 % 16 = 1 → ∃ t, exec (.safeRestoreDone ok) s = .next t ∧ restIs t (if ok = true then 2 else 3) 0 ∧ t.mgmt.restDue = none ∧ t.mem = s.mem))

end
end

