-- ==== Sys2Proof/Laws/State.lean ====
section
/-! SUPPORT. Reading a field after an update of the state: one lemma per field per update, and the lemmas of the sparse tables
that hold engines, clusters and dies. -/

namespace Sys2Proof.Machine

/-! ### setEng -/

@[simp] theorem State.setEng_cur (s : State) (e : EngId) (v : Engine) : (s.setEng e v).cur = s.cur := rfl
@[simp] theorem State.setEng_ptick (s : State) (e : EngId) (v : Engine) : (s.setEng e v).ptick = s.ptick := rfl
@[simp] theorem State.setEng_fresh (s : State) (e : EngId) (v : Engine) : (s.setEng e v).fresh = s.fresh := rfl
@[simp] theorem State.setEng_nextId (s : State) (e : EngId) (v : Engine) : (s.setEng e v).nextId = s.nextId := rfl
@[simp] theorem State.setEng_inbox (s : State) (e : EngId) (v : Engine) : (s.setEng e v).inbox = s.inbox := rfl
@[simp] theorem State.setEng_outbox (s : State) (e : EngId) (v : Engine) : (s.setEng e v).outbox = s.outbox := rfl
@[simp] theorem State.setEng_fuse (s : State) (e : EngId) (v : Engine) : (s.setEng e v).fuse = s.fuse := rfl
@[simp] theorem State.setEng_mix (s : State) (e : EngId) (v : Engine) : (s.setEng e v).mix = s.mix := rfl
@[simp] theorem State.setEng_arithrev (s : State) (e : EngId) (v : Engine) : (s.setEng e v).arithrev = s.arithrev := rfl
@[simp] theorem State.setEng_mem (s : State) (e : EngId) (v : Engine) : (s.setEng e v).mem = s.mem := rfl
@[simp] theorem State.setEng_poison (s : State) (e : EngId) (v : Engine) : (s.setEng e v).poison = s.poison := rfl
@[simp] theorem State.setEng_written (s : State) (e : EngId) (v : Engine) : (s.setEng e v).written = s.written := rfl
@[simp] theorem State.setEng_clusters (s : State) (e : EngId) (v : Engine) : (s.setEng e v).clusters = s.clusters := rfl
@[simp] theorem State.setEng_dies (s : State) (e : EngId) (v : Engine) : (s.setEng e v).dies = s.dies := rfl
@[simp] theorem State.setEng_accesses (s : State) (e : EngId) (v : Engine) : (s.setEng e v).accesses = s.accesses := rfl
@[simp] theorem State.setEng_owns (s : State) (e : EngId) (v : Engine) : (s.setEng e v).owns = s.owns := rfl
@[simp] theorem State.setEng_replies (s : State) (e : EngId) (v : Engine) : (s.setEng e v).replies = s.replies := rfl
@[simp] theorem State.setEng_crossings (s : State) (e : EngId) (v : Engine) : (s.setEng e v).crossings = s.crossings := rfl
@[simp] theorem State.setEng_pushes (s : State) (e : EngId) (v : Engine) : (s.setEng e v).pushes = s.pushes := rfl
@[simp] theorem State.setEng_pieces (s : State) (e : EngId) (v : Engine) : (s.setEng e v).pieces = s.pieces := rfl
@[simp] theorem State.setEng_images (s : State) (e : EngId) (v : Engine) : (s.setEng e v).images = s.images := rfl
@[simp] theorem State.setEng_launches (s : State) (e : EngId) (v : Engine) : (s.setEng e v).launches = s.launches := rfl
@[simp] theorem State.setEng_nextSeq (s : State) (e : EngId) (v : Engine) : (s.setEng e v).nextSeq = s.nextSeq := rfl
@[simp] theorem State.setEng_past (s : State) (e : EngId) (v : Engine) : (s.setEng e v).past = s.past := rfl
@[simp] theorem State.setEng_gov (s : State) (e : EngId) (v : Engine) : (s.setEng e v).gov = s.gov := rfl
@[simp] theorem State.setEng_faults (s : State) (e : EngId) (v : Engine) : (s.setEng e v).faults = s.faults := rfl
@[simp] theorem State.setEng_mgmt (s : State) (e : EngId) (v : Engine) : (s.setEng e v).mgmt = s.mgmt := rfl
@[simp] theorem State.setEng_trust (s : State) (e : EngId) (v : Engine) : (s.setEng e v).trust = s.trust := rfl

/-! ### setCluster -/

@[simp] theorem State.setCluster_cur (s : State) (c : Nat) (v : Cluster) : (s.setCluster c v).cur = s.cur := rfl
@[simp] theorem State.setCluster_ptick (s : State) (c : Nat) (v : Cluster) : (s.setCluster c v).ptick = s.ptick := rfl
@[simp] theorem State.setCluster_fresh (s : State) (c : Nat) (v : Cluster) : (s.setCluster c v).fresh = s.fresh := rfl
@[simp] theorem State.setCluster_nextId (s : State) (c : Nat) (v : Cluster) : (s.setCluster c v).nextId = s.nextId := rfl
@[simp] theorem State.setCluster_inbox (s : State) (c : Nat) (v : Cluster) : (s.setCluster c v).inbox = s.inbox := rfl
@[simp] theorem State.setCluster_outbox (s : State) (c : Nat) (v : Cluster) : (s.setCluster c v).outbox = s.outbox := rfl
@[simp] theorem State.setCluster_fuse (s : State) (c : Nat) (v : Cluster) : (s.setCluster c v).fuse = s.fuse := rfl
@[simp] theorem State.setCluster_mix (s : State) (c : Nat) (v : Cluster) : (s.setCluster c v).mix = s.mix := rfl
@[simp] theorem State.setCluster_arithrev (s : State) (c : Nat) (v : Cluster) : (s.setCluster c v).arithrev = s.arithrev := rfl
@[simp] theorem State.setCluster_mem (s : State) (c : Nat) (v : Cluster) : (s.setCluster c v).mem = s.mem := rfl
@[simp] theorem State.setCluster_poison (s : State) (c : Nat) (v : Cluster) : (s.setCluster c v).poison = s.poison := rfl
@[simp] theorem State.setCluster_written (s : State) (c : Nat) (v : Cluster) : (s.setCluster c v).written = s.written := rfl
@[simp] theorem State.setCluster_engines (s : State) (c : Nat) (v : Cluster) : (s.setCluster c v).engines = s.engines := rfl
@[simp] theorem State.setCluster_dies (s : State) (c : Nat) (v : Cluster) : (s.setCluster c v).dies = s.dies := rfl
@[simp] theorem State.setCluster_accesses (s : State) (c : Nat) (v : Cluster) : (s.setCluster c v).accesses = s.accesses := rfl
@[simp] theorem State.setCluster_owns (s : State) (c : Nat) (v : Cluster) : (s.setCluster c v).owns = s.owns := rfl
@[simp] theorem State.setCluster_replies (s : State) (c : Nat) (v : Cluster) : (s.setCluster c v).replies = s.replies := rfl
@[simp] theorem State.setCluster_crossings (s : State) (c : Nat) (v : Cluster) : (s.setCluster c v).crossings = s.crossings := rfl
@[simp] theorem State.setCluster_pushes (s : State) (c : Nat) (v : Cluster) : (s.setCluster c v).pushes = s.pushes := rfl
@[simp] theorem State.setCluster_pieces (s : State) (c : Nat) (v : Cluster) : (s.setCluster c v).pieces = s.pieces := rfl
@[simp] theorem State.setCluster_images (s : State) (c : Nat) (v : Cluster) : (s.setCluster c v).images = s.images := rfl
@[simp] theorem State.setCluster_launches (s : State) (c : Nat) (v : Cluster) : (s.setCluster c v).launches = s.launches := rfl
@[simp] theorem State.setCluster_nextSeq (s : State) (c : Nat) (v : Cluster) : (s.setCluster c v).nextSeq = s.nextSeq := rfl
@[simp] theorem State.setCluster_past (s : State) (c : Nat) (v : Cluster) : (s.setCluster c v).past = s.past := rfl
@[simp] theorem State.setCluster_gov (s : State) (c : Nat) (v : Cluster) : (s.setCluster c v).gov = s.gov := rfl
@[simp] theorem State.setCluster_faults (s : State) (c : Nat) (v : Cluster) : (s.setCluster c v).faults = s.faults := rfl
@[simp] theorem State.setCluster_mgmt (s : State) (c : Nat) (v : Cluster) : (s.setCluster c v).mgmt = s.mgmt := rfl
@[simp] theorem State.setCluster_trust (s : State) (c : Nat) (v : Cluster) : (s.setCluster c v).trust = s.trust := rfl

/-! ### setDie -/

@[simp] theorem State.setDie_cur (s : State) (k : Nat) (v : Die) : (s.setDie k v).cur = s.cur := rfl
@[simp] theorem State.setDie_ptick (s : State) (k : Nat) (v : Die) : (s.setDie k v).ptick = s.ptick := rfl
@[simp] theorem State.setDie_fresh (s : State) (k : Nat) (v : Die) : (s.setDie k v).fresh = s.fresh := rfl
@[simp] theorem State.setDie_nextId (s : State) (k : Nat) (v : Die) : (s.setDie k v).nextId = s.nextId := rfl
@[simp] theorem State.setDie_inbox (s : State) (k : Nat) (v : Die) : (s.setDie k v).inbox = s.inbox := rfl
@[simp] theorem State.setDie_outbox (s : State) (k : Nat) (v : Die) : (s.setDie k v).outbox = s.outbox := rfl
@[simp] theorem State.setDie_fuse (s : State) (k : Nat) (v : Die) : (s.setDie k v).fuse = s.fuse := rfl
@[simp] theorem State.setDie_mix (s : State) (k : Nat) (v : Die) : (s.setDie k v).mix = s.mix := rfl
@[simp] theorem State.setDie_arithrev (s : State) (k : Nat) (v : Die) : (s.setDie k v).arithrev = s.arithrev := rfl
@[simp] theorem State.setDie_mem (s : State) (k : Nat) (v : Die) : (s.setDie k v).mem = s.mem := rfl
@[simp] theorem State.setDie_poison (s : State) (k : Nat) (v : Die) : (s.setDie k v).poison = s.poison := rfl
@[simp] theorem State.setDie_written (s : State) (k : Nat) (v : Die) : (s.setDie k v).written = s.written := rfl
@[simp] theorem State.setDie_engines (s : State) (k : Nat) (v : Die) : (s.setDie k v).engines = s.engines := rfl
@[simp] theorem State.setDie_clusters (s : State) (k : Nat) (v : Die) : (s.setDie k v).clusters = s.clusters := rfl
@[simp] theorem State.setDie_accesses (s : State) (k : Nat) (v : Die) : (s.setDie k v).accesses = s.accesses := rfl
@[simp] theorem State.setDie_owns (s : State) (k : Nat) (v : Die) : (s.setDie k v).owns = s.owns := rfl
@[simp] theorem State.setDie_replies (s : State) (k : Nat) (v : Die) : (s.setDie k v).replies = s.replies := rfl
@[simp] theorem State.setDie_crossings (s : State) (k : Nat) (v : Die) : (s.setDie k v).crossings = s.crossings := rfl
@[simp] theorem State.setDie_pushes (s : State) (k : Nat) (v : Die) : (s.setDie k v).pushes = s.pushes := rfl
@[simp] theorem State.setDie_pieces (s : State) (k : Nat) (v : Die) : (s.setDie k v).pieces = s.pieces := rfl
@[simp] theorem State.setDie_images (s : State) (k : Nat) (v : Die) : (s.setDie k v).images = s.images := rfl
@[simp] theorem State.setDie_launches (s : State) (k : Nat) (v : Die) : (s.setDie k v).launches = s.launches := rfl
@[simp] theorem State.setDie_nextSeq (s : State) (k : Nat) (v : Die) : (s.setDie k v).nextSeq = s.nextSeq := rfl
@[simp] theorem State.setDie_past (s : State) (k : Nat) (v : Die) : (s.setDie k v).past = s.past := rfl
@[simp] theorem State.setDie_gov (s : State) (k : Nat) (v : Die) : (s.setDie k v).gov = s.gov := rfl
@[simp] theorem State.setDie_faults (s : State) (k : Nat) (v : Die) : (s.setDie k v).faults = s.faults := rfl
@[simp] theorem State.setDie_mgmt (s : State) (k : Nat) (v : Die) : (s.setDie k v).mgmt = s.mgmt := rfl
@[simp] theorem State.setDie_trust (s : State) (k : Nat) (v : Die) : (s.setDie k v).trust = s.trust := rfl

/-! ### updEng -/

@[simp] theorem State.updEng_cur (s : State) (e : EngId) (f : Engine → Engine) : (s.updEng e f).cur = s.cur := rfl
@[simp] theorem State.updEng_ptick (s : State) (e : EngId) (f : Engine → Engine) : (s.updEng e f).ptick = s.ptick := rfl
@[simp] theorem State.updEng_fresh (s : State) (e : EngId) (f : Engine → Engine) : (s.updEng e f).fresh = s.fresh := rfl
@[simp] theorem State.updEng_nextId (s : State) (e : EngId) (f : Engine → Engine) : (s.updEng e f).nextId = s.nextId := rfl
@[simp] theorem State.updEng_inbox (s : State) (e : EngId) (f : Engine → Engine) : (s.updEng e f).inbox = s.inbox := rfl
@[simp] theorem State.updEng_outbox (s : State) (e : EngId) (f : Engine → Engine) : (s.updEng e f).outbox = s.outbox := rfl
@[simp] theorem State.updEng_fuse (s : State) (e : EngId) (f : Engine → Engine) : (s.updEng e f).fuse = s.fuse := rfl
@[simp] theorem State.updEng_mix (s : State) (e : EngId) (f : Engine → Engine) : (s.updEng e f).mix = s.mix := rfl
@[simp] theorem State.updEng_arithrev (s : State) (e : EngId) (f : Engine → Engine) : (s.updEng e f).arithrev = s.arithrev := rfl
@[simp] theorem State.updEng_mem (s : State) (e : EngId) (f : Engine → Engine) : (s.updEng e f).mem = s.mem := rfl
@[simp] theorem State.updEng_poison (s : State) (e : EngId) (f : Engine → Engine) : (s.updEng e f).poison = s.poison := rfl
@[simp] theorem State.updEng_written (s : State) (e : EngId) (f : Engine → Engine) : (s.updEng e f).written = s.written := rfl
@[simp] theorem State.updEng_clusters (s : State) (e : EngId) (f : Engine → Engine) : (s.updEng e f).clusters = s.clusters := rfl
@[simp] theorem State.updEng_dies (s : State) (e : EngId) (f : Engine → Engine) : (s.updEng e f).dies = s.dies := rfl
@[simp] theorem State.updEng_accesses (s : State) (e : EngId) (f : Engine → Engine) : (s.updEng e f).accesses = s.accesses := rfl
@[simp] theorem State.updEng_owns (s : State) (e : EngId) (f : Engine → Engine) : (s.updEng e f).owns = s.owns := rfl
@[simp] theorem State.updEng_replies (s : State) (e : EngId) (f : Engine → Engine) : (s.updEng e f).replies = s.replies := rfl
@[simp] theorem State.updEng_crossings (s : State) (e : EngId) (f : Engine → Engine) : (s.updEng e f).crossings = s.crossings := rfl
@[simp] theorem State.updEng_pushes (s : State) (e : EngId) (f : Engine → Engine) : (s.updEng e f).pushes = s.pushes := rfl
@[simp] theorem State.updEng_pieces (s : State) (e : EngId) (f : Engine → Engine) : (s.updEng e f).pieces = s.pieces := rfl
@[simp] theorem State.updEng_images (s : State) (e : EngId) (f : Engine → Engine) : (s.updEng e f).images = s.images := rfl
@[simp] theorem State.updEng_launches (s : State) (e : EngId) (f : Engine → Engine) : (s.updEng e f).launches = s.launches := rfl
@[simp] theorem State.updEng_nextSeq (s : State) (e : EngId) (f : Engine → Engine) : (s.updEng e f).nextSeq = s.nextSeq := rfl
@[simp] theorem State.updEng_past (s : State) (e : EngId) (f : Engine → Engine) : (s.updEng e f).past = s.past := rfl
@[simp] theorem State.updEng_gov (s : State) (e : EngId) (f : Engine → Engine) : (s.updEng e f).gov = s.gov := rfl
@[simp] theorem State.updEng_faults (s : State) (e : EngId) (f : Engine → Engine) : (s.updEng e f).faults = s.faults := rfl
@[simp] theorem State.updEng_mgmt (s : State) (e : EngId) (f : Engine → Engine) : (s.updEng e f).mgmt = s.mgmt := rfl
@[simp] theorem State.updEng_trust (s : State) (e : EngId) (f : Engine → Engine) : (s.updEng e f).trust = s.trust := rfl

/-! ### updCluster -/

@[simp] theorem State.updCluster_cur (s : State) (c : Nat) (f : Cluster → Cluster) : (s.updCluster c f).cur = s.cur := rfl
@[simp] theorem State.updCluster_ptick (s : State) (c : Nat) (f : Cluster → Cluster) : (s.updCluster c f).ptick = s.ptick := rfl
@[simp] theorem State.updCluster_fresh (s : State) (c : Nat) (f : Cluster → Cluster) : (s.updCluster c f).fresh = s.fresh := rfl
@[simp] theorem State.updCluster_nextId (s : State) (c : Nat) (f : Cluster → Cluster) : (s.updCluster c f).nextId = s.nextId := rfl
@[simp] theorem State.updCluster_inbox (s : State) (c : Nat) (f : Cluster → Cluster) : (s.updCluster c f).inbox = s.inbox := rfl
@[simp] theorem State.updCluster_outbox (s : State) (c : Nat) (f : Cluster → Cluster) : (s.updCluster c f).outbox = s.outbox := rfl
@[simp] theorem State.updCluster_fuse (s : State) (c : Nat) (f : Cluster → Cluster) : (s.updCluster c f).fuse = s.fuse := rfl
@[simp] theorem State.updCluster_mix (s : State) (c : Nat) (f : Cluster → Cluster) : (s.updCluster c f).mix = s.mix := rfl
@[simp] theorem State.updCluster_arithrev (s : State) (c : Nat) (f : Cluster → Cluster) : (s.updCluster c f).arithrev = s.arithrev := rfl
@[simp] theorem State.updCluster_mem (s : State) (c : Nat) (f : Cluster → Cluster) : (s.updCluster c f).mem = s.mem := rfl
@[simp] theorem State.updCluster_poison (s : State) (c : Nat) (f : Cluster → Cluster) : (s.updCluster c f).poison = s.poison := rfl
@[simp] theorem State.updCluster_written (s : State) (c : Nat) (f : Cluster → Cluster) : (s.updCluster c f).written = s.written := rfl
@[simp] theorem State.updCluster_engines (s : State) (c : Nat) (f : Cluster → Cluster) : (s.updCluster c f).engines = s.engines := rfl
@[simp] theorem State.updCluster_dies (s : State) (c : Nat) (f : Cluster → Cluster) : (s.updCluster c f).dies = s.dies := rfl
@[simp] theorem State.updCluster_accesses (s : State) (c : Nat) (f : Cluster → Cluster) : (s.updCluster c f).accesses = s.accesses := rfl
@[simp] theorem State.updCluster_owns (s : State) (c : Nat) (f : Cluster → Cluster) : (s.updCluster c f).owns = s.owns := rfl
@[simp] theorem State.updCluster_replies (s : State) (c : Nat) (f : Cluster → Cluster) : (s.updCluster c f).replies = s.replies := rfl
@[simp] theorem State.updCluster_crossings (s : State) (c : Nat) (f : Cluster → Cluster) : (s.updCluster c f).crossings = s.crossings := rfl
@[simp] theorem State.updCluster_pushes (s : State) (c : Nat) (f : Cluster → Cluster) : (s.updCluster c f).pushes = s.pushes := rfl
@[simp] theorem State.updCluster_pieces (s : State) (c : Nat) (f : Cluster → Cluster) : (s.updCluster c f).pieces = s.pieces := rfl
@[simp] theorem State.updCluster_images (s : State) (c : Nat) (f : Cluster → Cluster) : (s.updCluster c f).images = s.images := rfl
@[simp] theorem State.updCluster_launches (s : State) (c : Nat) (f : Cluster → Cluster) : (s.updCluster c f).launches = s.launches := rfl
@[simp] theorem State.updCluster_nextSeq (s : State) (c : Nat) (f : Cluster → Cluster) : (s.updCluster c f).nextSeq = s.nextSeq := rfl
@[simp] theorem State.updCluster_past (s : State) (c : Nat) (f : Cluster → Cluster) : (s.updCluster c f).past = s.past := rfl
@[simp] theorem State.updCluster_gov (s : State) (c : Nat) (f : Cluster → Cluster) : (s.updCluster c f).gov = s.gov := rfl
@[simp] theorem State.updCluster_faults (s : State) (c : Nat) (f : Cluster → Cluster) : (s.updCluster c f).faults = s.faults := rfl
@[simp] theorem State.updCluster_mgmt (s : State) (c : Nat) (f : Cluster → Cluster) : (s.updCluster c f).mgmt = s.mgmt := rfl
@[simp] theorem State.updCluster_trust (s : State) (c : Nat) (f : Cluster → Cluster) : (s.updCluster c f).trust = s.trust := rfl

/-! ### updDie -/

@[simp] theorem State.updDie_cur (s : State) (k : Nat) (f : Die → Die) : (s.updDie k f).cur = s.cur := rfl
@[simp] theorem State.updDie_ptick (s : State) (k : Nat) (f : Die → Die) : (s.updDie k f).ptick = s.ptick := rfl
@[simp] theorem State.updDie_fresh (s : State) (k : Nat) (f : Die → Die) : (s.updDie k f).fresh = s.fresh := rfl
@[simp] theorem State.updDie_nextId (s : State) (k : Nat) (f : Die → Die) : (s.updDie k f).nextId = s.nextId := rfl
@[simp] theorem State.updDie_inbox (s : State) (k : Nat) (f : Die → Die) : (s.updDie k f).inbox = s.inbox := rfl
@[simp] theorem State.updDie_outbox (s : State) (k : Nat) (f : Die → Die) : (s.updDie k f).outbox = s.outbox := rfl
@[simp] theorem State.updDie_fuse (s : State) (k : Nat) (f : Die → Die) : (s.updDie k f).fuse = s.fuse := rfl
@[simp] theorem State.updDie_mix (s : State) (k : Nat) (f : Die → Die) : (s.updDie k f).mix = s.mix := rfl
@[simp] theorem State.updDie_arithrev (s : State) (k : Nat) (f : Die → Die) : (s.updDie k f).arithrev = s.arithrev := rfl
@[simp] theorem State.updDie_mem (s : State) (k : Nat) (f : Die → Die) : (s.updDie k f).mem = s.mem := rfl
@[simp] theorem State.updDie_poison (s : State) (k : Nat) (f : Die → Die) : (s.updDie k f).poison = s.poison := rfl
@[simp] theorem State.updDie_written (s : State) (k : Nat) (f : Die → Die) : (s.updDie k f).written = s.written := rfl
@[simp] theorem State.updDie_engines (s : State) (k : Nat) (f : Die → Die) : (s.updDie k f).engines = s.engines := rfl
@[simp] theorem State.updDie_clusters (s : State) (k : Nat) (f : Die → Die) : (s.updDie k f).clusters = s.clusters := rfl
@[simp] theorem State.updDie_accesses (s : State) (k : Nat) (f : Die → Die) : (s.updDie k f).accesses = s.accesses := rfl
@[simp] theorem State.updDie_owns (s : State) (k : Nat) (f : Die → Die) : (s.updDie k f).owns = s.owns := rfl
@[simp] theorem State.updDie_replies (s : State) (k : Nat) (f : Die → Die) : (s.updDie k f).replies = s.replies := rfl
@[simp] theorem State.updDie_crossings (s : State) (k : Nat) (f : Die → Die) : (s.updDie k f).crossings = s.crossings := rfl
@[simp] theorem State.updDie_pushes (s : State) (k : Nat) (f : Die → Die) : (s.updDie k f).pushes = s.pushes := rfl
@[simp] theorem State.updDie_pieces (s : State) (k : Nat) (f : Die → Die) : (s.updDie k f).pieces = s.pieces := rfl
@[simp] theorem State.updDie_images (s : State) (k : Nat) (f : Die → Die) : (s.updDie k f).images = s.images := rfl
@[simp] theorem State.updDie_launches (s : State) (k : Nat) (f : Die → Die) : (s.updDie k f).launches = s.launches := rfl
@[simp] theorem State.updDie_nextSeq (s : State) (k : Nat) (f : Die → Die) : (s.updDie k f).nextSeq = s.nextSeq := rfl
@[simp] theorem State.updDie_past (s : State) (k : Nat) (f : Die → Die) : (s.updDie k f).past = s.past := rfl
@[simp] theorem State.updDie_gov (s : State) (k : Nat) (f : Die → Die) : (s.updDie k f).gov = s.gov := rfl
@[simp] theorem State.updDie_faults (s : State) (k : Nat) (f : Die → Die) : (s.updDie k f).faults = s.faults := rfl
@[simp] theorem State.updDie_mgmt (s : State) (k : Nat) (f : Die → Die) : (s.updDie k f).mgmt = s.mgmt := rfl
@[simp] theorem State.updDie_trust (s : State) (k : Nat) (f : Die → Die) : (s.updDie k f).trust = s.trust := rfl

/-! ### store -/

@[simp] theorem State.store_cur (s : State) (pa : Nat) (bs : List Byte) : (s.store pa bs).cur = s.cur := rfl
@[simp] theorem State.store_ptick (s : State) (pa : Nat) (bs : List Byte) : (s.store pa bs).ptick = s.ptick := rfl
@[simp] theorem State.store_fresh (s : State) (pa : Nat) (bs : List Byte) : (s.store pa bs).fresh = s.fresh := rfl
@[simp] theorem State.store_nextId (s : State) (pa : Nat) (bs : List Byte) : (s.store pa bs).nextId = s.nextId := rfl
@[simp] theorem State.store_inbox (s : State) (pa : Nat) (bs : List Byte) : (s.store pa bs).inbox = s.inbox := rfl
@[simp] theorem State.store_outbox (s : State) (pa : Nat) (bs : List Byte) : (s.store pa bs).outbox = s.outbox := rfl
@[simp] theorem State.store_fuse (s : State) (pa : Nat) (bs : List Byte) : (s.store pa bs).fuse = s.fuse := rfl
@[simp] theorem State.store_mix (s : State) (pa : Nat) (bs : List Byte) : (s.store pa bs).mix = s.mix := rfl
@[simp] theorem State.store_arithrev (s : State) (pa : Nat) (bs : List Byte) : (s.store pa bs).arithrev = s.arithrev := rfl
@[simp] theorem State.store_engines (s : State) (pa : Nat) (bs : List Byte) : (s.store pa bs).engines = s.engines := rfl
@[simp] theorem State.store_clusters (s : State) (pa : Nat) (bs : List Byte) : (s.store pa bs).clusters = s.clusters := rfl
@[simp] theorem State.store_dies (s : State) (pa : Nat) (bs : List Byte) : (s.store pa bs).dies = s.dies := rfl
@[simp] theorem State.store_accesses (s : State) (pa : Nat) (bs : List Byte) : (s.store pa bs).accesses = s.accesses := rfl
@[simp] theorem State.store_owns (s : State) (pa : Nat) (bs : List Byte) : (s.store pa bs).owns = s.owns := rfl
@[simp] theorem State.store_replies (s : State) (pa : Nat) (bs : List Byte) : (s.store pa bs).replies = s.replies := rfl
@[simp] theorem State.store_crossings (s : State) (pa : Nat) (bs : List Byte) : (s.store pa bs).crossings = s.crossings := rfl
@[simp] theorem State.store_pushes (s : State) (pa : Nat) (bs : List Byte) : (s.store pa bs).pushes = s.pushes := rfl
@[simp] theorem State.store_pieces (s : State) (pa : Nat) (bs : List Byte) : (s.store pa bs).pieces = s.pieces := rfl
@[simp] theorem State.store_images (s : State) (pa : Nat) (bs : List Byte) : (s.store pa bs).images = s.images := rfl
@[simp] theorem State.store_launches (s : State) (pa : Nat) (bs : List Byte) : (s.store pa bs).launches = s.launches := rfl
@[simp] theorem State.store_nextSeq (s : State) (pa : Nat) (bs : List Byte) : (s.store pa bs).nextSeq = s.nextSeq := rfl
@[simp] theorem State.store_past (s : State) (pa : Nat) (bs : List Byte) : (s.store pa bs).past = s.past := rfl
@[simp] theorem State.store_gov (s : State) (pa : Nat) (bs : List Byte) : (s.store pa bs).gov = s.gov := rfl
@[simp] theorem State.store_faults (s : State) (pa : Nat) (bs : List Byte) : (s.store pa bs).faults = s.faults := rfl
@[simp] theorem State.store_mgmt (s : State) (pa : Nat) (bs : List Byte) : (s.store pa bs).mgmt = s.mgmt := rfl
@[simp] theorem State.store_trust (s : State) (pa : Nat) (bs : List Byte) : (s.store pa bs).trust = s.trust := rfl

/-! ### fault -/

@[simp] theorem State.fault_cur (s : State) (f : FaultEv) : (s.fault f).cur = s.cur := rfl
@[simp] theorem State.fault_ptick (s : State) (f : FaultEv) : (s.fault f).ptick = s.ptick := rfl
@[simp] theorem State.fault_fresh (s : State) (f : FaultEv) : (s.fault f).fresh = s.fresh := rfl
@[simp] theorem State.fault_nextId (s : State) (f : FaultEv) : (s.fault f).nextId = s.nextId := rfl
@[simp] theorem State.fault_inbox (s : State) (f : FaultEv) : (s.fault f).inbox = s.inbox := rfl
@[simp] theorem State.fault_outbox (s : State) (f : FaultEv) : (s.fault f).outbox = s.outbox := rfl
@[simp] theorem State.fault_fuse (s : State) (f : FaultEv) : (s.fault f).fuse = s.fuse := rfl
@[simp] theorem State.fault_mix (s : State) (f : FaultEv) : (s.fault f).mix = s.mix := rfl
@[simp] theorem State.fault_arithrev (s : State) (f : FaultEv) : (s.fault f).arithrev = s.arithrev := rfl
@[simp] theorem State.fault_mem (s : State) (f : FaultEv) : (s.fault f).mem = s.mem := rfl
@[simp] theorem State.fault_poison (s : State) (f : FaultEv) : (s.fault f).poison = s.poison := rfl
@[simp] theorem State.fault_written (s : State) (f : FaultEv) : (s.fault f).written = s.written := rfl
@[simp] theorem State.fault_engines (s : State) (f : FaultEv) : (s.fault f).engines = s.engines := rfl
@[simp] theorem State.fault_clusters (s : State) (f : FaultEv) : (s.fault f).clusters = s.clusters := rfl
@[simp] theorem State.fault_dies (s : State) (f : FaultEv) : (s.fault f).dies = s.dies := rfl
@[simp] theorem State.fault_accesses (s : State) (f : FaultEv) : (s.fault f).accesses = s.accesses := rfl
@[simp] theorem State.fault_owns (s : State) (f : FaultEv) : (s.fault f).owns = s.owns := rfl
@[simp] theorem State.fault_replies (s : State) (f : FaultEv) : (s.fault f).replies = s.replies := rfl
@[simp] theorem State.fault_crossings (s : State) (f : FaultEv) : (s.fault f).crossings = s.crossings := rfl
@[simp] theorem State.fault_pushes (s : State) (f : FaultEv) : (s.fault f).pushes = s.pushes := rfl
@[simp] theorem State.fault_pieces (s : State) (f : FaultEv) : (s.fault f).pieces = s.pieces := rfl
@[simp] theorem State.fault_images (s : State) (f : FaultEv) : (s.fault f).images = s.images := rfl
@[simp] theorem State.fault_launches (s : State) (f : FaultEv) : (s.fault f).launches = s.launches := rfl
@[simp] theorem State.fault_nextSeq (s : State) (f : FaultEv) : (s.fault f).nextSeq = s.nextSeq := rfl
@[simp] theorem State.fault_past (s : State) (f : FaultEv) : (s.fault f).past = s.past := rfl
@[simp] theorem State.fault_gov (s : State) (f : FaultEv) : (s.fault f).gov = s.gov := rfl
@[simp] theorem State.fault_mgmt (s : State) (f : FaultEv) : (s.fault f).mgmt = s.mgmt := rfl
@[simp] theorem State.fault_trust (s : State) (f : FaultEv) : (s.fault f).trust = s.trust := rfl

/-! ### draw -/

@[simp] theorem State.draw_cur (s : State) : (s.draw.2).cur = s.cur := rfl
@[simp] theorem State.draw_ptick (s : State) : (s.draw.2).ptick = s.ptick := rfl
@[simp] theorem State.draw_nextId (s : State) : (s.draw.2).nextId = s.nextId := rfl
@[simp] theorem State.draw_inbox (s : State) : (s.draw.2).inbox = s.inbox := rfl
@[simp] theorem State.draw_outbox (s : State) : (s.draw.2).outbox = s.outbox := rfl
@[simp] theorem State.draw_fuse (s : State) : (s.draw.2).fuse = s.fuse := rfl
@[simp] theorem State.draw_mix (s : State) : (s.draw.2).mix = s.mix := rfl
@[simp] theorem State.draw_arithrev (s : State) : (s.draw.2).arithrev = s.arithrev := rfl
@[simp] theorem State.draw_mem (s : State) : (s.draw.2).mem = s.mem := rfl
@[simp] theorem State.draw_poison (s : State) : (s.draw.2).poison = s.poison := rfl
@[simp] theorem State.draw_written (s : State) : (s.draw.2).written = s.written := rfl
@[simp] theorem State.draw_engines (s : State) : (s.draw.2).engines = s.engines := rfl
@[simp] theorem State.draw_clusters (s : State) : (s.draw.2).clusters = s.clusters := rfl
@[simp] theorem State.draw_dies (s : State) : (s.draw.2).dies = s.dies := rfl
@[simp] theorem State.draw_accesses (s : State) : (s.draw.2).accesses = s.accesses := rfl
@[simp] theorem State.draw_owns (s : State) : (s.draw.2).owns = s.owns := rfl
@[simp] theorem State.draw_replies (s : State) : (s.draw.2).replies = s.replies := rfl
@[simp] theorem State.draw_crossings (s : State) : (s.draw.2).crossings = s.crossings := rfl
@[simp] theorem State.draw_pushes (s : State) : (s.draw.2).pushes = s.pushes := rfl
@[simp] theorem State.draw_pieces (s : State) : (s.draw.2).pieces = s.pieces := rfl
@[simp] theorem State.draw_images (s : State) : (s.draw.2).images = s.images := rfl
@[simp] theorem State.draw_launches (s : State) : (s.draw.2).launches = s.launches := rfl
@[simp] theorem State.draw_nextSeq (s : State) : (s.draw.2).nextSeq = s.nextSeq := rfl
@[simp] theorem State.draw_past (s : State) : (s.draw.2).past = s.past := rfl
@[simp] theorem State.draw_gov (s : State) : (s.draw.2).gov = s.gov := rfl
@[simp] theorem State.draw_faults (s : State) : (s.draw.2).faults = s.faults := rfl
@[simp] theorem State.draw_mgmt (s : State) : (s.draw.2).mgmt = s.mgmt := rfl
@[simp] theorem State.draw_trust (s : State) : (s.draw.2).trust = s.trust := rfl

/-! ### newId -/

@[simp] theorem State.newId_cur (s : State) : (s.newId.2).cur = s.cur := rfl
@[simp] theorem State.newId_ptick (s : State) : (s.newId.2).ptick = s.ptick := rfl
@[simp] theorem State.newId_fresh (s : State) : (s.newId.2).fresh = s.fresh := rfl
@[simp] theorem State.newId_inbox (s : State) : (s.newId.2).inbox = s.inbox := rfl
@[simp] theorem State.newId_outbox (s : State) : (s.newId.2).outbox = s.outbox := rfl
@[simp] theorem State.newId_fuse (s : State) : (s.newId.2).fuse = s.fuse := rfl
@[simp] theorem State.newId_mix (s : State) : (s.newId.2).mix = s.mix := rfl
@[simp] theorem State.newId_arithrev (s : State) : (s.newId.2).arithrev = s.arithrev := rfl
@[simp] theorem State.newId_mem (s : State) : (s.newId.2).mem = s.mem := rfl
@[simp] theorem State.newId_poison (s : State) : (s.newId.2).poison = s.poison := rfl
@[simp] theorem State.newId_written (s : State) : (s.newId.2).written = s.written := rfl
@[simp] theorem State.newId_engines (s : State) : (s.newId.2).engines = s.engines := rfl
@[simp] theorem State.newId_clusters (s : State) : (s.newId.2).clusters = s.clusters := rfl
@[simp] theorem State.newId_dies (s : State) : (s.newId.2).dies = s.dies := rfl
@[simp] theorem State.newId_accesses (s : State) : (s.newId.2).accesses = s.accesses := rfl
@[simp] theorem State.newId_owns (s : State) : (s.newId.2).owns = s.owns := rfl
@[simp] theorem State.newId_replies (s : State) : (s.newId.2).replies = s.replies := rfl
@[simp] theorem State.newId_crossings (s : State) : (s.newId.2).crossings = s.crossings := rfl
@[simp] theorem State.newId_pushes (s : State) : (s.newId.2).pushes = s.pushes := rfl
@[simp] theorem State.newId_pieces (s : State) : (s.newId.2).pieces = s.pieces := rfl
@[simp] theorem State.newId_images (s : State) : (s.newId.2).images = s.images := rfl
@[simp] theorem State.newId_launches (s : State) : (s.newId.2).launches = s.launches := rfl
@[simp] theorem State.newId_nextSeq (s : State) : (s.newId.2).nextSeq = s.nextSeq := rfl
@[simp] theorem State.newId_past (s : State) : (s.newId.2).past = s.past := rfl
@[simp] theorem State.newId_gov (s : State) : (s.newId.2).gov = s.gov := rfl
@[simp] theorem State.newId_faults (s : State) : (s.newId.2).faults = s.faults := rfl
@[simp] theorem State.newId_mgmt (s : State) : (s.newId.2).mgmt = s.mgmt := rfl
@[simp] theorem State.newId_trust (s : State) : (s.newId.2).trust = s.trust := rfl

/-! ### Sparse tables -/

@[simp] theorem AMap.find_put_same {α : Type} (m : AMap α) (i : Nat) (x : α) : (m.put i x).find i = some x := by
  induction m with
  | nil => simp [AMap.put, AMap.find]
  | cons p m ih =>
    obtain ⟨k, v⟩ := p
    simp only [AMap.put]
    split
    · simp [AMap.find, ih, Nat.ne_of_lt ‹_›]
    · split <;> simp [AMap.find]

theorem AMap.find_put_ne {α : Type} (m : AMap α) {i j : Nat} (x : α) (h : j ≠ i) : (m.put i x).find j = m.find j := by
  induction m with
  | nil => simp [AMap.put, AMap.find, Ne.symm h]
  | cons p m ih =>
    obtain ⟨k, v⟩ := p
    simp only [AMap.put]
    split
    · simp [AMap.find, ih]
    · split
      · subst_vars; simp [AMap.find, Ne.symm h]
      · simp [AMap.find, Ne.symm h]

@[simp] theorem AMap.getD_put_same {α : Type} (m : AMap α) (i : Nat) (x d : α) : (m.put i x).getD i d = x := by
  simp [AMap.getD]

theorem AMap.getD_put_ne {α : Type} (m : AMap α) {i j : Nat} (x d : α) (h : j ≠ i) : (m.put i x).getD j d = m.getD j d := by
  simp [AMap.getD, AMap.find_put_ne m x h]

/-! ### Engines, clusters and dies after an update -/

@[simp] theorem State.eng_setEng (s : State) (e : EngId) (v : Engine) : (s.setEng e v).eng e = v := by
  simp [State.eng, State.setEng]

theorem State.eng_setEng_ne (s : State) {e e' : EngId} (v : Engine) (h : e'.key ≠ e.key) : (s.setEng e v).eng e' = s.eng e' := by
  simp [State.eng, State.setEng, AMap.getD_put_ne _ _ _ h]

@[simp] theorem State.eng_updEng (s : State) (e : EngId) (f : Engine → Engine) : (s.updEng e f).eng e = f (s.eng e) := by
  simp [State.updEng]

@[simp] theorem State.cluster_setCluster (s : State) (c : Nat) (v : Cluster) : (s.setCluster c v).cluster c = v := by
  simp [State.cluster, State.setCluster]

theorem State.cluster_setCluster_ne (s : State) {c c' : Nat} (v : Cluster) (h : c' ≠ c) :
    (s.setCluster c v).cluster c' = s.cluster c' := by
  simp [State.cluster, State.setCluster, AMap.getD_put_ne _ _ _ h]

@[simp] theorem State.die_setDie (s : State) (k : Nat) (v : Die) : (s.setDie k v).die k = v := by
  simp [State.die, State.setDie]

theorem State.die_setDie_ne (s : State) {k k' : Nat} (v : Die) (h : k' ≠ k) : (s.setDie k v).die k' = s.die k' := by
  simp [State.die, State.setDie, AMap.getD_put_ne _ _ _ h]

@[simp] theorem State.cluster_setEng (s : State) (e : EngId) (v : Engine) (c : Nat) : (s.setEng e v).cluster c = s.cluster c := rfl
@[simp] theorem State.die_setEng (s : State) (e : EngId) (v : Engine) (k : Nat) : (s.setEng e v).die k = s.die k := rfl
@[simp] theorem State.eng_setCluster (s : State) (c : Nat) (v : Cluster) (e : EngId) : (s.setCluster c v).eng e = s.eng e := rfl
@[simp] theorem State.die_setCluster (s : State) (c : Nat) (v : Cluster) (k : Nat) : (s.setCluster c v).die k = s.die k := rfl
@[simp] theorem State.eng_setDie (s : State) (k : Nat) (v : Die) (e : EngId) : (s.setDie k v).eng e = s.eng e := rfl
@[simp] theorem State.cluster_setDie (s : State) (k : Nat) (v : Die) (c : Nat) : (s.setDie k v).cluster c = s.cluster c := rfl

end Sys2Proof.Machine
end

