-- ==== Sys2Proof/Laws/Issue.lean ====
section
/-! SUPPORT. One lemma for each shared operation of issuing: what it answers when nothing holds the instruction. -/

namespace Sys2Proof.Machine

theorem firstFault_append (l l' : List (Option (Nat × Nat))) :
    firstFault (l ++ l') = (firstFault l).or (firstFault l') := by
  simp [firstFault, List.findSome?_append]

theorem firstFault_none {l : List (Option (Nat × Nat))} (h : ∀ x ∈ l, x = none) : firstFault l = none := by
  simpa [firstFault] using h

@[simp] theorem check_false (f : Nat × Nat) : check false f = none := rfl

/-- An instruction that issues, with no exception of its own, does what stands behind its checks. -/
theorem onEngine_guarded {s : State} {reads : List Dest} {ws : List Landing} (h : s.Issues reads ws)
    (r : Engine → Nat → List Dest) (w : Engine → Nat → List Landing) (fl : Engine → Nat → List (Option (Nat × Nat)))
    (k : Engine → Nat → Out) (hr : r s.issuer s.issueAt = reads) (hw : w s.issuer s.issueAt = ws)
    (hf : firstFault (fl s.issuer s.issueAt) = none) :
    onEngine s (fun e c => guarded s e c (r e c) (w e c) (fl e c) (k e c)) = k s.issuer s.issueAt := by
  obtain ⟨h1, h2, h3, h4⟩ := h
  subst hr hw
  simp only [onEngine]
  split
  · simp_all
  · simp only [h2]
    simp only [guarded, h3, firstFault_append, hf, Bool.false_eq_true, if_false, Option.none_or]
    simp [firstFault, h4]

/-- An instruction without checks that issues. -/
theorem onEngine_issues {s : State} {reads : List Dest} {ws : List Landing} (h : s.Issues reads ws) (k : Engine → Nat → Out) :
    onEngine s k = k s.issuer s.issueAt := by
  obtain ⟨h1, h2, -, -⟩ := h
  simp only [onEngine]
  split
  · simp_all
  · simp [h2]

/-- An instruction that computes one register from registers, when it issues (R43). -/
theorem regOp_issues {s : State} {words stall lat : Nat} {reads : List Nat} {d : Nat} {value : Engine → Addr}
    (h : s.Issues (reads.map s.issuer.destOf) (s.result lat d (value s.issuer))) :
    regOp s words stall lat reads d value = Host.Outcome.next (s.passed words stall (s.result lat d (value s.issuer))) := by
  exact onEngine_guarded h _ _ _ _ rfl rfl rfl

/-- An instruction whose meaning is a `regOp` computes its value. -/
theorem computes_of {s : State} {i : Instr} {words stall lat : Nat} {reads : List Nat} {d : Nat} {v : Addr} (value : Engine → Addr)
    (hi : exec i s = regOp s words stall lat reads d value) (hv : value s.issuer = v) : s.computes i words stall lat reads d v := by
  intro h
  rw [hi, ← hv]
  rw [← hv] at h
  exact regOp_issues h

end Sys2Proof.Machine
end

