-- ==== Sys2Proof/Laws/Frame.lean ====
section
/-! SUPPORT. What the shared operations leave alone. -/

namespace Sys2Proof.Machine

/-! ## Moving past an instruction -/

theorem Engine.loopEnds_lc (e : Engine) (pc : BitVec 32) (n : Nat) : (e.loopEnds pc n).1 = { e with lc := (e.loopEnds pc n).1.lc } := by
  induction n generalizing e with
  | zero => rfl
  | succ n ih =>
    simp only [Engine.loopEnds]
    split
    · rfl
    · split
      · rfl
      · rename_i i _ _
        rw [ih]

/-- Going on keeps the registers. -/
theorem Engine.advance_sameRegs (e : Engine) (c words stall : Nat) : e.sameRegs (e.advance c words stall) := by
  have h := Engine.loopEnds_lc e e.pc 4
  exact ⟨(congrArg Engine.glob h :), (congrArg Engine.win h :), (congrArg Engine.depth h :), (congrArg Engine.a h :), (congrArg Engine.c h :),
    (congrArg Engine.w h :), (congrArg Engine.v h :), (congrArg Engine.z h :), (congrArg Engine.strmcfg h :), (congrArg Engine.secpart h :),
    (congrArg Engine.aspace h :), (congrArg Engine.cause h :), (congrArg Engine.epc h :), (congrArg Engine.chksb h :), (congrArg Engine.chans h :)⟩

theorem Engine.advance_pend (e : Engine) (c words stall : Nat) : (e.advance c words stall).pend = e.pend :=
  (congrArg Engine.pend (Engine.loopEnds_lc e e.pc 4) :)

theorem setEng_sameBut (s : State) (v : Engine) : s.sameBut (s.setEng s.cur v) := rfl

theorem eng_setEng_ne (s : State) (v : Engine) : s.sameOthers (s.setEng s.cur v) := by
  intro id h
  exact State.eng_setEng_ne s v h

theorem passed_frame (s : State) (words stall : Nat) (ws : List Landing) :
    s.sameBut (s.passed words stall ws) ∧ s.sameOthers (s.passed words stall ws) ∧ (s.passed words stall ws).faults = s.faults ∧
      s.issuer.sameRegs ((s.passed words stall ws).eng s.cur) := by
  refine ⟨rfl, eng_setEng_ne _ _, rfl, ?_⟩
  simp only [State.passed, State.eng_setEng]
  exact Engine.advance_sameRegs _ _ _ _

/-! ## Taking an exception -/

theorem takeException_sameBut (s : State) (e : Engine) (c cause detail : Nat) (epc : BitVec 32) :
    s.sameBut (takeException s s.cur e c cause detail epc) ∧ s.sameOthers (takeException s s.cur e c cause detail epc) := by
  unfold takeException
  dsimp only
  split
  · exact ⟨rfl, eng_setEng_ne _ _⟩
  · split
    · exact ⟨rfl, eng_setEng_ne _ _⟩
    · exact ⟨rfl, fun id h => eng_setEng_ne s _ id h⟩

/-! ## The three ways an instruction of registers goes on -/

theorem guarded_cases {s : State} {e : Engine} {c : Nat} {reads : List Dest} {ws : List Landing}
    {fl : List (Option (Nat × Nat))} {k : Out} {t : State} (h : guarded s e c reads ws fl k = .next t) :
    t = holdOne s ∨ (∃ cause detail, t = takeException s s.cur e c cause detail e.pc) ∨ k = .next t := by
  simp only [guarded] at h
  split at h
  · exact .inl (by injection h with h; exact h.symm)
  · split at h
    · exact .inr (.inl ⟨_, _, by simp only [raise] at h; injection h with h; exact h.symm⟩)
    · exact .inr (.inr h)

theorem onEngine_cases {s : State} {k : Engine → Nat → Out} {t : State} (h : onEngine s k = .next t) :
    t = holdOne s ∨ k s.issuer s.issueAt = .next t := by
  simp only [onEngine] at h
  split at h
  · cases h
  · split at h
    · exact .inl (by injection h with h; exact h.symm)
    · exact .inr h

theorem regOp_cases {s : State} {words stall lat : Nat} {reads : List Nat} {d : Nat} {value : Engine → Addr}
    {fl : Engine → List (Option (Nat × Nat))} {t : State} (h : regOp s words stall lat reads d value fl = .next t) :
    t = s.held ∨ (∃ cause detail, t = s.raised cause detail s.issuer.pc) ∨
      t = s.passed words stall (s.result lat d (value s.issuer)) := by
  rcases onEngine_cases h with h | h
  · exact .inl h
  · rcases guarded_cases h with h | h | h
    · exact .inl h
    · exact .inr (.inl h)
    · exact .inr (.inr (by simp only [finish] at h; injection h with h; exact h.symm))

end Sys2Proof.Machine
end

