-- ==== Sys2Proof/Laws/Memory.lean ====
section
/-! SUPPORT. Memory: every operation keeps the canonical form; what a byte reads after a write or a clearing. -/

namespace Sys2Proof.Machine

/-! ## The canonical form -/

/-- Addresses strictly rise. -/
def rising (m : List Host.Cell) : Prop := m.Pairwise fun a b => a.1 < b.1

theorem wf_cons_iff (c : Host.Cell) (m : List Host.Cell) :
    Memory.wf (c :: m) = true ↔ (∀ d ∈ m, c.1 < d.1) ∧ c.2 ≠ memDefault ∧ Memory.wf m = true := by
  induction m generalizing c with
  | nil => obtain ⟨a, b⟩ := c; simp [Memory.wf]
  | cons d m ih =>
    obtain ⟨a, b⟩ := c
    obtain ⟨a', b'⟩ := d
    have h := ih (a', b')
    simp only [Memory.wf, Bool.and_eq_true, decide_eq_true_eq, bne_iff_ne, List.mem_cons, forall_eq_or_imp]
    constructor
    · rintro ⟨⟨h1, h2⟩, h3⟩
      exact ⟨⟨h1, fun x hx => Nat.lt_trans h1 ((h.1 h3).1 x hx)⟩, h2, h3⟩
    · rintro ⟨⟨h1, _⟩, h2, h3⟩
      exact ⟨⟨h1, h2⟩, h3⟩

theorem wf_iff (m : List Host.Cell) : Memory.wf m = true ↔ rising m ∧ ∀ c ∈ m, c.2 ≠ memDefault := by
  induction m with
  | nil => simp [Memory.wf, rising]
  | cons c m ih =>
    rw [wf_cons_iff, ih]
    simp only [rising, List.pairwise_cons, List.mem_cons, forall_eq_or_imp]
    exact ⟨fun ⟨a, b, c, d⟩ => ⟨⟨a, c⟩, b, d⟩, fun ⟨⟨a, c⟩, b, d⟩ => ⟨a, b, c, d⟩⟩

theorem wf_filter {m : List Host.Cell} (h : Memory.wf m = true) (p : Host.Cell → Bool) : Memory.wf (m.filter p) = true := by
  rw [wf_iff] at *
  exact ⟨h.1.filter p, fun c hc => h.2 c (List.mem_filter.1 hc).1⟩

/-- Clearing a run of bytes keeps the canonical form. -/
theorem wf_clearBytes {m : List Host.Cell} (h : Memory.wf m = true) (a n : Nat) : Memory.wf (clearBytes m a n) = true :=
  wf_filter h _

theorem mem_runCells {a : Nat} {bs : List Byte} {c : Host.Cell} (h : c ∈ runCells a bs) :
    a ≤ c.1 ∧ c.1 < a + bs.length ∧ c.2 ≠ memDefault := by
  induction bs generalizing a with
  | nil => simp [runCells] at h
  | cons b bs ih =>
    simp only [runCells] at h
    split at h
    · obtain ⟨h1, h2, h3⟩ := ih h; simp only [List.length_cons]; exact ⟨by omega, by omega, h3⟩
    · rcases List.mem_cons.1 h with rfl | h
      · simp only [List.length_cons]; exact ⟨Nat.le_refl _, by omega, ‹_›⟩
      · obtain ⟨h1, h2, h3⟩ := ih h; simp only [List.length_cons]; exact ⟨by omega, by omega, h3⟩

theorem rising_runCells (a : Nat) (bs : List Byte) : rising (runCells a bs) := by
  induction bs generalizing a with
  | nil => simp [runCells, rising]
  | cons b bs ih =>
    simp only [runCells]
    split
    · exact ih _
    · simp only [rising, List.pairwise_cons]
      exact ⟨fun c hc => (mem_runCells hc).1, ih _⟩

/-- Writing a run of bytes keeps the canonical form. -/
theorem wf_writeBytes {m : List Host.Cell} (h : Memory.wf m = true) (a : Nat) (bs : List Byte) :
    Memory.wf (writeBytes m a bs) = true := by
  rw [wf_iff] at *
  obtain ⟨h1, h2⟩ := h
  refine ⟨?_, ?_⟩
  · simp only [rising, writeBytes, List.pairwise_append]
    refine ⟨⟨h1.filter _, rising_runCells a bs, ?_⟩, h1.filter _, ?_⟩
    · intro x hx y hy
      have := (List.mem_filter.1 hx).2
      have := mem_runCells hy
      simp only [decide_eq_true_eq] at *
      omega
    · intro x hx y hy
      have hy := (List.mem_filter.1 hy).2
      simp only [decide_eq_true_eq] at hy
      rcases List.mem_append.1 hx with hx | hx
      · have := (List.mem_filter.1 hx).2
        simp only [decide_eq_true_eq] at this
        omega
      · have := mem_runCells hx
        omega
  · intro c hc
    simp only [writeBytes, List.mem_append] at hc
    rcases hc with (hc | hc) | hc
    · exact h2 c (List.mem_filter.1 hc).1
    · exact (mem_runCells hc).2.2
    · exact h2 c (List.mem_filter.1 hc).1

theorem wf_store {s : State} (h : Memory.wf s.mem = true) (pa : Nat) (bs : List Byte) : Memory.wf (s.store pa bs).mem = true :=
  wf_writeBytes h pa bs

/-! ## Reading -/

theorem byteAt_append (l r : List Host.Cell) (a : Nat) (h : ∀ c ∈ l, c.1 ≠ a) : byteAt (l ++ r) a = byteAt r a := by
  induction l with
  | nil => rfl
  | cons c l ih =>
    obtain ⟨k, b⟩ := c
    have := h (k, b) (by simp)
    simp only [List.cons_append, byteAt]
    rw [if_neg this]
    exact ih fun d hd => h d (by simp [hd])

theorem byteAt_none (m : List Host.Cell) (a : Nat) (h : ∀ c ∈ m, c.1 ≠ a) : byteAt m a = memDefault := by
  have := byteAt_append m [] a h
  simpa [byteAt] using this

theorem byteAt_append_left (l r : List Host.Cell) (a : Nat) (h : ∀ c ∈ r, c.1 ≠ a) : byteAt (l ++ r) a = byteAt l a := by
  induction l with
  | nil => simp [byteAt, byteAt_none r a h]
  | cons c l ih =>
    obtain ⟨k, b⟩ := c
    simp only [List.cons_append, byteAt]
    split
    · rfl
    · exact ih

theorem byteAt_filter (m : List Host.Cell) (p : Nat → Bool) (a : Nat) (h : p a = true) :
    byteAt (m.filter fun c => p c.1) a = byteAt m a := by
  induction m with
  | nil => rfl
  | cons c m ih =>
    obtain ⟨k, b⟩ := c
    by_cases hk : k = a
    · subst hk; simp [h, byteAt]
    · by_cases hp : p k = true
      · simp [hp, byteAt, hk, ih]
      · simp [hp, byteAt, hk, ih]

theorem byteAt_runCells (a : Nat) (bs : List Byte) (x : Nat) (h : a ≤ x) :
    byteAt (runCells a bs) x = bs.getD (x - a) memDefault := by
  induction bs generalizing a with
  | nil => simp [runCells, byteAt]
  | cons b bs ih =>
    simp only [runCells]
    rcases Nat.eq_or_lt_of_le h with rfl | hlt
    · split
      · rw [byteAt_none]
        · simp [*]
        · intro c hc; have := mem_runCells hc; omega
      · simp [byteAt]
    · have e : x - a = (x - (a + 1)) + 1 := by omega
      split
      · rw [ih (a + 1) hlt, e]; simp
      · simp only [byteAt]
        rw [if_neg (by omega), ih (a + 1) hlt, e]; simp

/-- A byte inside a written run reads what was written. -/
theorem byteAt_writeBytes_in (m : List Host.Cell) (a : Nat) (bs : List Byte) (x : Nat) (h1 : a ≤ x) (h2 : x < a + bs.length) :
    byteAt (writeBytes m a bs) x = bs.getD (x - a) memDefault := by
  rw [writeBytes, byteAt_append_left, byteAt_append, byteAt_runCells a bs x h1]
  · intro c hc; have := (List.mem_filter.1 hc).2; simp only [decide_eq_true_eq] at this; omega
  · intro c hc; have := (List.mem_filter.1 hc).2; simp only [decide_eq_true_eq] at this; omega

/-- A byte outside a written run reads as before. -/
theorem byteAt_writeBytes_out (m : List Host.Cell) (a : Nat) (bs : List Byte) (x : Nat) (h : x < a ∨ a + bs.length ≤ x) :
    byteAt (writeBytes m a bs) x = byteAt m x := by
  rcases h with h | h
  · rw [writeBytes, byteAt_append_left, byteAt_append_left, byteAt_filter m (fun k => decide (k < a)) x (by simpa using h)]
    · intro c hc; have := mem_runCells hc; omega
    · intro c hc; have := (List.mem_filter.1 hc).2; simp only [decide_eq_true_eq] at this; omega
  · rw [writeBytes, byteAt_append, byteAt_filter m (fun k => decide (a + bs.length ≤ k)) x (by simpa using h)]
    intro c hc
    rcases List.mem_append.1 hc with hc | hc
    · have := (List.mem_filter.1 hc).2; simp only [decide_eq_true_eq] at this; omega
    · have := mem_runCells hc; omega

/-- A byte outside a cleared run reads as before. -/
theorem byteAt_clearBytes_out (m : List Host.Cell) (a n x : Nat) (h : x < a ∨ a + n ≤ x) :
    byteAt (clearBytes m a n) x = byteAt m x :=
  byteAt_filter m (fun k => decide (k < a) || decide (a + n ≤ k)) x (by simpa using h)

/-- A byte inside a cleared run reads zero. -/
theorem byteAt_clearBytes_in (m : List Host.Cell) (a n x : Nat) (h1 : a ≤ x) (h2 : x < a + n) :
    byteAt (clearBytes m a n) x = memDefault := by
  apply byteAt_none
  intro c hc
  have := (List.mem_filter.1 hc).2
  simp only [Bool.or_eq_true, decide_eq_true_eq] at this
  omega

theorem readBytes_eq (m : List Host.Cell) (a n : Nat) : readBytes m a n = (List.range n).map fun i => byteAt m (a + i) := by
  simp only [readBytes]
  apply List.map_congr_left
  intro i hi
  have := List.mem_range.1 hi
  simp only [← Bool.decide_and]
  exact byteAt_filter m (fun k => decide (a ≤ k ∧ k < a + n)) (a + i) (by simp; omega)

/-- Reading back a written run gives what was written. -/
theorem readBytes_writeBytes (m : List Host.Cell) (a : Nat) (bs : List Byte) : readBytes (writeBytes m a bs) a bs.length = bs := by
  rw [readBytes_eq]
  apply List.ext_getElem
  · simp
  · intro i h1 h2
    simp only [List.getElem_map, List.getElem_range]
    rw [byteAt_writeBytes_in m a bs (a + i) (by omega) (by omega)]
    simp [List.getD, h2]

end Sys2Proof.Machine
end

