-- ==== Sys2Proof/Laws/Access.lean ====
section
/-! SUPPORT. One lemma for each shared operation of accesses: what leaves the engine, and what performs at issue. -/

namespace Sys2Proof.Machine

/-- An access that is aligned, whose pages are at hand, that no merge buffer takes, that releases nothing and needs no home of
partials, is on its way. -/
theorem sendAccess_sent {s : State} {words stall : Nat} {a : AccSpec} {pas : List (Nat × Nat)}
    (hacq : s.acquiring s.issuer = false) (hal : misalignedAt a.align a.vas = none)
    (hres : s.resolveAll s.cur s.issuer a.need a.kind a.vas = .ok (pas, none)) (hrel : a.rel = false) (hhome : a.home = none)
    (hm : mergesTo s.cur.slot a.op pas = none) :
    sendAccess s s.issuer s.issueAt words stall a = .next (s.sent words stall a pas) := by
  simp only [sendAccess, hacq, Bool.false_eq_true, if_false, hal, hres, hhome, Option.isSome_none, Bool.false_and, hrel, hm]
  simp only [State.launchAccess, State.lat, State.draw, State.newId, State.sent, State.newAccess, hm]
  rfl

/-- An access that is not aligned, or may not be reached, faults the team. -/
theorem sendAccess_faulted {s : State} {words stall : Nat} {a : AccSpec} {va : Addr} {f : MemFault}
    (hacq : s.acquiring s.issuer = false)
    (h : (misalignedAt a.align a.vas = some va ∧ f = .misaligned (Nat.log2 a.align)) ∨
      (misalignedAt a.align a.vas = none ∧ s.resolveAll s.cur s.issuer a.need a.kind a.vas = .error (va, f))) :
    sendAccess s s.issuer s.issueAt words stall a = .next (s.accessFaulted va f) := by
  rcases h with ⟨h, rfl⟩ | ⟨h, h'⟩
  · simp only [sendAccess, hacq, Bool.false_eq_true, if_false, h]; rfl
  · simp only [sendAccess, hacq, Bool.false_eq_true, if_false, h, h']

theorem misalignedAt_none {n k : Nat} {va : Addr} (h : va.toNat % n = 0) : misalignedAt n [(va, k)] = none := by
  simp [misalignedAt, h]

theorem isLocal_of_own {s : State} {id : EngId} {va : Addr} {n pa : Nat} (h : s.ownAperture id va n = some pa) : isLocal va = true := by
  simp only [State.ownAperture] at h
  split at h <;> simp_all

/-- A load of the own aperture that nothing holds back (R184). -/
theorem loadOp_local {s : State} {words stall size d a b cls pa : Nat} {sx : Bool} {imm : Int}
    (hal : (s.issuer.ea a b imm).toNat % size = 0) (hown : s.ownAperture s.cur (s.issuer.ea a b imm) size = some pa)
    (hu : s.Unheld pathS cls [(pa, size)]) (hp : s.poisoned pa size = false)
    (h : s.Issues [s.issuer.destOf a, s.issuer.destOf b] (s.result 6 d (loadValue size sx (s.view (.eng s.cur) pa size)))) :
    loadOp s words stall size sx d a b imm cls =
      .next (s.passed words stall (s.result 6 d (loadValue size sx (s.view (.eng s.cur) pa size)))) := by
  unfold loadOp
  rw [onEngine_issues h]
  simp only [isLocal_of_own hown, if_true, misalignedAt_none hal, hown]
  have h3 := h.2.2.1
  have h4 := h.2.2.2
  simp only [guarded, h3, Bool.false_eq_true, if_false, List.nil_append]
  simp only [State.result] at h4
  simp [firstFault, h4, hu.1, hu.2, hp, finish]

/-- What remembers a store of own = 1 writes nothing else (R113). -/
theorem noteOwn_sameBut (s : State) (id : EngId) (n pa : Nat) (data : List Byte) :
    s.noteOwn id n pa data = { s with owns := (s.noteOwn id n pa data).owns } := by
  simp only [State.noteOwn]
  split <;> rfl

@[simp] theorem noteOwn_mem (s : State) (id : EngId) (n pa : Nat) (data : List Byte) : (s.noteOwn id n pa data).mem = s.mem := by
  rw [noteOwn_sameBut]

@[simp] theorem noteOwn_cur (s : State) (id : EngId) (n pa : Nat) (data : List Byte) : (s.noteOwn id n pa data).cur = s.cur := by
  rw [noteOwn_sameBut]

/-- A store to the own aperture that nothing holds back performs at its issue (R184). -/
theorem storeOp_local {s : State} {words stall size d a b cls pa : Nat} {imm : Int}
    (hal : (s.issuer.ea a b imm).toNat % size = 0) (hown : s.ownAperture s.cur (s.issuer.ea a b imm) size = some pa)
    (hu : s.Unheld pathS cls [(pa, size)]) (hw : s.Unshadowed [(pa, size)])
    (h : s.Issues [s.issuer.destOf a, s.issuer.destOf b, s.issuer.destOf d] []) :
    storeOp s words stall size d a b imm cls =
      .next (((s.noteOwn s.cur s.nextId pa (storeBytes size (if size = 16 then s.issuer.val80 d else zext80 (s.issuer.val d)))).store pa
        (storeBytes size (if size = 16 then s.issuer.val80 d else zext80 (s.issuer.val d)))).setEng s.cur
          (s.issuer.advance s.issueAt words stall)) := by
  unfold storeOp
  rw [onEngine_issues h]
  have h3 := h.2.2.1
  have h4 := h.2.2.2
  simp only [guarded, h3, Bool.false_eq_true, if_false, List.nil_append, isLocal_of_own hown, misalignedAt_none hal, hown]
  simp [firstFault, h4, hu.1, hu.2, hw, State.mustWait, finish, Engine.land]

end Sys2Proof.Machine
end

