-- ==== Sys2Proof/Laws/Dispatch.lean ====
section
/-! SUPPORT. What exec answers for each constructor: the meaning its arm calls. -/

namespace Sys2Proof.Machine

@[simp] theorem exec_nop (f : L32) (s : State) : exec (.nop f) s = execNop f s := rfl
@[simp] theorem exec_add32 (f : L32) (s : State) : exec (.add32 f) s = execAdd32 f s := rfl
@[simp] theorem exec_sub32 (f : L32) (s : State) : exec (.sub32 f) s = execSub32 f s := rfl
@[simp] theorem exec_mul32 (f : L32) (s : State) : exec (.mul32 f) s = execMul32 f s := rfl
@[simp] theorem exec_mulh32 (f : L32) (s : State) : exec (.mulh32 f) s = execMulh32 f s := rfl
@[simp] theorem exec_div32 (f : L32) (s : State) : exec (.div32 f) s = execDiv32 f s := rfl
@[simp] theorem exec_rem32 (f : L32) (s : State) : exec (.rem32 f) s = execRem32 f s := rfl
@[simp] theorem exec_and32 (f : L32) (s : State) : exec (.and32 f) s = execAnd32 f s := rfl
@[simp] theorem exec_or32 (f : L32) (s : State) : exec (.or32 f) s = execOr32 f s := rfl
@[simp] theorem exec_xor32 (f : L32) (s : State) : exec (.xor32 f) s = execXor32 f s := rfl
@[simp] theorem exec_andn32 (f : L32) (s : State) : exec (.andn32 f) s = execAndn32 f s := rfl
@[simp] theorem exec_shl32 (f : L32) (s : State) : exec (.shl32 f) s = execShl32 f s := rfl
@[simp] theorem exec_shr32 (f : L32) (s : State) : exec (.shr32 f) s = execShr32 f s := rfl
@[simp] theorem exec_rotl32 (f : L32) (s : State) : exec (.rotl32 f) s = execRotl32 f s := rfl
@[simp] theorem exec_min32 (f : L32) (s : State) : exec (.min32 f) s = execMin32 f s := rfl
@[simp] theorem exec_max32 (f : L32) (s : State) : exec (.max32 f) s = execMax32 f s := rfl
@[simp] theorem exec_addq (f : L32) (s : State) : exec (.addq f) s = execAddq f s := rfl
@[simp] theorem exec_shlq (f : L32) (s : State) : exec (.shlq f) s = execShlq f s := rfl
@[simp] theorem exec_shrq (f : L32) (s : State) : exec (.shrq f) s = execShrq f s := rfl
@[simp] theorem exec_mov32 (f : L32) (s : State) : exec (.mov32 f) s = execMov32 f s := rfl
@[simp] theorem exec_popc32 (f : L32) (s : State) : exec (.popc32 f) s = execPopc32 f s := rfl
@[simp] theorem exec_clz32 (f : L32) (s : State) : exec (.clz32 f) s = execClz32 f s := rfl
@[simp] theorem exec_ctz32 (f : L32) (s : State) : exec (.ctz32 f) s = execCtz32 f s := rfl
@[simp] theorem exec_sext32 (f : L32) (s : State) : exec (.sext32 f) s = execSext32 f s := rfl
@[simp] theorem exec_ceq32 (f : L32) (s : State) : exec (.ceq32 f) s = execCeq32 f s := rfl
@[simp] theorem exec_cne32 (f : L32) (s : State) : exec (.cne32 f) s = execCne32 f s := rfl
@[simp] theorem exec_clt32 (f : L32) (s : State) : exec (.clt32 f) s = execClt32 f s := rfl
@[simp] theorem exec_cle32 (f : L32) (s : State) : exec (.cle32 f) s = execCle32 f s := rfl
@[simp] theorem exec_cand32 (f : L32) (s : State) : exec (.cand32 f) s = execCand32 f s := rfl
@[simp] theorem exec_cor32 (f : L32) (s : State) : exec (.cor32 f) s = execCor32 f s := rfl
@[simp] theorem exec_cxor32 (f : L32) (s : State) : exec (.cxor32 f) s = execCxor32 f s := rfl
@[simp] theorem exec_adda32 (f : L32) (s : State) : exec (.adda32 f) s = execAdda32 f s := rfl
@[simp] theorem exec_suba32 (f : L32) (s : State) : exec (.suba32 f) s = execSuba32 f s := rfl
@[simp] theorem exec_ldxB (f : L32) (s : State) : exec (.ldxB f) s = execLdxB f s := rfl
@[simp] theorem exec_ldxH (f : L32) (s : State) : exec (.ldxH f) s = execLdxH f s := rfl
@[simp] theorem exec_ldxW (f : L32) (s : State) : exec (.ldxW f) s = execLdxW f s := rfl
@[simp] theorem exec_ldxD (f : L32) (s : State) : exec (.ldxD f) s = execLdxD f s := rfl
@[simp] theorem exec_stxB (f : L32) (s : State) : exec (.stxB f) s = execStxB f s := rfl
@[simp] theorem exec_stxH (f : L32) (s : State) : exec (.stxH f) s = execStxH f s := rfl
@[simp] theorem exec_stxW (f : L32) (s : State) : exec (.stxW f) s = execStxW f s := rfl
@[simp] theorem exec_stxD (f : L32) (s : State) : exec (.stxD f) s = execStxD f s := rfl
@[simp] theorem exec_jr (f : L32) (s : State) : exec (.jr f) s = execJr f s := rfl
@[simp] theorem exec_callr (f : L32) (s : State) : exec (.callr f) s = execCallr f s := rfl
@[simp] theorem exec_ret (f : L32) (s : State) : exec (.ret f) s = execRet f s := rfl
@[simp] theorem exec_eret (f : L32) (s : State) : exec (.eret f) s = execEret f s := rfl
@[simp] theorem exec_brk (f : L32) (s : State) : exec (.brk f) s = execBrk f s := rfl
@[simp] theorem exec_hint32 (f : LH32) (s : State) : exec (.hint32 f) s = execHint32 f s := rfl
@[simp] theorem exec_add64 (f : LG) (s : State) : exec (.add64 f) s = execAdd64 f s := rfl
@[simp] theorem exec_sub64 (f : LG) (s : State) : exec (.sub64 f) s = execSub64 f s := rfl
@[simp] theorem exec_mul64 (f : LG) (s : State) : exec (.mul64 f) s = execMul64 f s := rfl
@[simp] theorem exec_mulh64 (f : LG) (s : State) : exec (.mulh64 f) s = execMulh64 f s := rfl
@[simp] theorem exec_div64 (f : LG) (s : State) : exec (.div64 f) s = execDiv64 f s := rfl
@[simp] theorem exec_rem64 (f : LG) (s : State) : exec (.rem64 f) s = execRem64 f s := rfl
@[simp] theorem exec_and64 (f : LG) (s : State) : exec (.and64 f) s = execAnd64 f s := rfl
@[simp] theorem exec_or64 (f : LG) (s : State) : exec (.or64 f) s = execOr64 f s := rfl
@[simp] theorem exec_xor64 (f : LG) (s : State) : exec (.xor64 f) s = execXor64 f s := rfl
@[simp] theorem exec_andn64 (f : LG) (s : State) : exec (.andn64 f) s = execAndn64 f s := rfl
@[simp] theorem exec_shl64 (f : LG) (s : State) : exec (.shl64 f) s = execShl64 f s := rfl
@[simp] theorem exec_shr64 (f : LG) (s : State) : exec (.shr64 f) s = execShr64 f s := rfl
@[simp] theorem exec_rotl64 (f : LG) (s : State) : exec (.rotl64 f) s = execRotl64 f s := rfl
@[simp] theorem exec_min64 (f : LG) (s : State) : exec (.min64 f) s = execMin64 f s := rfl
@[simp] theorem exec_max64 (f : LG) (s : State) : exec (.max64 f) s = execMax64 f s := rfl
@[simp] theorem exec_sel (f : LG) (s : State) : exec (.sel f) s = execSel f s := rfl
@[simp] theorem exec_addi (f : LW) (s : State) : exec (.addi f) s = execAddi f s := rfl
@[simp] theorem exec_muli (f : LW) (s : State) : exec (.muli f) s = execMuli f s := rfl
@[simp] theorem exec_andi (f : LW) (s : State) : exec (.andi f) s = execAndi f s := rfl
@[simp] theorem exec_ori (f : LW) (s : State) : exec (.ori f) s = execOri f s := rfl
@[simp] theorem exec_xori (f : LW) (s : State) : exec (.xori f) s = execXori f s := rfl
@[simp] theorem exec_shli (f : LW) (s : State) : exec (.shli f) s = execShli f s := rfl
@[simp] theorem exec_shri (f : LW) (s : State) : exec (.shri f) s = execShri f s := rfl
@[simp] theorem exec_li (f : LW) (s : State) : exec (.li f) s = execLi f s := rfl
@[simp] theorem exec_lia (f : LW) (s : State) : exec (.lia f) s = execLia f s := rfl
@[simp] theorem exec_addai (f : LW) (s : State) : exec (.addai f) s = execAddai f s := rfl
@[simp] theorem exec_ceqi (f : LW) (s : State) : exec (.ceqi f) s = execCeqi f s := rfl
@[simp] theorem exec_cnei (f : LW) (s : State) : exec (.cnei f) s = execCnei f s := rfl
@[simp] theorem exec_clti (f : LW) (s : State) : exec (.clti f) s = execClti f s := rfl
@[simp] theorem exec_clei (f : LW) (s : State) : exec (.clei f) s = execClei f s := rfl
@[simp] theorem exec_cgti (f : LW) (s : State) : exec (.cgti f) s = execCgti f s := rfl
@[simp] theorem exec_cgei (f : LW) (s : State) : exec (.cgei f) s = execCgei f s := rfl
@[simp] theorem exec_ceq64 (f : LG) (s : State) : exec (.ceq64 f) s = execCeq64 f s := rfl
@[simp] theorem exec_cne64 (f : LG) (s : State) : exec (.cne64 f) s = execCne64 f s := rfl
@[simp] theorem exec_clt64 (f : LG) (s : State) : exec (.clt64 f) s = execClt64 f s := rfl
@[simp] theorem exec_cle64 (f : LG) (s : State) : exec (.cle64 f) s = execCle64 f s := rfl
@[simp] theorem exec_cand64 (f : LG) (s : State) : exec (.cand64 f) s = execCand64 f s := rfl
@[simp] theorem exec_cor64 (f : LG) (s : State) : exec (.cor64 f) s = execCor64 f s := rfl
@[simp] theorem exec_cxor64 (f : LG) (s : State) : exec (.cxor64 f) s = execCxor64 f s := rfl
@[simp] theorem exec_mov64 (f : LG) (s : State) : exec (.mov64 f) s = execMov64 f s := rfl
@[simp] theorem exec_popc64 (f : LG) (s : State) : exec (.popc64 f) s = execPopc64 f s := rfl
@[simp] theorem exec_clz64 (f : LG) (s : State) : exec (.clz64 f) s = execClz64 f s := rfl
@[simp] theorem exec_ctz64 (f : LG) (s : State) : exec (.ctz64 f) s = execCtz64 f s := rfl
@[simp] theorem exec_sext64 (f : LG) (s : State) : exec (.sext64 f) s = execSext64 f s := rfl
@[simp] theorem exec_adda64 (f : LG) (s : State) : exec (.adda64 f) s = execAdda64 f s := rfl
@[simp] theorem exec_suba64 (f : LG) (s : State) : exec (.suba64 f) s = execSuba64 f s := rfl
@[simp] theorem exec_ldB (f : LG) (s : State) : exec (.ldB f) s = execLdB f s := rfl
@[simp] theorem exec_ldH (f : LG) (s : State) : exec (.ldH f) s = execLdH f s := rfl
@[simp] theorem exec_ldW (f : LG) (s : State) : exec (.ldW f) s = execLdW f s := rfl
@[simp] theorem exec_ldD (f : LG) (s : State) : exec (.ldD f) s = execLdD f s := rfl
@[simp] theorem exec_stB (f : LG) (s : State) : exec (.stB f) s = execStB f s := rfl
@[simp] theorem exec_stH (f : LG) (s : State) : exec (.stH f) s = execStH f s := rfl
@[simp] theorem exec_stW (f : LG) (s : State) : exec (.stW f) s = execStW f s := rfl
@[simp] theorem exec_stD (f : LG) (s : State) : exec (.stD f) s = execStD f s := rfl
@[simp] theorem exec_ldA (f : LG) (s : State) : exec (.ldA f) s = execLdA f s := rfl
@[simp] theorem exec_stA (f : LG) (s : State) : exec (.stA f) s = execStA f s := rfl
@[simp] theorem exec_b (f : LB) (s : State) : exec (.b f) s = execB f s := rfl
@[simp] theorem exec_call (f : LB) (s : State) : exec (.call f) s = execCall f s := rfl
@[simp] theorem exec_loopI (f : LB) (s : State) : exec (.loopI f) s = execLoopI f s := rfl
@[simp] theorem exec_loopS (f : LB) (s : State) : exec (.loopS f) s = execLoopS f s := rfl
@[simp] theorem exec_wait (f : LG) (s : State) : exec (.wait f) s = execWait f s := rfl
@[simp] theorem exec_fenceC (f : LW) (s : State) : exec (.fenceC f) s = execFenceC f s := rfl
@[simp] theorem exec_fenceX (f : LG) (s : State) : exec (.fenceX f) s = execFenceX f s := rfl
@[simp] theorem exec_notify (f : LG) (s : State) : exec (.notify f) s = execNotify f s := rfl
@[simp] theorem exec_deadl (f : LG) (s : State) : exec (.deadl f) s = execDeadl f s := rfl
@[simp] theorem exec_idbeg (f : LG) (s : State) : exec (.idbeg f) s = execIdbeg f s := rfl
@[simp] theorem exec_idend (f : LG) (s : State) : exec (.idend f) s = execIdend f s := rfl
@[simp] theorem exec_mfs (f : LG) (s : State) : exec (.mfs f) s = execMfs f s := rfl
@[simp] theorem exec_mts (f : LG) (s : State) : exec (.mts f) s = execMts f s := rfl
@[simp] theorem exec_trap (f : LG) (s : State) : exec (.trap f) s = execTrap f s := rfl
@[simp] theorem exec_hint64 (f : LH64) (s : State) : exec (.hint64 f) s = execHint64 f s := rfl
@[simp] theorem exec_push (f : LG) (s : State) : exec (.push f) s = execPush f s := rfl
@[simp] theorem exec_take (f : LG) (s : State) : exec (.take f) s = execTake f s := rfl
@[simp] theorem exec_barInit (f : LG) (s : State) : exec (.barInit f) s = execBarInit f s := rfl
@[simp] theorem exec_barArr (f : LG) (s : State) : exec (.barArr f) s = execBarArr f s := rfl
@[simp] theorem exec_barWait (f : LG) (s : State) : exec (.barWait f) s = execBarWait f s := rfl
@[simp] theorem exec_xwait (f : LG) (s : State) : exec (.xwait f) s = execXwait f s := rfl
@[simp] theorem exec_rclose (f : LG) (s : State) : exec (.rclose f) s = execRclose f s := rfl
@[simp] theorem exec_amoAdd (f : LG) (s : State) : exec (.amoAdd f) s = execAmoAdd f s := rfl
@[simp] theorem exec_amoFadd (f : LG) (s : State) : exec (.amoFadd f) s = execAmoFadd f s := rfl
@[simp] theorem exec_amoMin (f : LG) (s : State) : exec (.amoMin f) s = execAmoMin f s := rfl
@[simp] theorem exec_amoMax (f : LG) (s : State) : exec (.amoMax f) s = execAmoMax f s := rfl
@[simp] theorem exec_amoAnd (f : LG) (s : State) : exec (.amoAnd f) s = execAmoAnd f s := rfl
@[simp] theorem exec_amoOr (f : LG) (s : State) : exec (.amoOr f) s = execAmoOr f s := rfl
@[simp] theorem exec_amoXor (f : LG) (s : State) : exec (.amoXor f) s = execAmoXor f s := rfl
@[simp] theorem exec_amoSwp (f : LG) (s : State) : exec (.amoSwp f) s = execAmoSwp f s := rfl
@[simp] theorem exec_amoCas (f : LG) (s : State) : exec (.amoCas f) s = execAmoCas f s := rfl
@[simp] theorem exec_amoFmin (f : LG) (s : State) : exec (.amoFmin f) s = execAmoFmin f s := rfl
@[simp] theorem exec_amoFmax (f : LG) (s : State) : exec (.amoFmax f) s = execAmoFmax f s := rfl
@[simp] theorem exec_redAdd (f : LG) (s : State) : exec (.redAdd f) s = execRedAdd f s := rfl
@[simp] theorem exec_redFadd (f : LG) (s : State) : exec (.redFadd f) s = execRedFadd f s := rfl
@[simp] theorem exec_redMin (f : LG) (s : State) : exec (.redMin f) s = execRedMin f s := rfl
@[simp] theorem exec_redMax (f : LG) (s : State) : exec (.redMax f) s = execRedMax f s := rfl
@[simp] theorem exec_redAnd (f : LG) (s : State) : exec (.redAnd f) s = execRedAnd f s := rfl
@[simp] theorem exec_redOr (f : LG) (s : State) : exec (.redOr f) s = execRedOr f s := rfl
@[simp] theorem exec_redXor (f : LG) (s : State) : exec (.redXor f) s = execRedXor f s := rfl
@[simp] theorem exec_redFmin (f : LG) (s : State) : exec (.redFmin f) s = execRedFmin f s := rfl
@[simp] theorem exec_redFmax (f : LG) (s : State) : exec (.redFmax f) s = execRedFmax f s := rfl
@[simp] theorem exec_vmovWv (f : LVM) (s : State) : exec (.vmovWv f) s = execVmovWv f s := rfl
@[simp] theorem exec_vmovVw (f : LVM) (s : State) : exec (.vmovVw f) s = execVmovVw f s := rfl
@[simp] theorem exec_vadd (f : LV) (s : State) : exec (.vadd f) s = execVadd f s := rfl
@[simp] theorem exec_vsub (f : LV) (s : State) : exec (.vsub f) s = execVsub f s := rfl
@[simp] theorem exec_vmul (f : LV) (s : State) : exec (.vmul f) s = execVmul f s := rfl
@[simp] theorem exec_vfma (f : LV) (s : State) : exec (.vfma f) s = execVfma f s := rfl
@[simp] theorem exec_vfms (f : LV) (s : State) : exec (.vfms f) s = execVfms f s := rfl
@[simp] theorem exec_vmin (f : LV) (s : State) : exec (.vmin f) s = execVmin f s := rfl
@[simp] theorem exec_vmax (f : LV) (s : State) : exec (.vmax f) s = execVmax f s := rfl
@[simp] theorem exec_vabs (f : LV) (s : State) : exec (.vabs f) s = execVabs f s := rfl
@[simp] theorem exec_vneg (f : LV) (s : State) : exec (.vneg f) s = execVneg f s := rfl
@[simp] theorem exec_vand (f : LV) (s : State) : exec (.vand f) s = execVand f s := rfl
@[simp] theorem exec_vor (f : LV) (s : State) : exec (.vor f) s = execVor f s := rfl
@[simp] theorem exec_vxor (f : LV) (s : State) : exec (.vxor f) s = execVxor f s := rfl
@[simp] theorem exec_vshl (f : LV) (s : State) : exec (.vshl f) s = execVshl f s := rfl
@[simp] theorem exec_vshr (f : LV) (s : State) : exec (.vshr f) s = execVshr f s := rfl
@[simp] theorem exec_vsel (f : LV) (s : State) : exec (.vsel f) s = execVsel f s := rfl
@[simp] theorem exec_vcmp (f : LV) (s : State) : exec (.vcmp f) s = execVcmp f s := rfl
@[simp] theorem exec_vcvt (f : LV) (s : State) : exec (.vcvt f) s = execVcvt f s := rfl
@[simp] theorem exec_vwid (f : LV) (s : State) : exec (.vwid f) s = execVwid f s := rfl
@[simp] theorem exec_vnar (f : LV) (s : State) : exec (.vnar f) s = execVnar f s := rfl
@[simp] theorem exec_vqmx (f : LV) (s : State) : exec (.vqmx f) s = execVqmx f s := rfl
@[simp] theorem exec_vsplat (f : LV) (s : State) : exec (.vsplat f) s = execVsplat f s := rfl
@[simp] theorem exec_vrsum (f : LV) (s : State) : exec (.vrsum f) s = execVrsum f s := rfl
@[simp] theorem exec_vrmax (f : LV) (s : State) : exec (.vrmax f) s = execVrmax f s := rfl
@[simp] theorem exec_vrmin (f : LV) (s : State) : exec (.vrmin f) s = execVrmin f s := rfl
@[simp] theorem exec_vscan (f : LV) (s : State) : exec (.vscan f) s = execVscan f s := rfl
@[simp] theorem exec_vexp2 (f : LV) (s : State) : exec (.vexp2 f) s = execVexp2 f s := rfl
@[simp] theorem exec_vlog2 (f : LV) (s : State) : exec (.vlog2 f) s = execVlog2 f s := rfl
@[simp] theorem exec_vrcp (f : LV) (s : State) : exec (.vrcp f) s = execVrcp f s := rfl
@[simp] theorem exec_vrsqrt (f : LV) (s : State) : exec (.vrsqrt f) s = execVrsqrt f s := rfl
@[simp] theorem exec_vsqrt (f : LV) (s : State) : exec (.vsqrt f) s = execVsqrt f s := rfl
@[simp] theorem exec_vtanh (f : LV) (s : State) : exec (.vtanh f) s = execVtanh f s := rfl
@[simp] theorem exec_vsigm (f : LV) (s : State) : exec (.vsigm f) s = execVsigm f s := rfl
@[simp] theorem exec_vsin (f : LV) (s : State) : exec (.vsin f) s = execVsin f s := rfl
@[simp] theorem exec_vskein (f : LV) (s : State) : exec (.vskein f) s = execVskein f s := rfl
@[simp] theorem exec_vgauss (f : LV) (s : State) : exec (.vgauss f) s = execVgauss f s := rfl
@[simp] theorem exec_vunif (f : LV) (s : State) : exec (.vunif f) s = execVunif f s := rfl
@[simp] theorem exec_vdrop (f : LV) (s : State) : exec (.vdrop f) s = execVdrop f s := rfl
@[simp] theorem exec_vld (f : LG) (s : State) : exec (.vld f) s = execVld f s := rfl
@[simp] theorem exec_vst (f : LG) (s : State) : exec (.vst f) s = execVst f s := rfl
@[simp] theorem exec_vgath (f : LG) (s : State) : exec (.vgath f) s = execVgath f s := rfl
@[simp] theorem exec_vscat (f : LG) (s : State) : exec (.vscat f) s = execVscat f s := rfl
@[simp] theorem exec_vperm (f : LV) (s : State) : exec (.vperm f) s = execVperm f s := rfl
@[simp] theorem exec_tld (f : LG) (s : State) : exec (.tld f) s = execTld f s := rfl
@[simp] theorem exec_tst (f : LG) (s : State) : exec (.tst f) s = execTst f s := rfl
@[simp] theorem exec_mma (f : LM) (s : State) : exec (.mma f) s = execMma f s := rfl
@[simp] theorem exec_mmp (f : LM) (s : State) : exec (.mmp f) s = execMmp f s := rfl
@[simp] theorem exec_mmg (f : LM) (s : State) : exec (.mmg f) s = execMmg f s := rfl
@[simp] theorem exec_mmw (f : LM) (s : State) : exec (.mmw f) s = execMmw f s := rfl
@[simp] theorem exec_mmdm (f : LM) (s : State) : exec (.mmdm f) s = execMmdm f s := rfl
@[simp] theorem exec_mmdq (f : LM) (s : State) : exec (.mmdq f) s = execMmdq f s := rfl
@[simp] theorem exec_zclr (f : LG) (s : State) : exec (.zclr f) s = execZclr f s := rfl
@[simp] theorem exec_zout (f : LG) (s : State) : exec (.zout f) s = execZout f s := rfl
@[simp] theorem exec_zsave (f : LG) (s : State) : exec (.zsave f) s = execZsave f s := rfl
@[simp] theorem exec_zload (f : LG) (s : State) : exec (.zload f) s = execZload f s := rfl
@[simp] theorem exec_broadcastGroupStart (cl : Nat) (mask : BitVec 4) (s : State) : exec (.broadcastGroupStart cl mask) s = execBroadcastGroupStart cl mask s := rfl
@[simp] theorem exec_cpy (f : LG) (s : State) : exec (.cpy f) s = execCpy f s := rfl
@[simp] theorem exec_cpyt (f : LG) (s : State) : exec (.cpyt f) s = execCpyt f s := rfl
@[simp] theorem exec_cpyh (f : LG) (s : State) : exec (.cpyh f) s = execCpyh f s := rfl
@[simp] theorem exec_cpym (f : LG) (s : State) : exec (.cpym f) s = execCpym f s := rfl
@[simp] theorem exec_cpyi (f : LG) (s : State) : exec (.cpyi f) s = execCpyi f s := rfl
@[simp] theorem exec_cpyf (f : LG) (s : State) : exec (.cpyf f) s = execCpyf f s := rfl
@[simp] theorem exec_chst (f : LG) (s : State) : exec (.chst f) s = execChst f s := rfl
@[simp] theorem exec_cwr (f : LG) (s : State) : exec (.cwr f) s = execCwr f s := rfl
@[simp] theorem exec_ckopen (f : LG) (s : State) : exec (.ckopen f) s = execCkopen f s := rfl
@[simp] theorem exec_ckput (f : LG) (s : State) : exec (.ckput f) s = execCkput f s := rfl
@[simp] theorem exec_ckseal (f : LG) (s : State) : exec (.ckseal f) s = execCkseal f s := rfl
@[simp] theorem exec_ckget (f : LG) (s : State) : exec (.ckget f) s = execCkget f s := rfl
@[simp] theorem exec_hflush (f : LG) (s : State) : exec (.hflush f) s = execHflush f s := rfl
@[simp] theorem exec_msend (f : LG) (s : State) : exec (.msend f) s = execMsend f s := rfl
@[simp] theorem exec_karm (f : LG) (s : State) : exec (.karm f) s = execKarm f s := rfl
@[simp] theorem exec_kdisarm (f : LG) (s : State) : exec (.kdisarm f) s = execKdisarm f s := rfl
@[simp] theorem exec_kred (f : LG) (s : State) : exec (.kred f) s = execKred f s := rfl
@[simp] theorem exec_kgath (f : LG) (s : State) : exec (.kgath f) s = execKgath f s := rfl
@[simp] theorem exec_kbcast (f : LG) (s : State) : exec (.kbcast f) s = execKbcast f s := rfl
@[simp] theorem exec_ksync (f : LG) (s : State) : exec (.ksync f) s = execKsync f s := rfl
@[simp] theorem exec_gload (f : LG) (s : State) : exec (.gload f) s = execGload f s := rfl
@[simp] theorem exec_gfeed (f : LG) (s : State) : exec (.gfeed f) s = execGfeed f s := rfl
@[simp] theorem exec_gtake (f : LG) (s : State) : exec (.gtake f) s = execGtake f s := rfl
@[simp] theorem exec_gunload (f : LG) (s : State) : exec (.gunload f) s = execGunload f s := rfl
@[simp] theorem exec_gquiet (f : LG) (s : State) : exec (.gquiet f) s = execGquiet f s := rfl
@[simp] theorem exec_packagePowerOn (s : State) : exec (.packagePowerOn) s = execPackagePowerOn s := rfl
@[simp] theorem exec_pushSendStart (slot route : Nat) (s : State) : exec (.pushSendStart slot route) s = execPushSendStart slot route s := rfl
@[simp] theorem exec_pushPieceLand (id : Nat) (s : State) : exec (.pushPieceLand id) s = execPushPieceLand id s := rfl
@[simp] theorem exec_mergeEntrySend (slot id : Nat) (s : State) : exec (.mergeEntrySend slot id) s = execMergeEntrySend slot id s := rfl
@[simp] theorem exec_fetchReplySplit (id : Nat) (s : State) : exec (.fetchReplySplit id) s = execFetchReplySplit id s := rfl
@[simp] theorem exec_sectionHeaderPass (e : EngId) (s : State) : exec (.sectionHeaderPass e) s = execSectionHeaderPass e s := rfl
@[simp] theorem exec_sectionRetire (e : EngId) (s : State) : exec (.sectionRetire e) s = execSectionRetire e s := rfl
@[simp] theorem exec_tileWaitResume (e : EngId) (s : State) : exec (.tileWaitResume e) s = execTileWaitResume e s := rfl
@[simp] theorem exec_takeRetire (e : EngId) (s : State) : exec (.takeRetire e) s = execTakeRetire e s := rfl
@[simp] theorem exec_waitReread (e : EngId) (s : State) : exec (.waitReread e) s = execWaitReread e s := rfl
@[simp] theorem exec_barWaitReread (e : EngId) (s : State) : exec (.barWaitReread e) s = execBarWaitReread e s := rfl
@[simp] theorem exec_barrierDelivery (id : Nat) (s : State) : exec (.barrierDelivery id) s = execBarrierDelivery id s := rfl
@[simp] theorem exec_xwaitRetire (e : EngId) (s : State) : exec (.xwaitRetire e) s = execXwaitRetire e s := rfl
@[simp] theorem exec_channelSlotResume (e : EngId) (s : State) : exec (.channelSlotResume e) s = execChannelSlotResume e s := rfl
@[simp] theorem exec_transferComplete (e : EngId) (ch id : Nat) (s : State) : exec (.transferComplete e ch id) s = execTransferComplete e ch id s := rfl
@[simp] theorem exec_chainRecordStart (e : EngId) (ch : Nat) (s : State) : exec (.chainRecordStart e ch) s = execChainRecordStart e ch s := rfl
@[simp] theorem exec_tileFill (cl tile : Nat) (s : State) : exec (.tileFill cl tile) s = execTileFill cl tile s := rfl
@[simp] theorem exec_followOnIssue (e : EngId) (s : State) : exec (.followOnIssue e) s = execFollowOnIssue e s := rfl
@[simp] theorem exec_stealRelocatableGroup (stealer owner : EngId) (s : State) : exec (.stealRelocatableGroup stealer owner) s = execStealRelocatableGroup stealer owner s := rfl
@[simp] theorem exec_combinerFire (seq team cl : Nat) (s : State) : exec (.combinerFire seq team cl) s = execCombinerFire seq team cl s := rfl
@[simp] theorem exec_epochCloseAtCourseEnd (slot : Nat) (s : State) : exec (.epochCloseAtCourseEnd slot) s = execEpochCloseAtCourseEnd slot s := rfl
@[simp] theorem exec_pageWalkComplete (slot page : Nat) (s : State) : exec (.pageWalkComplete slot page) s = execPageWalkComplete slot page s := rfl
@[simp] theorem exec_translationInvalidate (asid : Nat) (base limit : Addr) (root : Option (Nat × Nat)) (s : State) : exec (.translationInvalidate asid base limit root) s = execTranslationInvalidate asid base limit root s := rfl
@[simp] theorem exec_shapeTableWrite (index fn : Nat) (bytes : List Byte) (base : Option Nat) (s : State) : exec (.shapeTableWrite index fn bytes base) s = execShapeTableWrite index fn bytes base s := rfl
@[simp] theorem exec_bdcfgWrite (slot : Nat) (v : Word) (s : State) : exec (.bdcfgWrite slot v) s = execBdcfgWrite slot v s := rfl
@[simp] theorem exec_shutterOff (cl : Nat) (s : State) : exec (.shutterOff cl) s = execShutterOff cl s := rfl
@[simp] theorem exec_shutterWakeStart (cl : Nat) (s : State) : exec (.shutterWakeStart cl) s = execShutterWakeStart cl s := rfl
@[simp] theorem exec_shutterWakeComplete (cl : Nat) (s : State) : exec (.shutterWakeComplete cl) s = execShutterWakeComplete cl s := rfl
@[simp] theorem exec_moveFire (slot cell word : Nat) (s : State) : exec (.moveFire slot cell word) s = execMoveFire slot cell word s := rfl
@[simp] theorem exec_memLoadPerform (slot cell : Nat) (s : State) : exec (.memLoadPerform slot cell) s = execMemLoadPerform slot cell s := rfl
@[simp] theorem exec_stampCommit (slot : Nat) (s : State) : exec (.stampCommit slot) s = execStampCommit slot s := rfl
@[simp] theorem exec_squashReentry (slot stamp : Nat) (s : State) : exec (.squashReentry slot stamp) s = execSquashReentry slot stamp s := rfl
@[simp] theorem exec_feedTokenEntry (e : EngId) (s : State) : exec (.feedTokenEntry e) s = execFeedTokenEntry e s := rfl
@[simp] theorem exec_latticeQuietRetire (e : EngId) (s : State) : exec (.latticeQuietRetire e) s = execLatticeQuietRetire e s := rfl
@[simp] theorem exec_imageOpen (i : Nat) (s : State) : exec (.imageOpen i) s = execImageOpen i s := rfl
@[simp] theorem exec_imageCommit (i : Nat) (s : State) : exec (.imageCommit i) s = execImageCommit i s := rfl
@[simp] theorem exec_imageUnload (i : Nat) (s : State) : exec (.imageUnload i) s = execImageUnload i s := rfl
@[simp] theorem exec_imageApertureWrite (i off : Nat) (bytes : List Byte) (tables : PatternTables) (s : State) : exec (.imageApertureWrite i off bytes tables) s = execImageApertureWrite i off bytes tables s := rfl
@[simp] theorem exec_launchTrigger (i : Nat) (v : Word) (s : State) : exec (.launchTrigger i v) s = execLaunchTrigger i v s := rfl
@[simp] theorem exec_taskSelect (s : State) : exec (.taskSelect) s = execTaskSelect s := rfl
@[simp] theorem exec_taskBind (seq : Nat) (s : State) : exec (.taskBind seq) s = execTaskBind seq s := rfl
@[simp] theorem exec_courseStart (seq : Nat) (s : State) : exec (.courseStart seq) s = execCourseStart seq s := rfl
@[simp] theorem exec_courseListSkip (seq : Nat) (s : State) : exec (.courseListSkip seq) s = execCourseListSkip seq s := rfl
@[simp] theorem exec_courseListJump (seq : Nat) (s : State) : exec (.courseListJump seq) s = execCourseListJump seq s := rfl
@[simp] theorem exec_courseListCall (seq : Nat) (s : State) : exec (.courseListCall seq) s = execCourseListCall seq s := rfl
@[simp] theorem exec_courseListReturn (seq : Nat) (s : State) : exec (.courseListReturn seq) s = execCourseListReturn seq s := rfl
@[simp] theorem exec_courseListDeadline (seq : Nat) (s : State) : exec (.courseListDeadline seq) s = execCourseListDeadline seq s := rfl
@[simp] theorem exec_courseListNotify (seq : Nat) (s : State) : exec (.courseListNotify seq) s = execCourseListNotify seq s := rfl
@[simp] theorem exec_preemptEstimator (r : PreReq) (s : State) : exec (.preemptEstimator r) s = execPreemptEstimator r s := rfl
@[simp] theorem exec_preemptDrain (r : PreReq) (s : State) : exec (.preemptDrain r) s = execPreemptDrain r s := rfl
@[simp] theorem exec_preemptSave (r : PreReq) (s : State) : exec (.preemptSave r) s = execPreemptSave r s := rfl
@[simp] theorem exec_preemptDiscard (r : PreReq) (s : State) : exec (.preemptDiscard r) s = execPreemptDiscard r s := rfl
@[simp] theorem exec_distributorPreemptRequest (seq : Nat) (s : State) : exec (.distributorPreemptRequest seq) s = execDistributorPreemptRequest seq s := rfl
@[simp] theorem exec_preemptStopComplete (seq team : Nat) (s : State) : exec (.preemptStopComplete seq team) s = execPreemptStopComplete seq team s := rfl
@[simp] theorem exec_teamResume (seq team : Nat) (s : State) : exec (.teamResume seq team) s = execTeamResume seq team s := rfl
@[simp] theorem exec_messageReceipt (slot : Nat) (m : Message) (s : State) : exec (.messageReceipt slot m) s = execMessageReceipt slot m s := rfl
@[simp] theorem exec_unarmedTagRefusalReturn (m : Message) (s : State) : exec (.unarmedTagRefusalReturn m) s = execUnarmedTagRefusalReturn m s := rfl
@[simp] theorem exec_governorEvaluation (s : State) : exec (.governorEvaluation) s = execGovernorEvaluation s := rfl
@[simp] theorem exec_clockSwitch (s : State) : exec (.clockSwitch) s = execClockSwitch s := rfl
@[simp] theorem exec_transitEnd (s : State) : exec (.transitEnd) s = execTransitEnd s := rfl
@[simp] theorem exec_byteBudgetInterval (s : State) : exec (.byteBudgetInterval) s = execByteBudgetInterval s := rfl
@[simp] theorem exec_pcapWrite (v : Word) (s : State) : exec (.pcapWrite v) s = execPcapWrite v s := rfl
@[simp] theorem exec_softThermalThreshold (slot : Nat) (temp : BitVec 16) (s : State) : exec (.softThermalThreshold slot temp) s = execSoftThermalThreshold slot temp s := rfl
@[simp] theorem exec_lockInterface (tdi tag : Nat) (images queues : List Nat) (s : State) : exec (.lockInterface tdi tag images queues) s = execLockInterface tdi tag images queues s := rfl
@[simp] theorem exec_getVersion (q : SpdmReq) (s : State) : exec (.getVersion q) s = execGetVersion q s := rfl
@[simp] theorem exec_getCapabilities (q : SpdmReq) (s : State) : exec (.getCapabilities q) s = execGetCapabilities q s := rfl
@[simp] theorem exec_negotiateAlgorithms (q : SpdmReq) (s : State) : exec (.negotiateAlgorithms q) s = execNegotiateAlgorithms q s := rfl
@[simp] theorem exec_getDigests (q : SpdmReq) (s : State) : exec (.getDigests q) s = execGetDigests q s := rfl
@[simp] theorem exec_getCertificate (q : SpdmReq) (s : State) : exec (.getCertificate q) s = execGetCertificate q s := rfl
@[simp] theorem exec_challenge (q : SpdmReq) (s : State) : exec (.challenge q) s = execChallenge q s := rfl
@[simp] theorem exec_getMeasurements (q : SpdmReq) (s : State) : exec (.getMeasurements q) s = execGetMeasurements q s := rfl
@[simp] theorem exec_keyExchange (q : SpdmReq) (s : State) : exec (.keyExchange q) s = execKeyExchange q s := rfl
@[simp] theorem exec_finish (q : SpdmReq) (s : State) : exec (.finish q) s = execFinish q s := rfl
@[simp] theorem exec_heartbeat (q : SpdmReq) (s : State) : exec (.heartbeat q) s = execHeartbeat q s := rfl
@[simp] theorem exec_keyUpdate (q : SpdmReq) (s : State) : exec (.keyUpdate q) s = execKeyUpdate q s := rfl
@[simp] theorem exec_endSession (q : SpdmReq) (s : State) : exec (.endSession q) s = execEndSession q s := rfl
@[simp] theorem exec_subscribeEventTypes (q : SpdmReq) (s : State) : exec (.subscribeEventTypes q) s = execSubscribeEventTypes q s := rfl
@[simp] theorem exec_provision (q : SpdmReq) (g : Grant) (s : State) : exec (.provision q g) s = execProvision q g s := rfl
@[simp] theorem exec_reprovision (q : SpdmReq) (g : Grant) (s : State) : exec (.reprovision q g) s = execReprovision q g s := rfl
@[simp] theorem exec_release (q : SpdmReq) (tag : Nat) (save : Bool) (s : State) : exec (.release q tag save) s = execRelease q tag save s := rfl
@[simp] theorem exec_attest (q : SpdmReq) (s : State) : exec (.attest q) s = execAttest q s := rfl
@[simp] theorem exec_dieRestartRequest (q : SpdmReq) (slot deadline : Nat) (s : State) : exec (.dieRestartRequest q slot deadline) s = execDieRestartRequest q slot deadline s := rfl
@[simp] theorem exec_firmwareStage (q : SpdmReq) (f : Firmware) (s : State) : exec (.firmwareStage q f) s = execFirmwareStage q f s := rfl
@[simp] theorem exec_firmwareActivate (q : SpdmReq) (slot : Nat) (s : State) : exec (.firmwareActivate q slot) s = execFirmwareActivate q slot s := rfl
@[simp] theorem exec_hostRead (h : HostReq) (s : State) : exec (.hostRead h) s = execHostRead h s := rfl
@[simp] theorem exec_hostWrite (h : HostReq) (bytes : List Byte) (s : State) : exec (.hostWrite h bytes) s = execHostWrite h bytes s := rfl
@[simp] theorem exec_podPacketReceive (slot : Nat) (p : PodPacket) (s : State) : exec (.podPacketReceive slot p) s = execPodPacketReceive slot p s := rfl
@[simp] theorem exec_safeTierCopy (s : State) : exec (.safeTierCopy) s = execSafeTierCopy s := rfl
@[simp] theorem exec_safeTierCopyDone (ok : Bool) (s : State) : exec (.safeTierCopyDone ok) s = execSafeTierCopyDone ok s := rfl
@[simp] theorem exec_safeRestore (s : State) : exec (.safeRestore) s = execSafeRestore s := rfl
@[simp] theorem exec_evacuationStart (s : State) : exec (.evacuationStart) s = execEvacuationStart s := rfl
@[simp] theorem exec_extentMove (s : State) : exec (.extentMove) s = execExtentMove s := rfl
@[simp] theorem exec_evacuationResume (s : State) : exec (.evacuationResume) s = execEvacuationResume s := rfl
@[simp] theorem exec_spilledExtentReturn (s : State) : exec (.spilledExtentReturn) s = execSpilledExtentReturn s := rfl
@[simp] theorem exec_streamingCrcFailure (piece : Nat) (mod : Nat) (s : State) : exec (.streamingCrcFailure piece mod) s = execStreamingCrcFailure piece mod s := rfl
@[simp] theorem exec_courseAbortCrc (seq : Nat) (s : State) : exec (.courseAbortCrc seq) s = execCourseAbortCrc seq s := rfl
@[simp] theorem exec_ordinaryCrcRetry (slot mod : Nat) (again : Bool) (s : State) : exec (.ordinaryCrcRetry slot mod again) s = execOrdinaryCrcRetry slot mod again s := rfl
@[simp] theorem exec_scrubPass (slot : Nat) (units : List Nat) (s : State) : exec (.scrubPass slot units) s = execScrubPass slot units s := rfl
@[simp] theorem exec_uncorrectableError (pa : Nat) (s : State) : exec (.uncorrectableError pa) s = execUncorrectableError pa s := rfl
@[simp] theorem exec_parityError (e : EngId) (s : State) : exec (.parityError e) s = execParityError e s := rfl
@[simp] theorem exec_staleResponseDiscard (slot : Nat) (incarn : BitVec 16) (s : State) : exec (.staleResponseDiscard slot incarn) s = execStaleResponseDiscard slot incarn s := rfl
@[simp] theorem exec_dieLostDeclare (slot reason : Nat) (s : State) : exec (.dieLostDeclare slot reason) s = execDieLostDeclare slot reason s := rfl
@[simp] theorem exec_faultStop (s : State) : exec (.faultStop) s = execFaultStop s := rfl
@[simp] theorem exec_peerStop (seq team : Nat) (s : State) : exec (.peerStop seq team) s = execPeerStop seq team s := rfl
@[simp] theorem exec_engstopResume (cl : Nat) (v : Word) (s : State) : exec (.engstopResume cl v) s = execEngstopResume cl v s := rfl
@[simp] theorem exec_faultRetry (seq team : Nat) (s : State) : exec (.faultRetry seq team) s = execFaultRetry seq team s := rfl
@[simp] theorem exec_faultRerun (seq team : Nat) (s : State) : exec (.faultRerun seq team) s = execFaultRerun seq team s := rfl
@[simp] theorem exec_faultAbandon (seq team : Nat) (s : State) : exec (.faultAbandon seq team) s = execFaultAbandon seq team s := rfl
@[simp] theorem exec_retryRestart (seq team : Nat) (s : State) : exec (.retryRestart seq team) s = execRetryRestart seq team s := rfl
@[simp] theorem exec_courseRerun (seq : Nat) (s : State) : exec (.courseRerun seq) s = execCourseRerun seq s := rfl
@[simp] theorem exec_rebindAfterLoss (seq : Nat) (s : State) : exec (.rebindAfterLoss seq) s = execRebindAfterLoss seq s := rfl
@[simp] theorem exec_dieQuiet (slot : Nat) (s : State) : exec (.dieQuiet slot) s = execDieQuiet slot s := rfl
@[simp] theorem exec_selfTestStart (slot : Nat) (s : State) : exec (.selfTestStart slot) s = execSelfTestStart slot s := rfl
@[simp] theorem exec_rejoinStart (slot : Nat) (s : State) : exec (.rejoinStart slot) s = execRejoinStart slot s := rfl
@[simp] theorem exec_rejoinComplete (slot : Nat) (s : State) : exec (.rejoinComplete slot) s = execRejoinComplete slot s := rfl
@[simp] theorem exec_rejoinTimeout (slot : Nat) (s : State) : exec (.rejoinTimeout slot) s = execRejoinTimeout slot s := rfl
@[simp] theorem exec_bdTableError (slot : Nat) (set : Option Nat) (s : State) : exec (.bdTableError slot set) s = execBdTableError slot set s := rfl
@[simp] theorem exec_packageReset (s : State) : exec (.packageReset) s = execPackageReset s := rfl
@[simp] theorem exec_hardThermalTrip (slot : Nat) (cause : BitVec 8) (temp : BitVec 16) (s : State) : exec (.hardThermalTrip slot cause temp) s = execHardThermalTrip slot cause temp s := rfl
@[simp] theorem exec_tripcauseWrite (slot : Nat) (v : Word) (s : State) : exec (.tripcauseWrite slot v) s = execTripcauseWrite slot v s := rfl
@[simp] theorem exec_trippedDieCooldown (slot : Nat) (temp : BitVec 16) (s : State) : exec (.trippedDieCooldown slot temp) s = execTrippedDieCooldown slot temp s := rfl
@[simp] theorem exec_deadlineMiss (seq : Nat) (src : MissSource) (s : State) : exec (.deadlineMiss seq src) s = execDeadlineMiss seq src s := rfl
@[simp] theorem exec_keySlotEccFailure (slot key : Nat) (wrappedOk : Bool) (s : State) : exec (.keySlotEccFailure slot key wrappedOk) s = execKeySlotEccFailure slot key wrappedOk s := rfl
@[simp] theorem exec_keyReloadComplete (slot key : Nat) (s : State) : exec (.keyReloadComplete slot key) s = execKeyReloadComplete slot key s := rfl
@[simp] theorem exec_measurementFailure (reason : Nat) (s : State) : exec (.measurementFailure reason) s = execMeasurementFailure reason s := rfl
@[simp] theorem exec_registerWrite (off : Nat) (v : Word) (s : State) : exec (.registerWrite off v) s = execRegisterWrite off v s := rfl
@[simp] theorem exec_variableLatencyResult (id : Nat) (s : State) : exec (.variableLatencyResult id) s = execVariableLatencyResult id s := rfl
@[simp] theorem exec_accessPerformsAtHome (id : Nat) (s : State) : exec (.accessPerformsAtHome id) s = execAccessPerformsAtHome id s := rfl
@[simp] theorem exec_startInterfaceRequest (tdi : Nat) (s : State) : exec (.startInterfaceRequest tdi) s = execStartInterfaceRequest tdi s := rfl
@[simp] theorem exec_stopInterfaceRequest (tdi : Nat) (s : State) : exec (.stopInterfaceRequest tdi) s = execStopInterfaceRequest tdi s := rfl
@[simp] theorem exec_podJoin (pkg : BitVec 12) (ports : BitVec 12) (s : State) : exec (.podJoin pkg ports) s = execPodJoin pkg ports s := rfl
@[simp] theorem exec_podPacketRetransmit (slot : Nat) (p : PodPacket) (s : State) : exec (.podPacketRetransmit slot p) s = execPodPacketRetransmit slot p s := rfl
@[simp] theorem exec_safeRestoreDone (ok : Bool) (s : State) : exec (.safeRestoreDone ok) s = execSafeRestoreDone ok s := rfl
@[simp] theorem exec_softThermalClear (slot : Nat) (temp : BitVec 16) (s : State) : exec (.softThermalClear slot temp) s = execSoftThermalClear slot temp s := rfl

end Sys2Proof.Machine
end

