-- ==== Sys2Proof/Laws/Scalar.lean ====
section
/-! SUPPORT. What the shared operations of the scalar instructions compute. -/

namespace Sys2Proof.Machine

theorem alu32_computes {s : State} {i : Instr} {lat : Nat} {op : Bool → Word → Word → Word} {f : L32}
    (hi : exec i s = alu32 lat op f s) :
    s.computes i 1 f.stall.toNat lat [f.a.toNat, f.b.toNat] f.d.toNat
      (zext80 (op f.suffix (s.issuer.val f.a.toNat) (s.issuer.val f.b.toNat))) :=
  computes_of (fun e => zext80 (op f.suffix (e.val f.a.toNat) (e.val f.b.toNat))) (by rw [hi]; unfold alu32; rfl) rfl

theorem aluQ_computes {s : State} {i : Instr} {op : Bool → Word → BitVec 6 → Word} {f : L32} (hi : exec i s = aluQ op f s) :
    s.computes i 1 f.stall.toNat 1 [f.a.toNat] f.d.toNat (zext80 (op f.suffix (s.issuer.val f.a.toNat) f.b)) :=
  computes_of (fun e => zext80 (op f.suffix (e.val f.a.toNat) f.b)) (by rw [hi]; unfold aluQ; rfl) rfl

theorem alu64_computes {s : State} {i : Instr} {lat : Nat} {op : Bool → Word → Word → Word} {f : LG}
    (hi : exec i s = alu64 lat op f s) :
    s.computes i f.imm.words f.stall.toNat lat [f.a.toNat, f.b.toNat] f.d.toNat
      (zext80 (op f.suffix (s.issuer.val f.a.toNat) (s.issuer.op2 f))) :=
  computes_of (fun e => zext80 (op f.suffix (e.val f.a.toNat) (e.op2 f))) (by rw [hi]; unfold alu64; rfl) rfl

theorem alu64u_computes {s : State} {i : Instr} {op : Word → Word} {f : LG} (hi : exec i s = alu64u op f s) :
    s.computes i f.imm.words f.stall.toNat 1 [f.a.toNat] f.d.toNat (zext80 (op (s.issuer.val f.a.toNat))) :=
  computes_of (fun e => zext80 (op (e.val f.a.toNat))) (by rw [hi]; unfold alu64u; rfl) rfl

theorem aluW_computes {s : State} {i : Instr} {lat : Nat} {op : Bool → Word → Word → Word} {f : LW}
    (hi : exec i s = aluW lat op f s) :
    s.computes i f.imm.words f.stall.toNat lat [f.a.toNat] f.d.toNat
      (zext80 (op f.suffix (s.issuer.val f.a.toNat) (BitVec.ofInt 64 f.imm.val))) :=
  computes_of (fun e => zext80 (op f.suffix (e.val f.a.toNat) (BitVec.ofInt 64 f.imm.val))) (by rw [hi]; unfold aluW; rfl) rfl

/-! ## Readings of the shared values -/

theorem lt_of (u : Bool) (a b : Word) : ltOf u a b = if u then decide (a.toNat < b.toNat) else decide (a.toInt < b.toInt) := by
  cases u <;> simp [ltOf, BitVec.ult, BitVec.slt]

theorem le_of (u : Bool) (a b : Word) : leOf u a b = if u then decide (a.toNat ≤ b.toNat) else decide (a.toInt ≤ b.toInt) := by
  cases u <;> simp [leOf, BitVec.ule, BitVec.sle]

theorem min_of (u : Bool) (a b : Word) :
    minOf u a b = if u then (if a.toNat ≤ b.toNat then a else b) else if a.toInt ≤ b.toInt then a else b := by
  rw [minOf, lt_of]; cases u <;> simp <;> split <;> split <;> first | rfl | omega

theorem max_of (u : Bool) (a b : Word) :
    maxOf u a b = if u then (if b.toNat ≤ a.toNat then a else b) else if b.toInt ≤ a.toInt then a else b := by
  rw [maxOf, lt_of]; cases u <;> simp <;> split <;> split <;> first | rfl | omega

theorem rotl_of (a b : Word) : rotlOf a b = (a <<< (b.toNat % 64) ||| a >>> (64 - b.toNat % 64)) := by
  simp [rotlOf, BitVec.rotateLeft, BitVec.rotateLeftAux]

theorem zext80_cmpOf (p : Bool → Word → Word → Bool) (u : Bool) (a b : Word) : zext80 (cmpOf p u a b) = flagOf (p u a b) := by
  simp only [cmpOf, flagOf, zext80]; split <;> rfl

end Sys2Proof.Machine
end

