-- ==== Sys2Proof/Tests/Slice0.lean ====
section
/-! SUPPORT. Tests of the model, and for each statement a state and operands that meet its hypotheses. Expected values are worked out by hand from the
rules each test names. -/

section

set_option Elab.async false

open Sys2Proof Sys2Proof.Machine

/-! ## Small states for the tests and witnesses -/

/-- A matrix, control, vector, gather, buffer and switch engine. -/
def me : EngId := ⟨0, 0, 0⟩
def ce : EngId := ⟨0, 0, 16⟩
def ve : EngId := ⟨4, 0, 0⟩
def ge : EngId := ⟨5, 0, 0⟩
def be : EngId := ⟨6, 0, 0⟩
def ke : EngId := ⟨8, 0, 0⟩

/-- An engine that runs in a section of 100 words and issues next in cycle 20. -/
def live : Engine :=
  { Engine.reset with
    status := .running, started := true, seq := 1, team := 1, secNum := 1, secStart := 2, secEnd := 100, pc := 10, nextIssue := 20
    glob := #v[7, 5, 0xFFFFFFFFFFFFFFFD, 0x8000000000000000, 0xFFFFFFFFFFFFFFFF, 0xF0, 2, 0x0123456789ABCDEF] }

/-- The package after reset, with one engine as given, which issues. -/
def at_ (id : EngId) (e : Engine) : State := { State.reset.setEng id e with cur := id }

/-- The state an instruction goes on to; after a stop, the state after reset. -/
def nxt (o : Out) : State := match o with | .next t => t | _ => State.reset

/-- Whether it goes on. -/
def goesOn (o : Out) : Bool := match o with | .next _ => true | _ => false

/-- The register with a code, in the end, once the instruction has issued at `me` or at the engine that issues. -/
def ends (s : State) (i : Instr) (d : Nat) : Nat := ((((nxt (exec i s)).eng s.cur).settle 1000).val80 d).toNat

/-- The engine after it. -/
def engOf (s : State) (i : Instr) : Engine := (nxt (exec i s)).eng s.cur

/-- CAUSE after it, its low 16 bits and its detail, when it takes an engine-level exception (R378). -/
def causeOf (s : State) (i : Instr) : Nat × Nat := ((engOf s i).cause.toNat % 65536, (engOf s i).cause.toNat / 2 ^ 32)

/-- The causes of the faults noted. -/
def faultsOf (s : State) (i : Instr) : List Nat := (nxt (exec i s)).faults.map (·.cause)

/-- The bytes of words in their order (R3). -/
def codeBytes (ws : List Word32) : List Byte := ws.flatMap fun w => bytesOf 4 w.toNat

/-- A launch in its course, its team 1 running. -/
def launched : Launch :=
  { seq := 1, image := 0, task := .host 0, queue := 0, prio := 0, since := 0, state := .inCourse, bind := [], quads := [], next := 0, stack := [], span := none,
    course := 0, t0 := 0, deadline := 0, due := 0, streams := [], gauges := [], teams := [⟨1, 0, .running, [], none, false⟩], engines := [ge], crcAborts := 0,
    crcDue := none, risk := 0, missed := [], checkDl := false, rstcfg := 0, dlact := 0, waits := false, areas := [] }

/-! ## Scalar instructions: results by hand from R176-R182 -/

/-- R176, R177: the registers s0-s7 hold 7, 5, −3, −2⁶³, −1, 0xF0, 2 and 0x0123456789ABCDEF. -/
theorem test_alu_32 :
    let s := at_ me live
    let r (i : L32 → Instr) (flg : BitVec 1) (b a : BitVec 6) : Nat := ends s (i ⟨flg, b, a, 8, 0⟩) 8
    r .add32 0 4 3 = 0x7FFFFFFFFFFFFFFF ∧ r .sub32 0 0 1 = 0xFFFFFFFFFFFFFFFE ∧ r .mul32 0 2 0 = 0xFFFFFFFFFFFFFFEB ∧
    r .mulh32 0 2 4 = 0 ∧ r .mulh32 1 4 4 = 0xFFFFFFFFFFFFFFFE ∧ r .div32 0 6 2 = 0xFFFFFFFFFFFFFFFF ∧
    r .div32 1 6 2 = 0x7FFFFFFFFFFFFFFE ∧ r .div32 0 4 3 = 0x8000000000000000 ∧ r .div32 0 63 0 = 0xFFFFFFFFFFFFFFFF ∧
    r .rem32 0 6 2 = 0xFFFFFFFFFFFFFFFF ∧ r .rem32 0 63 0 = 7 ∧ r .rem32 0 4 3 = 0 ∧ r .and32 0 5 7 = 0xE0 ∧ r .or32 0 0 5 = 0xF7 ∧
    r .xor32 0 4 0 = 0xFFFFFFFFFFFFFFF8 ∧ r .andn32 0 5 7 = 0x0123456789ABCD0F ∧ r .shl32 0 2 6 = 0x4000000000000000 ∧
    r .shr32 0 6 3 = 0x2000000000000000 ∧ r .shr32 1 6 3 = 0xE000000000000000 ∧ r .rotl32 0 5 7 = 0xCDEF0123456789AB ∧
    r .min32 0 2 0 = 0xFFFFFFFFFFFFFFFD ∧ r .min32 1 2 0 = 7 ∧ r .max32 0 2 0 = 7 ∧ r .max32 1 2 0 = 0xFFFFFFFFFFFFFFFD := by
  decide +kernel

/-- R176: the 64-bit forms take val(b) + sext(imm) as their second operand; `sel` takes val(b) alone. -/
theorem test_alu_64 :
    let s := at_ me live
    let r (i : LG → Instr) (mod : BitVec 4) (imm : ImmG) (b a : BitVec 6) : Nat := ends s (i ⟨imm, mod, 0, 4, b, a, 8, 0, 0⟩) 8
    r .add64 0 (.short (-2)) 1 0 = 10 ∧ r .sub64 0 (.short 0x7FF) 63 0 = 0xFFFFFFFFFFFFF808 ∧ r .mul64 0 (.wide 0x10000000000) 63 6 = 0x20000000000 ∧
    r .mulh64 0 (.short 0) 4 3 = 0 ∧ r .mulh64 1 (.short 0) 4 3 = 0x7FFFFFFFFFFFFFFF ∧ r .div64 0 (.short (-5)) 1 0 = 0xFFFFFFFFFFFFFFFF ∧
    r .div64 1 (.short 3) 63 2 = 0x5555555555555554 ∧ r .rem64 0 (.short 3) 63 2 = 0 ∧ r .rem64 1 (.short 4) 63 2 = 1 ∧
    r .and64 0 (.short (-16)) 63 0 = 0 ∧ r .or64 0 (.short 8) 63 0 = 15 ∧ r .xor64 0 (.short (-1)) 63 0 = 0xFFFFFFFFFFFFFFF8 ∧
    r .andn64 0 (.short 3) 63 0 = 4 ∧ r .shl64 0 (.short 65) 63 0 = 14 ∧ r .shr64 1 (.short 63) 63 3 = 0xFFFFFFFFFFFFFFFF ∧
    r .shr64 0 (.short 63) 63 3 = 1 ∧ r .rotl64 0 (.short 4) 63 3 = 8 ∧ r .min64 0 (.short 0) 2 0 = 0xFFFFFFFFFFFFFFFD ∧
    r .max64 1 (.short 0) 2 0 = 0xFFFFFFFFFFFFFFFD ∧ r .sel 0 (.short 0) 0 1 = 5 ∧
    ends s (.sel ⟨.short 0, 0, 0, 63, 0, 1, 8, 0, 0⟩) 8 = 7 := by decide +kernel

/-- R178, R180, R181, R182: short and wide immediates, counts, compares and address arithmetic. -/
theorem test_immediates :
    let e : Engine := { live with a := live.a.set 1 0xFFFFFFFFFFFFFFFFFFFF |>.set 2 0x00010000000000000010 }
    let s := at_ me e
    let w (i : LW → Instr) (mod : BitVec 4) (imm : ImmW) (a d : BitVec 6) : Nat := ends s (i ⟨imm, mod, a, d, 0, 0⟩) d.toNat
    w .addi 0 (.short 0x8000001) 0 8 = 0xFFFFFFFFF8000008 ∧ w .muli 0 (.short (-1)) 0 8 = 0xFFFFFFFFFFFFFFF9 ∧ w .andi 0 (.short 0x0F) 7 8 = 0xF ∧
    w .ori 0 (.wide 0x800000000000000) 0 8 = 0xF800000000000007 ∧ w .xori 0 (.short 1) 0 8 = 6 ∧ w .shli 0 (.short 68) 0 8 = 0x70 ∧
    w .shri 1 (.short 60) 3 8 = 0xFFFFFFFFFFFFFFF8 ∧ w .shri 0 (.short 60) 3 8 = 8 ∧ w .li 0 (.wide 0x1234567890) 0 9 = 0x1234567890 ∧
    w .lia 0 (.short (-1)) 0 33 = 0xFFFFFFFFFFFFFFFFFFFF ∧ w .lia 1 (.short 0x7FFFFFF) 0 33 = 0xFF000000000007FFFFFF ∧
    w .addai 0 (.short 2) 33 34 = 1 ∧ w .ceqi 0 (.short (-3)) 2 48 = 1 ∧ w .cnei 0 (.short (-3)) 2 48 = 0 ∧ w .clti 0 (.short 0) 2 48 = 1 ∧
    w .clti 1 (.short 0) 2 48 = 0 ∧ w .clei 0 (.short 7) 0 48 = 1 ∧ w .cgti 1 (.short 0) 2 48 = 1 ∧ w .cgei 0 (.short 8) 0 48 = 0 ∧
    ends s (.adda32 ⟨0, 2, 34, 35, 0⟩) 35 = 0x0001000000000000000D ∧ ends s (.suba32 ⟨0, 34, 33, 8, 0⟩) 8 = 0xFFFFFFFFFFFFFFEF ∧
    ends s (.adda64 ⟨.short (-1), 0, 0, 0, 4, 34, 35, 0, 0⟩) 35 = 0x0001000000000000000E ∧
    ends s (.suba64 ⟨.short 0, 0, 0, 0, 33, 34, 8, 0, 0⟩) 8 = 0x11 := by decide +kernel

/-- R178, R181: counts and compares. -/
theorem test_counts_compares :
    let s := at_ me live
    let r (i : L32 → Instr) (flg : BitVec 1) (b a d : BitVec 6) : Nat := ends s (i ⟨flg, b, a, d, 0⟩) d.toNat
    let g (i : LG → Instr) (mod : BitVec 4) (imm : ImmG) (b a d : BitVec 6) : Nat := ends s (i ⟨imm, mod, 0, 0, b, a, d, 0, 0⟩) d.toNat
    r .addq 0 32 0 8 = 0xFFFFFFFFFFFFFFE7 ∧ r .shlq 0 63 0 8 = 0x8000000000000000 ∧ r .shrq 1 4 3 8 = 0xF800000000000000 ∧ r .shrq 0 4 3 8 = 0x0800000000000000 ∧
    r .popc32 0 0 7 8 = 32 ∧ r .clz32 0 0 7 8 = 7 ∧ r .clz32 0 0 63 8 = 64 ∧ r .ctz32 0 0 5 8 = 4 ∧ r .ctz32 0 0 63 8 = 64 ∧
    r .sext32 0 7 5 8 = 0xFFFFFFFFFFFFFFF0 ∧ g .sext64 0 (.short 7) 63 5 8 = 0xFFFFFFFFFFFFFFF0 ∧ g .popc64 0 (.short 0) 63 4 8 = 64 ∧
    g .clz64 0 (.short 0) 63 6 8 = 62 ∧ g .ctz64 0 (.short 0) 63 3 8 = 63 ∧
    r .ceq32 0 1 1 48 = 1 ∧ r .cne32 0 1 1 48 = 0 ∧ r .clt32 0 0 2 48 = 1 ∧ r .clt32 1 0 2 48 = 0 ∧ r .cle32 1 2 0 48 = 1 ∧
    r .cand32 1 63 0 48 = 1 ∧ r .cor32 1 0 63 48 = 0 ∧ r .cxor32 0 0 0 48 = 0 ∧ g .ceq64 0 (.short 2) 1 0 49 = 1 ∧ g .cne64 0 (.short 2) 1 0 49 = 0 ∧
    g .clt64 0 (.short 0) 2 0 49 = 0 ∧ g .cle64 0 (.short 0) 2 3 49 = 1 ∧ g .cand64 0 (.short 0) 63 0 49 = 0 ∧ g .cor64 1 (.short 0) 63 63 49 = 1 ∧
    g .cxor64 1 (.short 0) 0 0 49 = 1 := by decide +kernel

/-- R179, R392: `mov` and its parts; a loop counter takes 48 bits, and a wider value is refused whole. -/
theorem test_mov :
    let e : Engine := { live with a := live.a.set 2 0xABCD0000000000000010, c := live.c.set 3 true }
    let s := at_ me e
    ends s (.mov32 ⟨0, 0, 51, 8, 0⟩) 8 = 1 ∧ ends s (.mov32 ⟨0, 1, 34, 8, 0⟩) 8 = 0xABCD ∧ ends s (.mov32 ⟨0, 0, 34, 8, 0⟩) 8 = 0x10 ∧
    ends s (.mov32 ⟨0, 1, 5, 34, 0⟩) 34 = 0x00F00000000000000010 ∧ ends s (.mov32 ⟨0, 0, 6, 51, 0⟩) 51 = 0 ∧
    ends s (.mov64 ⟨.short 0, 0, 0, 0, 0, 7, 56, 0, 0⟩) 56 = 0 ∧ causeOf s (.mov64 ⟨.short 0, 0, 0, 0, 0, 7, 56, 0, 0⟩) = (6, 0x780123) ∧
    ends s (.mov32 ⟨0, 0, 5, 57, 0⟩) 57 = 0xF0 := by decide +kernel


/-! ## Decoding -/

/-- 06 R149: the example words of the 32-bit layout (06, 18 R177). -/
theorem test_decode_worked_32 :
    (decodeWords [0x0E30A028]).toOption = some (.add32 ⟨0, 7, 6, 5, 2⟩) ∧
    (decodeWords [0x2028A220]).toOption = some (.shlq ⟨0, 16, 5, 5, 0⟩) ∧
    (decodeWords [0x04410220]).toOption = some (.shlq ⟨0, 2, 8, 8, 0⟩) ∧
    (decodeWords [0x01C12260]).toOption = some (.mov32 ⟨0, 0, 56, 9, 0⟩) ∧
    (decodeWords [0x00000640]).toOption = some (.ret ⟨0, 0, 0, 0, 0⟩) ∧
    (decodeWords [0x00000660]).toOption = some (.eret ⟨0, 0, 0, 0, 0⟩) := by decide +kernel

/-- The example words of 06 and 08 to 12 in the 64-bit and 96-bit layouts. -/
theorem test_decode_worked_64 :
    (decodeWords [0x009005C2, 0x45678900, 0x00000123]).toOption = some (.li ⟨.wide 0x1234567890, 0, 0, 9, 0, 0⟩) ∧
    (decodeWords [0x884510CD, 0x0400003F]).toOption = some (.ldD ⟨.short 0x040, 0, 0, 0, 63, 34, 4, 5, 3⟩) ∧
    (decodeWords [0x40001481, 0x00003000]).toOption = some (.loopI ⟨3, 4, 0, 0, 0, 0, 0⟩) ∧
    (decodeWords [0x500014C1, 0x00002000]).toOption = some (.loopS ⟨2, 5, 0, 0, 0, 0, 0⟩) ∧
    (decodeWords [0x00001441, 0xFFFF4000]).toOption = some (.call ⟨0xFFFF4, 0, 0, 0, 0, 0, 0⟩) ∧
    (decodeWords [0x20001A01, 0x04200000]).toOption = some (.mts ⟨.short 0x042, 0, 0, 0, 0, 8, 0, 0, 0⟩) ∧
    (decodeWords [0x000018C1, 0x00000000]).toOption = some (.notify ⟨.short 0, 0, 0, 0, 0, 0, 0, 0, 0⟩) := by decide +kernel

/-- The example words of 10 to 17. -/
theorem test_decode_worked_units :
    (decodeWords [0x88502201, 0x4081A1BF]).toOption = some (.amoAdd ⟨.short 0x408, 1, 10, 6, 63, 34, 5, 0, 0⟩) ∧
    (decodeWords [0x9140A0C1, 0x00019308]).toOption = some (.cpym ⟨.short 0, 1, 9, 12, 8, 36, 20, 0, 0⟩) ∧
    (decodeWords [0x08208201, 0x00488000]).toOption = some (.mma ⟨1, 2, 2, 0, 0, 0, 1, 0, 2, 0, 0⟩) ∧
    (decodeWords [0x2A108241, 0x00AC9000]).toOption = some (.mmp ⟨2, 11, 2, 8, 0, 0, 5, 4, 1, 0, 0⟩) ∧
    (decodeWords [0x00004705, 0x00110050]).toOption = some (.vsplat ⟨.short 1, 1, 0, 0, 10, 0, 0, 0, 0, 0, 0, 1⟩) ∧
    (decodeWords [0x00104C41, 0x00001040]).toOption = some (.vgauss ⟨.short 0, 0, 1, 0, 8, 0, 0, 0, 0, 1, 0, 0⟩) ∧
    (decodeWords [0x00204CD5, 0x00011140]).toOption = some (.vdrop ⟨.short 0, 1, 1, 1, 8, 0, 0, 0, 0, 2, 0, 5⟩) ∧
    (decodeWords [0x8000C001, 0x0000003F]).toOption = some (.gload ⟨.short 0, 0, 0, 0, 63, 32, 0, 0, 0⟩) ∧
    (decodeWords [0x84B0C041, 0x000002BF]).toOption = some (.gfeed ⟨.short 0, 0, 0, 10, 63, 33, 11, 0, 0⟩) ∧
    (decodeWords [0x00C0C101, 0x00000000]).toOption = some (.gquiet ⟨.short 0, 0, 0, 0, 0, 0, 12, 0, 0⟩) := by decide +kernel

/-- R176-R182: words put together from the opcode table and the layouts of 06. -/
theorem test_decode_scalar_64 :
    (decodeWords [0x10300041, 0xFFE00005]).toOption = some (.sub64 ⟨.short 4094, 0, 0, 0, 5, 4, 3, 0, 0⟩) ∧
    (decodeWords [0x1C600401, 0x80000010]).toOption = some (.addi ⟨.short 134217729, 0, 7, 6, 0, 0⟩) ∧
    (decodeWords [0x040E0300]).toOption = some (.ceq32 ⟨0, 2, 1, 48, 0⟩) ∧
    (decodeWords [0x081003C1, 0x00000C43]).toOption = some (.sel ⟨.short 0, 0, 0, 49, 3, 2, 1, 0, 0⟩) ∧
    (decodeWords [0x8A100641, 0x00000050]).toOption = some (.addai ⟨.short 5, 0, 34, 33, 0, 0⟩) ∧
    (decodeWords [0x24800A01, 0x0000003F]).toOption = some (.popc64 ⟨.short 0, 0, 0, 0, 63, 9, 8, 0, 0⟩) := by decide +kernel

/-- R183, R184: words put together from the opcode table and the layouts of 06. -/
theorem test_decode_memory :
    (decodeWords [0x89086480]).toOption = some (.ldxW ⟨1, 4, 33, 3, 0⟩) ∧
    (decodeWords [0x0D10A520]).toOption = some (.stxD ⟨0, 6, 34, 5, 0⟩) ∧
    (decodeWords [0x8C751141, 0x0080003F]).toOption = some (.stH ⟨.short 8, 0, 0, 0, 63, 35, 7, 5, 0⟩) := by decide +kernel

/-- R187, R197: words put together from the opcode table and the layouts of 06. -/
theorem test_decode_control :
    (decodeWords [0x00300620]).toOption = some (.callr ⟨0, 0, 6, 0, 0⟩) ∧
    (decodeWords [0x00000680]).toOption = some (.brk ⟨0, 0, 0, 0, 0⟩) ∧
    (decodeWords [0x00001A41, 0x12300000]).toOption = some (.trap ⟨.short 291, 0, 0, 0, 0, 0, 0, 0, 0⟩) := by decide +kernel

/-- R190-R196, R264, R268: words put together from the opcode table and the layouts of 06. -/
theorem test_decode_sync :
    (decodeWords [0x840020C1, 0x0000003F]).toOption = some (.barArr ⟨.short 0, 0, 0, 0, 63, 33, 0, 0, 0⟩) ∧
    (decodeWords [0x88002641, 0x8000A0FF]).toOption = some (.redFadd ⟨.short 2048, 0, 10, 3, 63, 34, 0, 0, 0⟩) ∧
    (decodeWords [0x00001841, 0x00000020]).toOption = some (.fenceC ⟨.short 2, 0, 0, 0, 0, 0⟩) ∧
    (decodeWords [0x00001881, 0x00900000]).toOption = some (.fenceX ⟨.short 9, 0, 0, 0, 0, 0, 0, 0, 0⟩) ∧
    (decodeWords [0x004019C1, 0x04000000]).toOption = some (.mfs ⟨.short 64, 0, 0, 0, 0, 0, 4, 0, 0⟩) ∧
    (decodeWords [0x84001801, 0x000000FF]).toOption = some (.wait ⟨.short 0, 0, 0, 3, 63, 33, 0, 0, 0⟩) := by decide +kernel

/-- R203-R222: words put together from the opcode table and the layouts of 06. -/
theorem test_decode_vector :
    (decodeWords [0x8D1042C1, 0x00001100]).toOption = some (.vfma ⟨.short 0, 0, 1, 1, 0, 0, 4, 3, 2, 1, 0, 0⟩) ∧
    (decodeWords [0x84204E01, 0x0000003F]).toOption = some (.vld ⟨.short 0, 0, 0, 0, 63, 33, 2, 0, 0⟩) ∧
    (decodeWords [0x20B04001, 0x00000001]).toOption = some (.vmovWv ⟨2, 0, 65, 3, 0, 0⟩) ∧
    (decodeWords [0x00A04801, 0x00001100]).toOption = some (.vrsum ⟨.short 0, 0, 1, 1, 0, 0, 0, 0, 1, 2, 0, 0⟩) ∧
    (decodeWords [0x00A04A01, 0x00001100]).toOption = some (.vexp2 ⟨.short 0, 0, 1, 1, 0, 0, 0, 0, 1, 2, 0, 0⟩) ∧
    (decodeWords [0x00A04601, 0x00000100]).toOption = some (.vcvt ⟨.short 0, 0, 0, 1, 0, 0, 0, 0, 1, 2, 0, 0⟩) ∧
    (decodeWords [0x88104E81, 0x000000BF]).toOption = some (.vgath ⟨.short 0, 0, 0, 2, 63, 34, 1, 0, 0⟩) := by decide +kernel

/-- R226-R238: words put together from the opcode table and the layouts of 06. -/
theorem test_decode_matrix :
    (decodeWords [0x00308401, 0x00000000]).toOption = some (.zclr ⟨.short 0, 0, 0, 0, 0, 0, 3, 0, 0⟩) ∧
    (decodeWords [0x84408001, 0x0000003F]).toOption = some (.tld ⟨.short 0, 0, 0, 0, 63, 33, 4, 0, 0⟩) ∧
    (decodeWords [0x84208441, 0x0000003F]).toOption = some (.zout ⟨.short 0, 0, 0, 0, 63, 33, 2, 0, 0⟩) := by decide +kernel

/-- R245-R259, R273-R275: words put together from the opcode table and the layouts of 06. -/
theorem test_decode_transfer :
    (decodeWords [0x9020A001, 0x00000103]).toOption = some (.cpy ⟨.short 0, 0, 0, 4, 3, 36, 2, 0, 0⟩) ∧
    (decodeWords [0x8410D041, 0x000000C2]).toOption = some (.ckput ⟨.short 0, 0, 0, 3, 2, 33, 1, 0, 0⟩) ∧
    (decodeWords [0x8410D0C1, 0x000000C0]).toOption = some (.ckget ⟨.short 0, 0, 0, 3, 0, 33, 1, 0, 0⟩) ∧
    (decodeWords [0x8400A181, 0x00000000]).toOption = some (.chst ⟨.short 0, 0, 0, 0, 0, 33, 0, 0, 0⟩) ∧
    (decodeWords [0x8430D101, 0x0000003F]).toOption = some (.hflush ⟨.short 0, 0, 0, 0, 63, 33, 3, 0, 0⟩) := by decide +kernel

/-- R269-R276: words put together from the opcode table and the layouts of 06. -/
theorem test_decode_switch :
    (decodeWords [0x8420E001, 0x00000140]).toOption = some (.msend ⟨.short 0, 0, 0, 5, 0, 33, 2, 0, 0⟩) ∧
    (decodeWords [0x8400E0C1, 0x00100944]).toOption = some (.kred ⟨.short 1, 0, 0, 37, 4, 33, 0, 0, 0⟩) ∧
    (decodeWords [0x8420E141, 0x00000884]).toOption = some (.kbcast ⟨.short 0, 0, 0, 34, 4, 33, 2, 0, 0⟩) ∧
    (decodeWords [0x0000E181, 0x00000840]).toOption = some (.ksync ⟨.short 0, 0, 0, 33, 0, 0, 0, 0, 0⟩) ∧
    (decodeWords [0x8410E041, 0x00000000]).toOption = some (.karm ⟨.short 0, 0, 0, 0, 0, 33, 1, 0, 0⟩) := by decide +kernel


/-! ## Well-formed instructions: each check refuses an ill-formed term, with the reason of R387 and the bit of R386 -/

/-- Fields all zero, for the terms below. -/
def zeroG : LG := ⟨.short 0, 0, 0, 0, 0, 0, 0, 0, 0⟩
/-- Fields all zero, of layout V. -/
def zeroV : LV := ⟨.short 0, 0, 0, 0, 0, 0, 0, 0, 0, 0, 0, 0⟩

/-- R158, R159, R175: register codes that a field does not admit, unused fields, part numbers. -/
theorem test_wf_registers :
    (Instr.add32 ⟨0, 0, 0, 40, 0⟩).reject = some ⟨3, 13⟩ ∧                              -- d of `.s`
    (Instr.add32 ⟨0, 0, 35, 1, 0⟩).reject = some ⟨3, 19⟩ ∧                              -- `.src`
    (Instr.ceq32 ⟨0, 0, 0, 7, 0⟩).reject = some ⟨3, 13⟩ ∧                               -- `.c`
    (Instr.mov32 ⟨0, 0, 60, 1, 0⟩).reject = some ⟨3, 19⟩ ∧                              -- `.mv`
    (Instr.mov32 ⟨0, 2, 1, 1, 0⟩).reject = some ⟨4, 25⟩ ∧                               -- `.part`
    (Instr.adda32 ⟨0, 1, 1, 33, 0⟩).reject = some ⟨3, 19⟩ ∧                             -- `.a`
    (Instr.nop ⟨0, 0, 0, 1, 0⟩).reject = some ⟨5, 13⟩ ∧                                 -- `.zero`
    (Instr.add32 ⟨1, 0, 0, 1, 0⟩).reject = some ⟨5, 31⟩ ∧                               -- no flag suffix
    (Instr.sel { zeroG with x := 40 }).reject = some ⟨3, 38⟩ ∧                          -- `.sc`
    (Instr.cpy { zeroG with a := 1 }).reject = some ⟨3, 26⟩ ∧                           -- `.aZr`
    (Instr.mfs { zeroG with d := 48, imm := .short 64 }).reject = some ⟨3, 20⟩ ∧        -- `.sa`
    (Instr.cpy { zeroG with a := 33, b := 30 }).reject = some ⟨3, 32⟩ ∧                 -- `.grp`
    (Instr.popc64 { zeroG with a := 1, b := 0 }).reject = some ⟨3, 32⟩ ∧                -- `.zrOnly`
    (Instr.zclr { zeroG with d := 8 }).reject = some ⟨3, 20⟩ := by decide               -- `.idx 8`

/-- R152, R160, R191, R192, R246, R257, R258, R274, R276: immediates, scopes, suffixes, fields tied to a = zr. -/
theorem test_wf_layout_G :
    (Instr.zclr { zeroG with imm := .short 1 }).reject = some ⟨5, 52⟩ ∧
    (Instr.zclr { zeroG with imm := .wide 0 }).reject = some ⟨6, 64⟩ ∧
    (Instr.sext64 { zeroG with b := 63, imm := .short 64 }).reject = some ⟨5, 52⟩ ∧
    (Instr.fenceX { zeroG with imm := .short 6 }).reject = some ⟨4, 52⟩ ∧
    (Instr.fenceX { zeroG with imm := .short 64 }).reject = some ⟨5, 52⟩ ∧
    (Instr.kred { zeroG with a := 33, x := 34, imm := .short 6 }).reject = some ⟨4, 52⟩ ∧
    (Instr.amoAdd { zeroG with a := 33, scope := 8, imm := .short 0x800 }).reject = some ⟨4, 61⟩ ∧
    (Instr.wait { zeroG with a := 33, scope := 7 }).reject = some ⟨4, 44⟩ ∧
    (Instr.trap { zeroG with scope := 8 }).reject = some ⟨5, 44⟩ ∧
    (Instr.ldD { zeroG with a := 33, mod := 1 }).reject = some ⟨4, 48⟩ ∧
    (Instr.wait { zeroG with a := 33, mod := 3 }).reject = some ⟨4, 48⟩ ∧
    (Instr.tld { zeroG with a := 33, mod := 5 }).reject = some ⟨4, 48⟩ ∧
    (Instr.cpy { zeroG with a := 63, imm := .short 1 }).reject = some ⟨5, 52⟩ ∧
    (Instr.cpy { zeroG with a := 63, x := 1 }).reject = some ⟨5, 38⟩ ∧
    (Instr.ckput { zeroG with a := 63, x := 1 }).reject = some ⟨5, 38⟩ ∧
    (Instr.cpyf { zeroG with a := 63, imm := .short 1 }).reject = some ⟨5, 52⟩ ∧
    (Instr.chst { zeroG with a := 63, imm := .short 1 }).reject = some ⟨5, 52⟩ := by decide

/-- R90, R154, R180, R186, R188, R191, R203: layouts W, B and VM. -/
theorem test_wf_layouts_W_B_VM :
    (Instr.li ⟨.short 0, 1, 0, 1, 0, 0⟩).reject = some ⟨4, 32⟩ ∧
    (Instr.lia ⟨.short (-1), 1, 0, 33, 0, 0⟩).reject = some ⟨4, 36⟩ ∧
    (Instr.fenceC ⟨.short 65536, 8, 0, 0, 0, 0⟩).reject = some ⟨5, 36⟩ ∧
    (Instr.fenceC ⟨.short 1, 5, 0, 0, 0, 0⟩).reject = some ⟨4, 32⟩ ∧
    (Instr.b ⟨0, 0, 0, 0, 3, 0, 0⟩).reject = some ⟨4, 20⟩ ∧
    (Instr.b ⟨0, 0, 0, 1, 0, 0, 0⟩).reject = some ⟨5, 23⟩ ∧
    (Instr.call ⟨0, 0, 1, 0, 0, 0, 0⟩).reject = some ⟨5, 26⟩ ∧
    (Instr.call ⟨0, 1, 0, 0, 0, 0, 0⟩).reject = some ⟨5, 28⟩ ∧
    (Instr.loopI ⟨1, 1, 0, 0, 1, 0, 0⟩).reject = some ⟨5, 20⟩ ∧
    (Instr.loopS ⟨1, 40, 0, 0, 0, 0, 0⟩).reject = some ⟨3, 28⟩ ∧
    (Instr.loopS ⟨1, 64, 0, 0, 0, 0, 0⟩).reject = some ⟨5, 34⟩ ∧
    (Instr.vmovVw ⟨3, 0, 0, 0, 0, 0⟩).reject = some ⟨4, 31⟩ ∧
    (Instr.vmovWv ⟨0, 1, 0, 0, 0, 0⟩).reject = some ⟨5, 30⟩ := by decide

/-- R202, R205-R211, R215, R219: layout V. -/
theorem test_wf_layout_V :
    (Instr.vabs { zeroV with wb := 1 }).reject = some ⟨5, 26⟩ ∧
    (Instr.vsplat { zeroV with wa := 1 }).reject = some ⟨5, 23⟩ ∧
    (Instr.vadd { zeroV with wx := 1 }).reject = some ⟨5, 29⟩ ∧
    (Instr.vcmp { zeroV with wx := 6 }).reject = some ⟨4, 29⟩ ∧
    (Instr.vabs { zeroV with lu := 2 }).reject = some ⟨5, 33⟩ ∧
    (Instr.vadd { zeroV with lu := 4 }).reject = some ⟨5, 34⟩ ∧
    (Instr.vadd { zeroV with sx := 1 }).reject = some ⟨5, 35⟩ ∧
    (Instr.vadd { zeroV with fd := 1 }).reject = some ⟨4, 40⟩ ∧
    (Instr.vadd { zeroV with mod := 6 }).reject = some ⟨4, 48⟩ ∧
    (Instr.vadd { zeroV with imm := .short 1 }).reject = some ⟨5, 52⟩ ∧
    (Instr.vabs { zeroV with imm := .wide 0 }).reject = some ⟨6, 64⟩ ∧
    (Instr.vexp2 { zeroV with fd := 3, fs := 3 }).reject = some ⟨4, 40⟩ := by decide

/-- R227, R230: layout M. -/
theorem test_wf_layout_M :
    (Instr.mmw ⟨0, 2, 2, 8, 0, 0, 0, 1, 0, 0, 0⟩).reject = some ⟨5, 23⟩ ∧
    (Instr.mma ⟨0, 2, 2, 0, 0, 8, 0, 0, 0, 0, 0⟩).reject = some ⟨5, 31⟩ ∧
    (Instr.mma ⟨0, 2, 2, 0, 8, 0, 0, 0, 0, 0, 0⟩).reject = some ⟨5, 36⟩ ∧
    (Instr.mma ⟨0, 2, 2, 8, 0, 0, 0, 0, 0, 0, 0⟩).reject = some ⟨5, 41⟩ ∧
    (Instr.mma ⟨0, 3, 2, 0, 0, 0, 0, 0, 0, 0, 0⟩).reject = some ⟨4, 46⟩ ∧
    (Instr.mma ⟨4, 2, 2, 0, 0, 0, 0, 0, 0, 0, 0⟩).reject = some ⟨4, 54⟩ ∧
    (Instr.mma ⟨16, 2, 2, 0, 0, 0, 0, 0, 0, 0, 0⟩).reject = some ⟨4, 54⟩ := by decide

/-- What the checks admit: `zr` where a scalar stands, a condition as a source, the extreme codes, and the rest of the range. -/
theorem test_wf_admits :
    (Instr.add32 ⟨0, 59, 55, 63, 7⟩).wf = true ∧ (Instr.mov32 ⟨0, 1, 47, 59, 0⟩).wf = true ∧
    (Instr.cpy { zeroG with a := 63, b := 29, scope := 15 }).wf = true ∧ (Instr.lia ⟨.short 0x7FFFFFF, 1, 0, 47, 0, 0⟩).wf = true ∧
    (Instr.vcmp { zeroV with wx := 5 }).wf = true ∧ (Instr.mma ⟨0xF8, 2, 2, 0, 0, 0, 15, 15, 7, 0, 0⟩).wf = true := by decide


/-- An engine whose a0 and a1 are at the first and last 16 bytes of its scratchpad, a2 at 0x40000000, which the range table of
its die takes to HBM4E of BD slot 6, a3 at an odd local address and a4 at the end of the range. Tenant 7, address space 1. -/
def mapped : Engine :=
  { live with
    aspace := 0x0007000106000000
    a := live.a.set 0 0xFF000000000000010000 |>.set 1 0xFF0000000000000FFFF0 |>.set 2 0x40000000 |>.set 3 0xFF000000000000010001
      |>.set 4 0x40001000 }

/-- The package with that engine: scratchpad of 15 granules from granule 1, eight granules of spill; a range table entry that grants
all rights to 4 KiB from 0x40000000 on; an access-table entry of tenant 7 for that memory. -/
def world (id : EngId) (e : Engine) : State :=
  let s := at_ id e
  let d := s.die id.slot
  let s := s.setDie id.slot { d with ranges := [⟨1, 0, 0xF, BitVec.ofNat 56 (paOf 6 0x10000000000), 0x40000FFF, 0x40000000⟩] }
  let s := s.setDie 6 { s.die 6 with acc := [⟨7, 0xF, 0, 0x10000000FFF, 0x10000000000⟩] }
  s.setCluster id.cl { s.cluster id.cl with partw := 0x00000008000F0100 }

/-! ## Witnesses: scalar instructions -/

/-- The hypotheses of AluResults, ImmediateAndAddressResults and CompareAndCountResults, with the checking scoreboard on: an
instruction issues with the greatest and least register codes among its sources and destination. -/
theorem witness_scalar_results :
    let s := at_ me { live with strmcfg := 1 }
    s.Issues ([7, 31].map s.issuer.destOf) (s.result 1 31 5) ∧ s.Issues ([63, 59, 55].map s.issuer.destOf) (s.result 12 0 5) ∧
    s.Issues ([33, 47].map s.issuer.destOf) (s.result 1 47 5) ∧ s.Issues ([].map s.issuer.destOf) (s.result 1 55 1) ∧ s.Issues [] [] := by
  decide +kernel

/-- MovResults: each clause for a part-0 move into a scalar, a part-1 move out of and into an address register, and the refusal. -/
theorem witness_MovResults :
    let s := at_ me mapped
    let e := s.issuer
    s.Issues [e.destOf 32] (s.result 1 8 (e.val80 32)) ∧ s.Issues [e.destOf 32] (s.result 1 8 ((e.val80 32) >>> 64)) ∧
    s.Issues [e.destOf 5] [⟨.aHi 2 ((e.val 5).setWidth 16), s.issueAt⟩] ∧ s.Issues [e.destOf 0] (s.result 1 59 (e.val80 0)) ∧
    (e.val 0).toNat < 2 ^ 48 ∧ 2 ^ 48 ≤ (e.val 7).toNat ∧ s.Ready [e.destOf 7] := by decide +kernel

/-- ResultLands: nothing pending, a latency of 1, the boundary codes; ScalarFrame: each of its three ways. -/
theorem witness_ResultLands_ScalarFrame :
    live.pend = [] ∧ live.entering = false ∧ (∀ d ∈ [0, 31, 32, 47, 48, 55, 56, 59, 63], d < 60 ∨ d = 63) ∧
    (let s := at_ me live
     let i : Instr := .add32 ⟨0, 1, 0, 8, 0⟩
     goesOn (exec i s) = true ∧ (nxt (exec i s)).faults = s.faults ∧ nxt (exec i s) ≠ s.held) ∧
    (let s := at_ me { live with inter := [(.glob 0, 9)] }
     goesOn (exec (.add32 ⟨0, 1, 0, 8, 0⟩) s) = true ∧ nxt (exec (.add32 ⟨0, 1, 0, 8, 0⟩) s) = s.held) ∧
    (let s := at_ me { live with strmcfg := 1, pend := [⟨.glob 0 1, 30⟩] }
     let i : Instr := .add32 ⟨0, 1, 0, 8, 0⟩
     goesOn (exec i s) = true ∧ nxt (exec i s) = s.raised 5 (causeOf s i).2 s.issuer.pc) := by decide +kernel

/-- LocalAccessResults: the first and last places of the scratchpad, each width, a load and a store, in the conditions of the rule. -/
theorem witness_LocalAccessResults :
    let s := world me { mapped with strmcfg := 1 }
    let e := s.issuer
    (∀ size ∈ [1, 2, 4, 8, 16], (e.ea 32 63 0).toNat % size = 0 ∧ s.ownAperture s.cur (e.ea 32 63 0) size = some 0x10000 ∧
      s.Unheld pathS 15 [(0x10000, size)] ∧ s.Unshadowed [(0x10000, size)] ∧ s.poisoned 0x10000 size = false ∧ s.Issues [e.destOf 32, e.destOf 63] (s.result 6 8 0) ∧
      s.Issues [e.destOf 32, e.destOf 63, e.destOf 5] []) ∧
    s.ownAperture s.cur (e.ea 33 63 0) 16 = some 0xFFFF0 ∧ (e.ea 33 63 0).toNat % 16 = 0 ∧
    s.ownAperture s.cur (e.ea 33 63 15) 1 = some 0xFFFFF := by decide +kernel

/-- R183, R184: loads and stores of the scratchpad; a store reaches its bytes alone, a load extends as its form says. -/
theorem test_local_access :
    let s := { world me mapped with mem := [(0x10000, 0x80), (0x10001, 0xFF), (0x10002, 0x01), (0x10003, 0x02), (0x10007, 0x70), (0x10009, 0x44)] }
    let g : LG := ⟨.short 0, 0, 0, 0, 63, 32, 8, 0, 0⟩
    let x : L32 := ⟨0, 63, 32, 8, 0⟩
    ends s (.ldB g) 8 = 0x80 ∧ ends s (.ldB { g with mod := 1 }) 8 = 0xFFFFFFFFFFFFFF80 ∧ ends s (.ldH { g with mod := 1 }) 8 = 0xFFFFFFFFFFFFFF80 ∧
    ends s (.ldW g) 8 = 0x0201FF80 ∧ ends s (.ldD g) 8 = 0x700000000201FF80 ∧ ends s (.ldA { g with d := 40 }) 40 = 0x4400700000000201FF80 ∧
    ends s (.ldxB { x with flg := 1 }) 8 = 0xFFFFFFFFFFFFFF80 ∧ ends s (.ldxH x) 8 = 0xFF80 ∧ ends s (.ldxW x) 8 = 0x0201FF80 ∧
    ends s (.ldxD { x with b := 6, a := 35 }) 8 = 0 ∧ faultsOf s (.ldxD { x with b := 6, a := 35 }) = [0x0104] ∧
    (let t := nxt (exec (.stH { g with d := 7, imm := .short 2 }) s)
     t.mem = [(0x10000, 0x80), (0x10001, 0xFF), (0x10002, 0xEF), (0x10003, 0xCD), (0x10007, 0x70), (0x10009, 0x44)]) ∧
    (nxt (exec (.stxB { x with d := 63 }) s)).mem.head? = some (0x10001, 0xFF) ∧ (nxt (exec (.stxH { x with d := 0 }) s)).mem.head? = some (0x10000, 7) ∧
    ((nxt (exec (.stxW { x with d := 4 }) s)).mem.take 4).map (·.2) = [0xFF, 0xFF, 0xFF, 0xFF] ∧
    ((nxt (exec (.stxD { x with d := 7 }) s)).mem.take 8).map (·.2) = [0xEF, 0xCD, 0xAB, 0x89, 0x67, 0x45, 0x23, 0x01] ∧
    ((nxt (exec (.stA { g with d := 32 }) s)).mem).map (·.1) = [0x10002, 0x10009] ∧
    ((nxt (exec (.stB { g with d := 7 }) s)).mem.head? = some (0x10000, 0xEF)) ∧ (nxt (exec (.stW { g with d := 63 }) s)).mem = [(0x10007, 0x70), (0x10009, 0x44)] ∧
    (nxt (exec (.stD { g with d := 63 }) s)).mem = [(0x10009, 0x44)] := by decide +kernel

/-- RemoteLoadStore: an aligned address of a mapped page at its first and last place, and each way it is refused. -/
theorem witness_RemoteLoadStore :
    let s := world me mapped
    let e := s.issuer
    isLocal (e.ea 34 63 0) = false ∧ s.Issues [e.destOf 34, e.destOf 63, e.destOf 5] [] ∧ s.acquiring e = false ∧
    misalignedAt 16 [(e.ea 34 63 0, 16)] = none ∧
    (match s.resolveAll s.cur e rRead 0 [(e.ea 34 63 0, 16)] with | .ok (ps, none) => ps == [(paOf 6 0x10000000000, 16)] | _ => false) = true ∧
    (match s.resolveAll s.cur e rWrite 0 [(e.ea 34 63 0xFF8, 8)] with | .ok (ps, none) => ps == [(paOf 6 0x10000000FF8, 8)] | _ => false) = true ∧
    misalignedAt 8 [(e.ea 34 63 4, 8)] = some (e.ea 34 63 4) ∧
    (match s.resolveAll s.cur e rWrite 0 [(e.ea 32 63 (-1), 1)] with | .error (_, .physical 2) => true | _ => false) = true ∧
    goesOn (exec (.ldD ⟨.short 0, 0, 0, 0, 63, 34, 8, 0, 0⟩) s) = true ∧
    faultsOf s (.ldD ⟨.short 4, 0, 0, 0, 63, 34, 8, 0, 0⟩) = [0x0104] ∧ faultsOf s (.ldB ⟨.short (-1), 0, 0, 0, 63, 32, 8, 0, 0⟩) = [0x0103] := by
  decide +kernel


/-! ## Witnesses and tests: control, exceptions, waits, system registers -/

/-- An engine in a loop body of two instructions that ends at its pc. -/
def looping : Engine := { live with lc := live.lc.set 1 ⟨2, 9, 10, true, 0⟩ }

/-- BranchResults: each kind of branch taken and not taken, to the first and last word of the section and just outside it, and at
a loop's end. -/
theorem witness_BranchResults :
    let s := world me { mapped with strmcfg := 1, c := live.c.set 7 true }
    let e := s.issuer
    s.Issues [.c 7] [] ∧ e.c[idx8 7] = true ∧ e.c[idx8 0] = false ∧ e.atLoopEnd = false ∧ s.bounds s.cur e = (2, 100) ∧
    s.Issues [e.destOf 31] [] ∧ ((e.val 0).setWidth 32 : BitVec 32).toNat = 7 ∧ ((e.val 5).setWidth 32 : BitVec 32).toNat = 240 ∧
    (world me looping).issuer.atLoopEnd = true ∧ (world me looping).Issues [] [] := by decide +kernel


/-- CallsAndReturns: a call at depth 0 and one at the greatest depth, with and without a spill; a return at depth 1, and one at 0. -/
theorem witness_CallsAndReturns :
    let s := world me { mapped with strmcfg := 1, c := live.c.set 7 true }
    let e := s.issuer
    let deep := world me { mapped with depth := 826, resident := 8 }
    let last := world me { mapped with depth := 825, resident := 8 }
    s.Issues [.c 7] [⟨.win (winIndex 0 23) 0, 20⟩] ∧ e.atLoopEnd = false ∧ e.spillWaits = false ∧ e.resident ≤ 8 ∧ e.depth + 1 ≤ s.maxDepth s.cur ∧
    s.Issues [e.destOf 0] [⟨.win (winIndex 0 23) 0, 20⟩] ∧ s.bounds s.cur e = (2, 100) ∧
    deep.maxDepth me = 826 ∧ deep.Issues [] [⟨.win (winIndex 826 23) 0, 20⟩] ∧ deep.issuer.spillWaits = false ∧
    last.issuer.depth + 1 ≤ last.maxDepth me ∧ (engOf last (.call ⟨5, 0, 0, 0, 0, 0, 0⟩)).nextIssue = 25 ∧ causeOf deep (.call ⟨5, 0, 0, 0, 0, 0, 0⟩) = (0xB, 826 * 65536 + 1) ∧
    (world me { mapped with depth := 1 }).Issues [.win (winIndex 0 23)] [] ∧ causeOf s (.ret ⟨0, 0, 0, 0, 0⟩) = (0xB, 2) := by decide +kernel

/-- R187, R50, and the loop_demo example of R189: `call sub` at word 10 leaves 12 in the caller's s23; the callee's s8 is the
caller's s24; the return goes there, with 8 cycles more when only one window is resident (R51). -/
theorem test_call_ret :
    let s := world me { mapped with win := AMap.put [] (winIndex 0 24) 6 }
    let t := nxt (exec (.call ⟨0xFFFFA, 0, 0, 0, 0, 0, 0⟩) s)
    let e := (t.eng me).settle 21
    e.pc = 4 ∧ e.depth = 1 ∧ e.scalar 8 = 6 ∧ e.scalar 16 = 0 ∧ e.scalar 0 = 7 ∧ e.nextIssue = 21 ∧
    (let u := (nxt (exec (.ret ⟨0, 0, 0, 0, 0⟩) t)).eng me
     u.pc = 12 ∧ u.depth = 0 ∧ u.scalar 24 = 6 ∧ u.scalar 23 = 12 ∧ u.nextIssue = 22) := by decide +kernel

/-- LoopsRepeat: a loop of no, one and the most iterations, `last` just inside the section, and the three refusals; the end of a loop. -/
theorem witness_LoopsRepeat :
    let s := world me { mapped with strmcfg := 1 }
    let e := s.issuer
    let fits (off : BitVec 20) : Bool := decide (0 < off.toInt) && decide ((e.pc + BitVec.ofInt 32 off.toInt).toNat < 100) && !e.overruns (e.pc + BitVec.ofInt 32 off.toInt)
    s.Issues [] [⟨.lc 3 0, 20⟩] ∧ s.Issues [e.destOf 63] [⟨.lc 0 0, 20⟩] ∧ fits 1 = true ∧ fits 89 = true ∧ fits 90 = false ∧ fits 0 = false ∧
    e.lc[(0 : Fin 4)].active = false ∧ (e.val 0).toNat < 2 ^ 48 ∧ 2 ^ 48 ≤ (e.val 7).toNat ∧
    (let t := world me { mapped with pc := 9, lc := live.lc.set 1 ⟨2, 9, 10, true, 0⟩ }
     t.issuer.lc[(1 : Fin 4)].active = true ∧ t.issuer.atLoopEnd = false ∧ t.issuer.overruns 11 = true) ∧
    (let t := world me looping
     t.Issues [] [] ∧ t.issuer.lc[(1 : Fin 4)].last = t.issuer.pc ∧ t.issuer.lc[(1 : Fin 4)].depth = t.issuer.depth ∧
     (∀ m : Fin 4, m ≠ 1 → t.issuer.lc[m].active = false)) := by decide +kernel

/-- R188: the loop of the loop_demo example of R189, at word 6 with `last` at word 9, and a loop of no iterations; the back-edge and
the last iteration. -/
theorem test_loops :
    let s := world me { mapped with pc := 6 }
    let e := engOf s (.loopI ⟨3, 4, 0, 0, 0, 0, 0⟩)
    e.lc[(0 : Fin 4)] = ⟨4, 8, 9, true, 0⟩ ∧ e.pc = 8 ∧ e.nextIssue = 21 ∧
    (let e := engOf s (.loopS ⟨2, 63, 1, 0, 0, 0, 0⟩)
     e.lc[(1 : Fin 4)].active = false ∧ e.pc = 9) ∧
    (engOf (world me looping) (.nop ⟨0, 0, 0, 0, 0⟩)).pc = 9 ∧ (engOf (world me looping) (.nop ⟨0, 0, 0, 0, 0⟩)).lc[(1 : Fin 4)].count = 1 ∧
    (let e := engOf (world me { looping with lc := live.lc.set 1 ⟨1, 9, 10, true, 0⟩ }) (.nop ⟨0, 0, 0, 0, 0⟩)
     e.pc = 11 ∧ e.lc[(1 : Fin 4)].active = false) := by decide +kernel

/-- ExceptionEntry: a handler installed with room and without, one that runs already, and none. -/
theorem witness_ExceptionEntry :
    let en : Engine := { mapped with chksb := 0x0000004000000001, pend := [⟨.glob 0 9, 23⟩] }
    (∀ p ∈ en.pend, p.wr.isSys = false) ∧ en.chksb.getLsbD 0 = true ∧ en.chksb.getLsbD 2 = false ∧ en.lend = none ∧
    en.depth + 1 ≤ (world me en).maxDepth me ∧ ¬ ((world me { en with depth := 826 }).issuer.depth + 1 ≤ (world me { en with depth := 826 }).maxDepth me) ∧
    (let s : State := { world me en with faults := [{ faultAt (world me en) ge 0x0101 0 0 with seq := en.seq, team := en.team }] }
     s.stopNoted s.issuer = true ∧ (world me en).stopNoted (world me en).issuer = false ∧ (s.raised 1 0 0).faults.length = 1 ∧
     ((s.raised 1 0 0).eng me).status = .stopped ∧ ((s.raised 1 0 0).eng me).cause = 0) := by
  decide +kernel

/-- R381, R383, R393: a trap with a handler at 0x40 issues it at c + 6 with inh set, EPC past the trap and s8 the old s24; a second
exception stops the engine with the team's fault. -/
theorem test_trap_handler :
    let s := world me { mapped with chksb := 0x0000004000000001, win := AMap.put [] (winIndex 0 24) 6, pend := [⟨.glob 0 9, 23⟩] }
    let e := engOf s (.trap ⟨.short 0x123, 0, 0, 0, 0, 0, 0, 0, 0⟩)
    e.pc = 0x40 ∧ e.nextIssue = 26 ∧ e.cause = 0x0000012300000007 ∧ e.epc = 12 ∧ e.chksb = 0x0000004000000005 ∧ e.scalar 8 = 6 ∧
    e.snap = [⟨.glob 0 9, 3⟩] ∧ (nxt (exec (.trap ⟨.short 0x123, 0, 0, 0, 0, 0, 0, 0, 0⟩) s)).faults = [] ∧
    (let t := nxt (exec (.brk ⟨0, 0, 0, 0, 0⟩) s)
     (t.eng me).status = .atBrk ∧ (t.eng me).cause = 8 ∧ (t.eng me).epc = 11 ∧ (t.cluster 0).engstop = 1 ∧ t.outbox = [.interrupt 0]) ∧
    (let u := nxt (exec (.trap ⟨.short 1, 0, 0, 0, 0, 0, 0, 0, 0⟩) (nxt (exec (.trap ⟨.short 0x123, 0, 0, 0, 0, 0, 0, 0, 0⟩) s)))
     (u.eng me).status = .stopped ∧ u.faults.map (·.cause) = [7]) := by decide +kernel

/-- TrapResults: out of and at a loop's end; in a handler with EPC at the first word and one past the last of the section, and beyond. -/
def inHandler (p : Word) : State := world me { mapped with chksb := 0x0000004000000005, depth := 1, epc := p, snap := [⟨.glob 0 9, 3⟩] }

theorem witness_TrapResults :
    let s := world me { mapped with strmcfg := 1 }
    s.Issues [] [] ∧ s.issuer.atLoopEnd = false ∧ s.issuer.chksb.getLsbD 2 = false ∧ (world me looping).Issues [] [] ∧ (world me looping).issuer.atLoopEnd = true ∧
    (let t := inHandler 2
     t.Issues [] [] ∧ t.issuer.atLoopEnd = false ∧ t.issuer.chksb.getLsbD 2 = true ∧ 0 < t.issuer.depth ∧ t.issuer.secStart = 2 ∧ t.issuer.secEnd = 100 ∧ fld t.issuer.epc 0 32 = 2) ∧
    fld (inHandler 100).issuer.epc 0 32 = 100 ∧ fld (inHandler 1).issuer.epc 0 32 = 1 ∧ fld (inHandler 101).issuer.epc 0 32 = 101 := by decide +kernel

/-- R382: `eret` goes to EPC and clears inh; outside a handler it is illegal instruction, reason 7. -/
theorem test_eret :
    let e := engOf (inHandler 100) (.eret ⟨0, 0, 0, 0, 0⟩)
    e.pc = 100 ∧ e.chksb = 0x0000004000000001 ∧ e.depth = 0 ∧ e.nextIssue = 29 ∧ e.replay = true ∧
    causeOf (inHandler 101) (.eret ⟨0, 0, 0, 0, 0⟩) = (2, 0x0033FF07) ∧ causeOf (world me mapped) (.eret ⟨0, 0, 0, 0, 0⟩) = (1, 0x0033FF07) := by
  decide +kernel

/-- R186: jumps at cycle 20, to c + 1 + k; a target at the section's end is refused with its detail (R386: length bits 01). -/
theorem test_branches :
    let s := world me { mapped with c := live.c.set 7 true }
    let go (i : Instr) : Nat × Nat := ((engOf s i).pc.toNat, (engOf s i).nextIssue)
    go (.b ⟨0xFFFF8, 0, 0, 0, 0, 0, 0⟩) = (2, 21) ∧ go (.b ⟨89, 0, 0, 7, 1, 0, 3⟩) = (99, 24) ∧ go (.b ⟨89, 0, 0, 7, 2, 0, 1⟩) = (12, 22) ∧
    go (.b ⟨5, 0, 0, 0, 2, 0, 0⟩) = (15, 21) ∧ go (.jr ⟨0, 0, 0, 0, 2⟩) = (7, 23) ∧
    causeOf s (.b ⟨90, 0, 0, 0, 0, 0, 0⟩) = (2, 0x04502C07) ∧ causeOf s (.jr ⟨0, 0, 5, 0, 0⟩) = (2, 0x00301307) ∧
    (engOf s (.callr ⟨0, 0, 0, 0, 0⟩)).depth = 1 := by decide +kernel


/-- An access on its way to `pa`, due now. -/
def access (id : Nat) (eng : EngId) (path : Nat) (pas : List (Nat × Nat)) (op : AccOp) : Access :=
  { id := id, eng := eng, seq := 1, team := 1, incarn := 0, pc := 10, path := path, cls := 3, scope := 0, acq := false, rel := false,
    vas := [], pas := pas, need := rRead, op := op, born := 0, due := 0, early := none, did := [], got := [], merged := false }

/-- FencesAndWaits: fences of every class and path mask with an access outstanding that they hold for, and one they do not; a wait
whose condition holds and one whose does not; a sleeping engine to be tried again. -/
theorem witness_FencesAndWaits :
    let s := { world me { mapped with strmcfg := 1 } with accesses := [access 5 me pathS [(paOf 6 0x10000000000, 8)] (.store [1, 0, 0, 0, 0, 0, 0, 0])] }
    let e := s.issuer
    s.Issues [] [] ∧ s.fenced (s.eng s.cur) = false ∧ (0x8 : Nat).testBit 3 = true ∧ (0x7 : Nat).testBit 3 = false ∧
    ((engOf s (.fenceC ⟨.short 0x8, 8, 0, 0, 0, 0⟩)).holds.map (·.id)) = [5] ∧ (engOf s (.fenceC ⟨.short 0x7, 8, 0, 0, 0, 0⟩)).holds = [] ∧
    ((engOf s (.fenceX ⟨.short 0x0, 0, 8, 0, 0, 0, 0, 0, 0⟩)).holds.map (·.id)) = [5] ∧ (engOf s (.fenceX ⟨.short 0x9, 0, 8, 0, 0, 0, 0, 0, 0⟩)).holds = [] ∧
    causeOf s (.fenceC ⟨.short 0x7, 15, 0, 0, 0, 0⟩) = (2, 0x04612009) ∧
    s.Issues [e.destOf 32, e.destOf 63, e.destOf 0] [] ∧ (e.ea 32 63 0).toNat % 8 = 0 ∧ s.ownAperture me (e.ea 32 63 0) 8 = some 0x10000 ∧
    s.Unheld pathS 3 [(0x10000, 8)] ∧ s.poisoned 0x10000 8 = false := by decide +kernel

/-- R111, R190: a wait for a word that holds 7: equal to s0 it goes on; for a word not equal to it, it sleeps and wakes when the word
changes. -/
theorem test_wait :
    let s := { world me mapped with mem := [(0x10000, 7)] }
    let f : LG := ⟨.short 0, 0, 8, 0, 63, 32, 0, 0, 0⟩
    (engOf s (.wait f)).status = .running ∧ (engOf s (.wait f)).pc = 12 ∧
    (engOf s (.wait { f with mod := 1 })).status = .blocked (.wait (some 0x10000) (localVa 0x10000) 0 1 7) 21 ∧ (engOf s (.wait { f with mod := 2 })).status = .running ∧
    (let t := nxt (exec (.wait { f with mod := 1 }) s)
     goesOn (exec (.waitReread me) t) = true ∧ nxt (exec (.waitReread me) t) = t ∧
     ((nxt (exec (.waitReread me) { t with mem := [(0x10000, 8)] })).eng me).status = .running) := by decide +kernel

/-- MarksAndSystemRegisters: its clauses: notify, deadl, idbeg with results pending, idend in and out of a region, each register number
at the ends of its range, and a number that names none. -/
theorem witness_MarksAndSystemRegisters :
    let s := world me { mapped with strmcfg := 1, pend := [⟨.glob 5 1, 24⟩] }
    let e := s.issuer
    s.Issues [] [] ∧ e.atLoopEnd = false ∧ s.peerStops e = false ∧ s.canSteal s.cur = false ∧ s.Issues [e.destOf 0] [] ∧ e.region = none ∧
    (∀ q ∈ e.inter, recorded q.1 = false) ∧ (engOf s (.idbeg zeroG)).nextIssue = 25 ∧ (engOf s (.idbeg zeroG)).region.isSome = true ∧
    (nxt (exec (.idbeg zeroG) s)).cur = me ∧
    (let t := { nxt (exec (.idbeg zeroG) s) with cur := me }
     t.Issues [] [] ∧ t.issuer.region ≠ none ∧ (engOf t (.idend zeroG)).region = none ∧ causeOf t (.idbeg zeroG) = (2, 0x0465FF07)) ∧
    (∀ n ∈ [0, 2, 3, 8, 0xC, 0x10, 0x11, 0x12, 0x13, 0x14, 0x15, 0x16, 0x17, 0x40, 0x41, 0x42, 0x100, 0x13F], hasSys me n = true) ∧
    (∀ n ∈ [4, 7, 0xD, 0x18, 0x20, 0x43, 0x140, 4095], hasSys me n = false) ∧ hasSys ce 0x2B = true ∧
    s.Issues [] (s.result 2 8 0) ∧ s.Ready [] ∧ s.Ready [e.destOf 0] ∧ (s.cluster 0).bfmtPend = [] := by decide +kernel

/-- R162, R194, R196, R20, R34: engine number, cycle and tick counters, a mode bit from the second cycle on, a deadline from T0. -/
theorem test_system_registers :
    let s := { world ve { mapped with depth := 3, resident := 4 } with ptick := 1234 }
    let f : LG := ⟨.short 0, 0, 0, 0, 0, 0, 8, 0, 0⟩
    ends s (.mfs f) 8 = 0x00040000 ∧ ends s (.mfs { f with imm := .short 2 }) 8 = 1234 ∧ ends s (.mfs { f with imm := .short 0x12 }) 8 = 0x40003 ∧
    ends s (.mfs { f with imm := .short 0x13 }) 8 = 0x0007000106000000 ∧ causeOf s (.mfs { f with imm := .short 0x20 }) = (2, 0x04673408) ∧
    (engOf s (.mts { f with imm := .short 0x11, a := 0 })).pend = [⟨.sys 0x11 7, 21⟩] ∧ ((engOf s (.mts { f with imm := .short 0x11, a := 0 })).settle 22).strmcfg = 1 ∧
    ((engOf s (.mts { f with imm := .short 0x42, a := 7 })).settle 22).chksb = 0x0123456700000001 ∧
    ((engOf s (.deadl { f with a := 0, imm := .short 100 })).deadl.map (·.tick)) = some 107 ∧
    (engOf s (.notify f)).status = .notifying 0 := by decide +kernel

/-- The state after reset once the governor has evaluated at PTICK 0 (R337). -/
def settled : State := { State.reset with gov := { State.reset.gov with lastEval := some 0 } }

/-- StepKeepsInv: the state after reset has the invariant, and a tick passes. -/
theorem witness_StepKeepsInv : State.reset.Inv ∧ settled.Inv ∧ goesOn (step settled) = true ∧ State.reset.evaluates = true := by decide +kernel

/-- A word that step fetches next, after reset. -/
def placed (w : Nat) : State := State.reset.withFetchWord 32 w

/-- StepRunsDecoded: an input; nothing to do; an instruction, a reserved word, a header inside a section, a word that passes its end,
and the place of a header. -/
theorem witness_StepRunsDecoded :
    settled.inbox = [] ∧ settled.nextEvent.isNone = true ∧ settled.dueEngine = none ∧ settled.faults = [] ∧
    (let s := placed 0x0E30A028
     let u := { s with cur := me }
     s.inbox = [] ∧ s.nextEvent.isNone = true ∧ s.dueEngine = some me ∧ me.kind = some .me ∧ u.endLend me = none ∧ (u.eng me).started = true ∧
     (u.eng me).pc.toNat ≠ (u.bounds me (u.eng me)).2 ∧ (u.codeWord me (u.eng me) (u.eng me).pc.toNat).toOption = some 0x0E30A028 ∧
     isHeader 0x0E30A028 = false ∧ lengthOf 0x0E30A028 = 1 ∧ (u.eng me).pc.toNat + 1 ≤ (u.bounds me (u.eng me)).2 ∧
     (decodeFor .me [0x0E30A028]).toOption = some (.add32 ⟨0, 7, 6, 5, 2⟩) ∧ u.fenced (u.eng me) = false) ∧
    (let s := placed 3
     isHeader 3 = true ∧ s.dueEngine = some me ∧ s.fenced (s.eng me) = false ∧ s.endLend me = none ∧ ((nxt (step s)).eng me).cause = 0x000200010000000A) ∧
    ((decodeFor .me [0x00000FC0]).toOption = none ∧ ((nxt (step (placed 0x00000FC0))).eng me).cause = 0x007E050100000001) ∧
    (let s := placed 1
     let t := s.setEng me { s.eng me with secEnd := 1 }
     t.dueEngine = some me ∧ (t.bounds me (t.eng me)).2 < (t.eng me).pc.toNat + lengthOf 1 ∧ t.endLend me = none ∧ ((nxt (step t)).eng me).cause = 0x000200050000000A) ∧
    (let s := placed 1
     let t := s.setEng me { s.eng me with secEnd := 0 }
     t.dueEngine = some me ∧ (t.eng me).pc.toNat = (t.bounds me (t.eng me)).2) := by decide +kernel

/-- DecodeEncode and EncodeDecode: a well-formed instruction of each length and of a subset of some engines alone, and its words. -/
theorem witness_DecodeEncode :
    (Instr.add32 ⟨0, 7, 6, 5, 2⟩).wf = true ∧ encode (.add32 ⟨0, 7, 6, 5, 2⟩) = [0x0E30A028] ∧
    (Instr.li ⟨.wide 0x1234567890, 0, 0, 9, 0, 0⟩).wf = true ∧ encode (.li ⟨.wide 0x1234567890, 0, 0, 9, 0, 0⟩) = [0x009005C2, 0x45678900, 0x00000123] ∧
    (Instr.mma ⟨1, 2, 2, 0, 0, 0, 1, 0, 2, 0, 0⟩).wf = true ∧ encode (.mma ⟨1, 2, 2, 0, 0, 0, 1, 0, 2, 0, 0⟩) = [0x08208201, 0x00488000] ∧
    EngKind.me.executes (subsetOf (op10 0x08208201)) = true ∧ EngKind.ve.executes (subsetOf (op10 0x08208201)) = false := by decide +kernel


/-! ## Witnesses and tests: windows, barriers, atomics -/

/-- A die whose route 0x21 goes to window 3 of slot 4, with slots of 256 bytes, given to ve0 of cluster 0. -/
def routed (s : State) : State :=
  let s := s.setDie s.cur.slot { s.die s.cur.slot with route := AMap.put [] 0x21 0x0000000104030000 }
  s.setDie 4 { s.die 4 with wincfg := AMap.put [] 3 0x0000000101000008 }

/-- PushTakeResults: pushes of the least and greatest length of one and of two pieces, an absent route, a length out of range, an
earlier store; takes with an empty and a full slot. -/
theorem witness_PushTakeResults :
    let s := routed (world me { mapped with strmcfg := 1, a := mapped.a.set 5 0x100 })
    let e := s.issuer
    let route := (s.die 0).routeOf 0x21
    routeValid route = true ∧ routeSlot route = 4 ∧ routeWindow route = 3 ∧ winSlotBytes ((s.die 4).wincfgOf 3) = 256 ∧ routeValid ((s.die 0).routeOf 0x20) = false ∧
    s.Issues [e.destOf 32, e.destOf 63, e.destOf 5] [] ∧ (e.val 5).toNat = 0xF0 ∧ s.unreleased me e 20 (s.pushScope me route) = false ∧
    s.ownAperture me (e.ea 32 63 0) 240 = some 0x10000 ∧ s.poisoned 0x10000 240 = false ∧ isLocal (e.ea 37 63 0) = false ∧
    (let t := { s with nextId := 6, accesses := [access 5 me pathS [] (.store [1])] }
     t.unreleased me t.issuer 20 (s.pushScope me route) = true) ∧
    (engOf s (.push ⟨.short 0, 0, 0, 5, 63, 32, 0x21, 0, 0⟩)).pc = 12 ∧ causeOf s (.push ⟨.short 0, 0, 0, 5, 63, 32, 0x20, 0, 0⟩) = (2, 0x0480140D) ∧
    causeOf s (.push ⟨.short 0, 1, 0, 5, 63, 32, 0x21, 0, 0⟩) = (2, 0x0480260D) ∧ causeOf s (.push ⟨.short 0, 0, 0, 63, 63, 32, 0x21, 0, 0⟩) = (2, 0x0480260D) := by
  decide +kernel

/-- The state of a consumer of window 3 whose first slot is full. -/
def consumer : State :=
  let s := routed (world ve mapped)
  { s.setDie 4 { s.die 4 with windows := AMap.put [] 3 { Window.reset with full := 1 } } with
    mem := [(slotPa 4 3 0, 0xAB), (slotPa 4 3 0 + 255, 0xCD)] }

theorem witness_PushTakeResults_take :
    let s := consumer
    let e := s.issuer
    let cfg := (s.die 4).wincfgOf 3
    winValid cfg = true ∧ winEngine cfg = 0 ∧ winCluster cfg = 0 ∧ s.acquiring e = false ∧ s.Issues [e.destOf 32, e.destOf 63] [] ∧ s.Issues [] [] ∧
    ((s.die 4).window 3).full.getLsbD ((s.die 4).window 3).takePos = true ∧ ((routed (world ve mapped)).die 4 |>.window 3).full.getLsbD 0 = false ∧
    (e.ea 32 63 0).toNat % 64 = 0 ∧ s.ownAperture ve (e.ea 32 63 0) 256 = some (paOf 4 0x10000) ∧ s.poisoned (slotPa 4 3 0) 256 = false ∧
    s.mustFollow ve pathK 0 s.nextId [(paOf 4 0x10000, 256)] = false ∧ s.Unshadowed [(paOf 4 0x10000, 256)] := by decide +kernel

/-- R40, R263: a take of 256 bytes moves its slot and gives its number; an empty slot blocks. -/
theorem test_take :
    let f : LG := ⟨.short 0, 0, 0, 3, 63, 32, 8, 0, 0⟩
    let t := nxt (exec (.take f) consumer)
    byteAt t.mem (paOf 4 0x10000) = 0xAB ∧ byteAt t.mem (paOf 4 0x100FF) = 0xCD ∧ byteAt t.mem (paOf 4 0x10001) = 0 ∧
    (t.eng ve).status = .blocked (.takeEnds 3 23) 24 ∧ (engOf (routed (world ve mapped)) (.take f)).status = .blocked (.take 3) 20 := by decide +kernel

/-- BarrierResults: each clause at its boundaries. -/
theorem witness_BarrierResults :
    let s := world me { mapped with strmcfg := 1, a := mapped.a.set 5 0x40000010 }
    let e := s.issuer
    let f : LG := ⟨.short 0, 0, 8, 0, 63, 34, 8, 0, 0⟩
    s.Issues [e.destOf 34, e.destOf 1, e.destOf 0] [] ∧ (e.val 1).toNat % 2 ^ 16 = 5 ∧ (e.val 63).toNat = 0 ∧ s.scopeOf e.seq 8 < 128 ∧
    (e.val80 34).toNat % 32 = 0 ∧ (e.val80 37).toNat % 32 ≠ 0 ∧ s.acquiring e = false ∧
    (match s.resolveAll me e rRead 0 [(e.val80 34, 32)] with | .ok (ps, none) => ps == [(paOf 6 0x10000000000, 32)] | _ => false) = true ∧
    holdsPartials (paOf 6 0x10000000000) = true ∧
    (nxt (exec (.barInit { f with b := 1, x := 0 }) s)).accesses.length = 1 ∧ (nxt (exec (.barArr f) s)).accesses.length = 1 ∧
    causeOf s (.barInit { f with x := 63 }) = (2, 0x04822004) ∧ causeOf s (.barArr { f with a := 37 }) = (2, 0x04831A0B) ∧
    causeOf s (.barWait { f with a := 37 }) = (2, 0x04841A0B) ∧ (engOf s (.barWait f)).status = .blocked (.barrier none (s.issuer.val80 34) 0 7) 21 ∧
    (nxt (exec (.rclose { f with imm := .short 0x800 }) s)).accesses.length = 1 ∧
    (let c := world ce mapped
     c.Issues [c.issuer.destOf 63] [] ∧ dieKind ce.slot ≠ some .gd ∧ (engOf c (.xwait { f with x := 63, a := 0 })).status = .running ∧
     (engOf c (.xwait { f with x := 0, a := 0 })).status = .blocked (.xwait ce 0 7) 21) := by decide +kernel

/-- AtomicsAtHome: a request that leaves its engine; scope 15; accesses ready to perform at a scratchpad; barriers of each state. -/
theorem witness_AtomicsAtHome :
    let s := world me { mapped with strmcfg := 1 }
    let f : LG := ⟨.short 0x600, 0, 8, 0, 63, 34, 8, 0, 0⟩
    s.Issues ([s.issuer.destOf 34, s.issuer.destOf 63, s.issuer.destOf 0] ++ [s.issuer.destOf 8]) [] ∧
    (nxt (exec (.amoAdd f) s)).accesses.length = 1 ∧ (nxt (exec (.amoFadd { f with imm := .short 0x800 }) s)).accesses.length = 1 ∧
    causeOf s (.amoCas { f with scope := 15 }) = (2, 0x04902C09) ∧ faultsOf s (.redAdd { f with imm := .short 0x604 }) = [0x0104] ∧
    (let q : AReq := ⟨.add, 3, false, false, true, 7, 0, 0⟩
     let a := access 5 me pathK [(0x10000, 8)] (.atomic q (.glob 1))
     let t := { s with accesses := [a] }
     (t.access 5).isSome = true ∧ t.canPerform a = true ∧ t.slotGone (paSlot 0x10000) = false ∧ dieKind (paSlot 0x10000) ≠ some .bd ∧
     t.frozen 1 1 0x10000 = false ∧ t.poisoned 0x10000 8 = false ∧ typeBytes q.ty = 8) := by decide +kernel

/-- R117, R140, R270: what the operations write at an element of four bytes that holds −3, with the operand 5, and a compare-and-swap. -/
theorem test_atomics :
    let s := { world me mapped with mem := [(0x10000, 0xFD), (0x10001, 0xFF), (0x10002, 0xFF), (0x10003, 0xFF)] }
    let does (op : AOp) (uns : Bool) (cmp : Word) : Nat :=
      natOf ((nxt (exec (.accessPerformsAtHome 5) { s with accesses := [access 5 me pathK [(0x10000, 4)] (.atomic ⟨op, 2, false, uns, true, 5, cmp, 0⟩ (.glob 1))] })).bytes 0x10000 4)
    does .add false 0 = 2 ∧ does .min false 0 = 0xFFFFFFFD ∧ does .min true 0 = 5 ∧ does .max false 0 = 5 ∧ does .and false 0 = 5 ∧ does .or false 0 = 0xFFFFFFFD ∧
    does .xor false 0 = 0xFFFFFFF8 ∧ does .swp false 0 = 5 ∧ does .cas false 0xFFFFFFFD = 5 ∧ does .cas false 0 = 0xFFFFFFFD := by decide +kernel

/-- R266, R267: an arrival at a barrier of one arrival and 64 bytes pending leaves the bytes; its delivery ends the phase. -/
theorem test_barrier :
    let b : Barrier := ⟨64, 1, 0, 64, 1, 0x80⟩
    let s := { world me mapped with mem := writeBytes [] 0x10000 b.bytes }
    let s1 := nxt (exec (.accessPerformsAtHome 5) { s with accesses := [access 5 me pathK [(0x10000, 32)] (.barArr (.glob 1))] })
    let s2 := nxt (exec (.barrierDelivery 6) { s1 with accesses := [access 6 me pathK [(0x10000, 32)] (.deliver 64)] })
    s1.barrier 0x10000 = ⟨64, 0, 0, 64, 1, 0x80⟩ ∧ s2.barrier 0x10000 = ⟨64, 1, 1, 64, 1, 0x80⟩ ∧ s1.replies.map (·.writes) = [[.glob 1 0]] ∧
    (let t := nxt (exec (.barrierDelivery 7) { s2 with accesses := [access 7 me pathK [(0x10000, 32)] (.deliver 65)] })
     t.faults.map (fun x => (x.cause, x.detail)) = [(0x0202, 0x0000004000010103)]) ∧
    (let t := nxt (exec (.accessPerformsAtHome 8) { s1 with accesses := [access 8 me pathK [(0x10000, 32)] (.barArr (.glob 1))] })
     t.faults.map (fun x => (x.cause, x.detail)) = [(0x0202, 0x0000004000000002)]) := by decide +kernel


/-! ## Witnesses and tests: vector instructions -/

/-- A vector register from its lanes of `w` bits, lane 0 first; the rest are zero. -/
def lanes (w : Nat) (l : List Nat) : VReg := BitVec.ofNat 4096 (l.foldr (fun x a => x + 2 ^ w * a) 0)

/-- Lanes `0` to `n - 1` of the register `r` in the end, once a vector instruction has issued. -/
def vends (s : State) (i : Instr) (w n r : Nat) : List Nat :=
  (List.range n).map (laneAt w ((((nxt (exec i s)).eng s.cur).settle 1000).w.toList.getD r 0))

/-- An engine of a VD with vectors in w0-w2, and the pairs and groups of the draws in s8 on: seed 42, stream 1, member 0. -/
def vec (w0 w1 w2 : VReg) : Engine :=
  { mapped with
    w := live.w.set 0 w0 |>.set 1 w1 |>.set 2 w2
    win := AMap.put (AMap.put (AMap.put (AMap.put [] (winIndex 0 8) 42) (winIndex 0 9) 1) (winIndex 0 10) 0) (winIndex 0 11) 0x4000 }

/-- Layout V with w3 := op(w0, w1, w2) and the formats given. -/
def vf (fd fs mod : BitVec 4) : LV := ⟨.short 0, mod, fd, fs, 0, 0, 2, 1, 0, 3, 0, 0⟩

/-- VectorElementwise, VectorReductions, VectorSpecial and the forms of registers alone: every one issues, with last uses that clear
its sources, the checking scoreboard on; an instruction of VectorFrame goes on. -/
theorem witness_VectorElementwise :
    let s := world ve { vec 0 0 0 with strmcfg := 1 }
    s.Issues [.w 0, .w 1, .w 2, s.issuer.destOf 8] [⟨.w 0 0, 20⟩, ⟨.w 1 0, 20⟩, ⟨.w 2 0, 20⟩, ⟨.w 7 5, 31⟩] ∧
    s.Issues [.w 7] [⟨.w 7 0, 20⟩, ⟨.w 7 5, 21⟩] ∧ isFloat 1 = true ∧ isFloat 4 = true ∧ isFloat 0 = false ∧ isFloat 5 = false ∧
    goesOn (exec (.vand (vf 0 0 0)) s) = true ∧ (nxt (exec (.vrsum (vf 1 1 0)) s)).fresh = s.fresh + 1 := by decide +kernel

/-- R205-R208: lanes of each format by hand: 1.5, 2, −0.5, NaN; integers at the ends of their range, saturating or not. -/
theorem test_vector_float :
    let s := world ve (vec (lanes 32 [0x3FC00000, 0x80000000, 0x7FC00001]) (lanes 32 [0x40000000, 0, 0x3F800000]) (lanes 32 [0x3F800000, 0xBF800000, 0]))
    let r (i : LV → Instr) : List Nat := vends s (i (vf 1 1 0)) 32 3 3
    r .vadd = [0x40600000, 0, 0x7FC00000] ∧ r .vsub = [0xBF000000, 0x80000000, 0x7FC00000] ∧ r .vmul = [0x40400000, 0x80000000, 0x7FC00000] ∧
    r .vfma = [0x40800000, 0xBF800000, 0x7FC00000] ∧ r .vfms = [0x40000000, 0x3F800000, 0x7FC00000] ∧
    vends s (.vcmp { vf 1 1 0 with wx := 1 }) 32 3 3 = [0xFFFFFFFF, 0, 0xFFFFFFFF] ∧ vends s (.vcmp { vf 1 1 0 with wx := 2 }) 32 3 3 = [0xFFFFFFFF, 0, 0] ∧
    (let b := world ve (vec (lanes 16 [0x3FC0, 0x4040]) (lanes 16 [0x4000, 0]) 0)
     vends b (.vadd (vf 2 2 0)) 16 2 3 = [0x4060, 0x4040] ∧ vends b (.vneg (vf 2 2 0)) 16 2 3 = [0xBFC0, 0xC040] ∧ vends b (.vmax (vf 2 2 0)) 16 2 3 = [0x4000, 0x4040] ∧
     vends b (.vmin (vf 2 2 0)) 16 2 3 = [0x3FC0, 0] ∧ vends b (.vabs (vf 2 2 0)) 16 2 3 = [0x3FC0, 0x4040]) := by decide +kernel

theorem test_vector_integer :
    let s := world ve (vec (lanes 32 [0x7FFFFFFF, 0x80000000, 3]) (lanes 32 [1, 0xFFFFFFFF, 33]) (lanes 32 [5, 0, 1]))
    let r (i : LV → Instr) (mod : BitVec 4) : List Nat := vends s (i (vf 0 0 mod)) 32 3 3
    r .vadd 0 = [0x80000000, 0x7FFFFFFF, 36] ∧ r .vadd 1 = [0x7FFFFFFF, 0x80000000, 36] ∧ r .vsub 1 = [0x7FFFFFFE, 0x80000001, 0xFFFFFFE2] ∧
    r .vmul 0 = [0x7FFFFFFF, 0x80000000, 99] ∧ r .vmul 1 = [0x7FFFFFFF, 0x7FFFFFFF, 99] ∧ r .vfma 0 = [0x80000004, 0x80000000, 100] ∧
    r .vfms 0 = [0x7FFFFFFA, 0x80000000, 98] ∧ r .vmin 0 = [1, 0x80000000, 3] ∧ r .vmin 1 = [1, 0x80000000, 3] ∧ r .vmax 1 = [0x7FFFFFFF, 0xFFFFFFFF, 33] ∧
    r .vmax 0 = [0x7FFFFFFF, 0xFFFFFFFF, 33] ∧ r .vabs 0 = [0x7FFFFFFF, 0x80000000, 3] ∧ r .vabs 1 = [0x7FFFFFFF, 0x7FFFFFFF, 3] ∧
    r .vneg 1 = [0x80000001, 0x7FFFFFFF, 0xFFFFFFFD] ∧ r .vand 0 = [1, 0x80000000, 1] ∧ r .vor 0 = [0x7FFFFFFF, 0xFFFFFFFF, 35] ∧
    r .vxor 0 = [0x7FFFFFFE, 0x7FFFFFFF, 34] ∧ r .vshl 0 = [0xFFFFFFFE, 0, 6] ∧ r .vshr 0 = [0x3FFFFFFF, 1, 1] ∧ r .vshr 1 = [0x3FFFFFFF, 0xFFFFFFFF, 1] ∧
    r .vsel 0 = [0x7FFFFFFF, 0xFFFFFFFF, 3] ∧ vends s (.vadd { vf 0 0 2 with sx := 8 }) 32 3 3 = [0x80000029, 0x8000002A, 45] ∧
    vends s (.vadd { vf 0 0 4 with imm := .short (-1), wb := 0 }) 32 3 3 = [0x7FFFFFFE, 0x7FFFFFFF, 2] := by decide +kernel

/-- VectorConversions: moves of 1, 2 and 4 registers in step and out of step; widening and narrowing by 2 and 4. -/
theorem witness_VectorConversions :
    let s := world ve { vec 0 0 0 with strmcfg := 1 }
    s.Issues [.v 124, .v 125, .v 126, .v 127] [⟨.w 4 0, 21⟩, ⟨.w 5 0, 21⟩, ⟨.w 6 0, 21⟩, ⟨.w 7 0, 21⟩] ∧
    s.Issues [.w 4, .w 5] [⟨.w 4 0, 20⟩, ⟨.w 5 0, 20⟩, ⟨.v 0 0, 21⟩, ⟨.v 1 0, 21⟩] ∧ s.Ready [] ∧ (∀ i ∈ s.issuer.inter, False) ∧
    s.Issues [s.issuer.destOf 8] [⟨.w 7 1, 21⟩] ∧ isMx 7 = true ∧ isMx 10 = true ∧ isMx 1 = false ∧ laneBits 0 = laneBits 1 ∧ laneBits 1 = 4 * laneBits 5 ∧
    laneBits 1 = 2 * laneBits 2 ∧ causeOf s (.vmovVw ⟨1, 0, 0, 1, 0, 0⟩) = (2, 0x05011401) ∧ causeOf s (.vmovWv ⟨1, 0, 0, 1, 0, 0⟩) = (2, 0x05001401) ∧
    causeOf s (.vwid (vf 1 2 0)) = (2, 0x05191401) := by decide +kernel

/-- R63, R67, R203, R209-R212, R222: conversions by hand; an INT8 −1, a BF16 1, FP32 1 + 2⁻⁸ (a tie) to BF16, a move and a permute. -/
theorem test_vector_conversions :
    let s := world ve { vec (lanes 32 [0x40200000, 0xC0600000, 0x4F000000]) (lanes 32 [130, 1, 2]) (lanes 32 [77, 88, 99]) with v := AMap.put [] 66 (lanes 32 [9, 8]) }
    vends s (.vcvt (vf 0 1 0)) 32 3 3 = [2, 0xFFFFFFFC, 0x7FFFFFFF] ∧ vends s (.vmovWv ⟨1, 0, 66, 2, 0, 0⟩) 32 2 2 = [9, 8] ∧
    ((((nxt (exec (.vmovVw ⟨0, 1, 127, 0, 0, 0⟩) s)).eng ve).settle 99).v.map (·.1)) = [66, 127] ∧ vends s (.vmovVw ⟨0, 1, 127, 0, 0, 0⟩) 32 3 0 = [0, 0, 0] ∧
    vends s (.vperm (vf 0 0 0)) 32 3 3 = [99, 0xC0600000, 0x4F000000] ∧
    vends s (.vsplat { vf 0 0 1 with sx := 0, imm := .short 3 }) 32 3 3 = [7, 10, 13] ∧ vends s (.vsplat { vf 2 2 0 with sx := 0, imm := .short (-8) }) 16 2 3 = [0xFFFF, 0xFFFF] ∧
    (let t := world ve (vec (lanes 8 [0xFF, 1, 2, 3, 0x80]) 0 0)
     vends t (.vwid { vf 0 5 0 with wd := 4 }) 32 2 4 = [0xFFFFFFFF, 0xFFFFFF80] ∧ vends t (.vwid { vf 0 5 0 with wd := 4 }) 32 2 5 = [1, 0]) ∧
    (let t := world ve (vec (lanes 32 [0x3F808000, 0x3F818000]) (lanes 32 [0x3F800000, 0xFF800000]) 0)
     vends t (.vnar { vf 2 1 0 with wa := 0 }) 16 4 3 = [0x3F80, 0x3F80, 0x3F82, 0xFF80]) := by decide +kernel

/-- R213, R214: 1.0 in 128 lanes sums to 128.0; integers wrap; the greatest unsigned; an ordered scan. -/
theorem test_vector_reductions :
    let s := world ve (vec (lanes 32 (List.replicate 128 0x3F800000)) 0 0)
    let t := world ve (vec (lanes 32 [0xFFFFFFFF, 5, 0x80000000, 7]) 0 0)
    vends s (.vrsum (vf 1 1 0)) 32 2 3 = [0x43000000, 0] ∧ vends t (.vrsum (vf 0 0 0)) 32 2 3 = [0x8000000B, 0] ∧ vends t (.vrmax (vf 0 0 0)) 32 2 3 = [7, 0] ∧
    vends t (.vrmax (vf 0 0 1)) 32 2 3 = [0xFFFFFFFF, 0] ∧ vends t (.vrmin (vf 0 0 0)) 32 2 3 = [0x80000000, 0] ∧ vends t (.vrmin (vf 0 0 1)) 32 2 3 = [0, 0] ∧
    vends t (.vscan (vf 0 0 0)) 32 5 3 = [0xFFFFFFFF, 4, 0x80000004, 0x8000000B, 0x8000000B] := by decide +kernel

/-- R216, and the example of R215: `vrcp.bf16` of 3.0 is 0x3EAB. -/
theorem test_vector_special :
    let s := world ve (vec (lanes 16 [0x4040, 0x8000, 0x7F80, 0xFF80, 0x7FC1]) 0 0)
    let r (i : LV → Instr) : List Nat := vends s (i (vf 2 2 0)) 16 5 3
    (r .vrcp) = [0x3EAB, 0xFF80, 0, 0x8000, 0x7FC0] ∧ (r .vexp2).drop 1 = [0x3F80, 0x7F80, 0, 0x7FC0] ∧ (r .vlog2).drop 1 = [0xFF80, 0x7F80, 0x7FC0, 0x7FC0] ∧
    (r .vrsqrt).drop 1 = [0xFF80, 0, 0x7FC0, 0x7FC0] ∧ (r .vsqrt).drop 1 = [0x8000, 0x7F80, 0x7FC0, 0x7FC0] ∧ (r .vtanh).drop 1 = [0x8000, 0x3F80, 0xBF80, 0x7FC0] ∧
    (r .vsigm).drop 1 = [0x3F00, 0x3F80, 0, 0x7FC0] ∧ (r .vsin).drop 1 = [0x8000, 0x7FC0, 0x7FC0, 0x7FC0] := by decide +kernel

/-- VectorDraws: a group at an even and a multiple-of-four register, and at others; VectorMemory below. -/
theorem witness_VectorDraws :
    let s := world ve { vec 0 0 0 with strmcfg := 1 }
    s.Issues (.w 0 :: [s.issuer.destOf 8, s.issuer.destOf 9]) [⟨.w 0 0, 20⟩, ⟨.w 3 0, 25⟩] ∧ s.Issues [.w 0, s.issuer.destOf 9, s.issuer.destOf 10] [] ∧
    s.Issues [s.issuer.destOf 8, s.issuer.destOf 9, s.issuer.destOf 10, s.issuer.destOf 11] [⟨.w 3 0, 25⟩] ∧
    causeOf s (.vskein { vf 0 0 0 with sx := 9 }) = (2, 0x05302302) ∧ causeOf s (.vdrop { vf 0 0 0 with sx := 10 }) = (2, 0x05332302) := by decide +kernel

/-- The example of 08: counter 0 of seed 42, stream 1, member 0 gives the deviate 934/1,024 and the fields 0xB42B, 0xDAAC, 0x0871, …,
of which the third is below 0x4000 (R81-R83, R217-R219). -/
theorem test_draws :
    let s := world ve (vec 0 0 0)
    let f (fd : BitVec 4) (mod : BitVec 4) : LV := { vf fd 0 mod with sx := 8 }
    vends s (.vskein (f 0 0)) 32 4 3 = [0xDAACB42B, 0x441D0871, 0x5334F5F4, 0xA8EAEFA7] ∧ vends s (.vgauss (f 1 0)) 32 1 3 = [0x3F698000] ∧
    vends s (.vunif (f 1 0)) 32 1 3 = [0x3F342B00] ∧
    vends s (.vdrop { f 1 1 with fs := 1 }) 32 8 3 = [0x3F800000, 0x3F800000, 0, 0x3F800000, 0x3F800000, 0x3F800000, 0x3F800000, 0x3F800000] ∧
    vends s (.vdrop { f 1 0 with fs := 1 }) 32 3 3 = [0, 0, 0] := by decide +kernel

/-- VectorMemory: own bytes at the first place, an aligned far address, element addresses of a gather; a bank format that cannot serve. -/
theorem witness_VectorMemory :
    let s := world ve { vec 0 0 0 with strmcfg := 1 }
    let e := s.issuer
    let m := s.vmove ve e 0x138 0 (e.ea 32 63 0)
    m = ⟨0, 512, none⟩ ∧ (e.ea 32 63 0).toNat % vAlign m = 0 ∧ s.ownAperture ve (e.ea 32 63 0) 512 = some (paOf 4 0x10000) ∧
    s.Unheld pathV 15 [(paOf 4 0x10000, 512)] ∧ s.poisoned (paOf 4 0x10000) 512 = false ∧ s.Unshadowed [(paOf 4 0x10000, 512)] ∧ s.Issues [e.destOf 32, e.destOf 63] [⟨.w 3 5, 25⟩] ∧
    s.Issues ([e.destOf 32, e.destOf 63] ++ [.w 2, .w 3]) [] ∧ isLocal (e.ea 34 63 0) = false ∧ s.acquiring e = false ∧
    (nxt (exec (.vld ⟨.short 0, 0, 0, 0, 63, 34, 3, 0, 0⟩) s)).accesses.length = 1 ∧ (nxt (exec (.vst ⟨.short 0, 0, 0, 0, 63, 34, 3, 0, 0⟩) s)).accesses.length = 1 ∧
    (nxt (exec (.vgath ⟨.short 0, 0, 0, 1, 63, 34, 3, 0, 0⟩) s)).accesses.length = 1 ∧ (nxt (exec (.vscat ⟨.short 0, 0, 0, 1, 63, 34, 3, 0, 0⟩) s)).accesses.length = 1 ∧
    faultsOf s (.vgath ⟨.short 2, 1, 0, 1, 63, 34, 3, 0, 0⟩) = [0x0104] ∧
    (let b := { s with clusters := s.clusters.put ve.cl { s.cluster ve.cl with bfmtlo := 0x7777777777777777 } }
     (b.vmove ve e 0x138 2 (e.ea 32 63 0)).bad.isSome = true ∧ (b.vmove ve e 0x139 2 (e.ea 32 63 0)).bad.isSome = true) := by decide +kernel

/-- R220, R221: a vector load and a store of the own scratchpad. -/
theorem test_vector_memory :
    let s := { world ve (vec 0 0 (lanes 32 [1, 0x80000002])) with mem := [(paOf 4 0x10000, 7), (paOf 4 0x10001, 1), (paOf 4 0x101FF, 0x80)] }
    vends s (.vld ⟨.short 0, 0, 0, 0, 63, 32, 3, 0, 0⟩) 32 2 3 = [0x0107, 0] ∧ (vends s (.vld ⟨.short 0, 0, 0, 0, 63, 32, 3, 0, 0⟩) 32 128 3).getLast? = some 0x80000000 ∧
    (nxt (exec (.vst ⟨.short 0, 0, 0, 0, 63, 32, 2, 0, 0⟩) s)).mem = [(paOf 4 0x10000, 1), (paOf 4 0x10004, 2), (paOf 4 0x10007, 0x80)] := by decide +kernel


/-! ## Witnesses and tests: matrix instructions -/

/-- A full tile with a tag and leading element bytes, the rest zero. -/
def tileOf (tag : BitVec 4) (size : Nat) (bs : List Byte) : Tile := ⟨true, tag, bs ++ List.replicate (size - bs.length) 0, [], 0, 0, none⟩

/-- The state of Example 2 of 09 on me0: t0 a BF16 tile with a[0][0] = 2, t1 a P24 tile with the bytes 00 3F E0 first, t2 a BF16 tile with
1, and the draw's registers s8-s11. -/
def matrix : State :=
  let s := world me { mapped with win := AMap.put (AMap.put (AMap.put (AMap.put [] (winIndex 0 8) 42) (winIndex 0 9) 1) (winIndex 0 10) 0) (winIndex 0 11) 64 }
  let k := s.cluster 0
  s.setCluster 0 { k with
    partw := 0x00000008140F0100
    tiles := k.tiles.set 0 (tileOf 2 8192 [0, 0x40]) |>.set 1 (tileOf 11 12288 [0, 0x3F, 0xE0]) |>.set 2 (tileOf 2 8192 [0x80, 0x3F]) }

/-- TileMoves: a place for a tile in the scratchpad with its rows 128 bytes apart, an empty and a full tile, a pitch of 65, a fill. -/
theorem witness_TileMoves :
    let s := { matrix with cur := me }
    let e := s.issuer
    let x : Fill := ⟨9, 5, tileOf 2 8192 [], 0, me, none⟩
    s.Issues [e.destOf 32, e.destOf 63, e.destOf 63] [] ∧ (e.ea 32 63 0).toNat % 64 = 0 ∧ rowBytes 2 = 128 ∧ deltaBytes 2 = 0 ∧
    s.ownScratch me (e.ea 32 63 0) 128 = some 0x10000 ∧ s.ownScratch me (e.ea 32 63 0 + 63 * 128) 128 = some 0x11F80 ∧
    s.banksAt 0x10000 128 = [(0, 0)] ∧ (s.tile me 3).full = false ∧ (s.tile me 0).full = true ∧ s.acquiring e = false ∧ s.poisoned 0x10000 128 = false ∧ s.Unshadowed [(0x10000, 128)] ∧
    (s.tile me 0).elems.length = 64 * 128 ∧ 0 < deltaBytes 7 ∧ s.ownScratch me (e.ea 32 63 0 + 64 * BitVec.ofNat 80 (rowBytes 7)) (deltaBytes 7) = some (0x10000 + 64 * rowBytes 7) ∧
    causeOf s (.tld ⟨.short 0, 2, 0, 5, 63, 32, 3, 0, 0⟩) = (2, 0x06002604) ∧
    (let k := s.cluster 0
     let t := s.setCluster 0 { k with fills := [x] }
     t.fillFree x = true ∧ x.ready ≤ t.ptick ∧ (t.cluster 0).tiles[(5 : Fin 16)].full = false ∧ ((nxt (exec (.tileFill 0 5) t)).cluster 0).tiles[(5 : Fin 16)].full = true) := by
  decide +kernel

/-- R228, R39: `tld` reads rows for a tile, which fills later; `tst` writes a tile back and empties it. -/
theorem test_tile_moves :
    let s := { matrix with mem := [(0x10000, 5), (0x11FFF, 6)] }
    let t := nxt (exec (.tld ⟨.short 0, 2, 0, 63, 63, 32, 3, 0, 0⟩) s)
    (t.cluster 0).fills.map (fun y => (y.tile, y.data.elems.headD 0, y.data.elems.getLastD 0)) = [(3, 5, 6)] ∧
    (engOf s (.tld ⟨.short 0, 2, 0, 63, 63, 32, 0, 0, 0⟩)).status = .blocked (.tile 0 false) 20 ∧
    (let u := nxt (exec (.tst ⟨.short 0, 0, 0, 63, 63, 32, 0, 0, 0⟩) s)
     u.mem = [(0x10001, 0x40)] ∧ (u.cluster 0).tiles[(0 : Fin 16)].full = false) ∧
    (engOf s (.tst ⟨.short 0, 0, 0, 63, 63, 32, 3, 0, 0⟩)).status = .blocked (.tile 3 true) 20 := by decide +kernel

/-- MultiplyResults: full tiles with their tags; an empty A and an empty B; the row places of `mmg` and `mmw`; a `.bc` form. -/
theorem witness_MultiplyResults :
    let w := AMap.put (AMap.put [] (winIndex 0 8) 0x0000008000010000) (winIndex 0 9) 0x0000080800010000
    let s := { matrix.setEng me { (matrix.eng me) with win := w, strmcfg := 1 } with cur := me }
    let e := s.issuer
    let k := s.cluster 0
    let t := s.setCluster 0 { k with tiles := k.tiles.set 3 (tileOf 2 8192 []) }
    s.Issues [] [] ∧ s.Issues [e.destOf 8] [] ∧ s.Issues [e.destOf 8, e.destOf 9, e.destOf 10, e.destOf 11] [] ∧ s.acquiring e = false ∧
    tileK 2 = 64 ∧ isMx 2 = false ∧ (s.tile me 0).full = true ∧ (s.tile me 0).tag = 2 ∧ (s.tile me 1).tag = 11 ∧ (s.tile me 4).full = false ∧
    ((56 : BitVec 10).getLsbD 3 = true ∧ (56 : BitVec 10).getLsbD 4 = true) ∧
    t.ownScratch me (localVa 0x10000) 128 = some 0x10000 ∧ t.poisoned 0x10000 128 = false ∧ bytesFld (t.tile me 3).elems 126 2 = 0 ∧
    t.ownScratch me (localVa (0x10000 + 63 * 128)) 128 = some (0x10000 + 63 * 128) ∧ t.banksAt (0x10000 + 63 * 128) 128 = [(0, 0)] ∧
    goesOn (exec (.mmg ⟨0, 2, 2, 8, 0, 0, 2, 3, 0, 0, 0⟩) t) = true ∧ (engOf t (.mmg ⟨0, 2, 2, 8, 0, 0, 2, 3, 0, 0, 0⟩)).nextIssue = 28 ∧
    (engOf t (.mmw ⟨0, 2, 2, 9, 0, 0, 2, 0, 0, 0, 0⟩)).nextIssue = 28 ∧
    (engOf s (.mma ⟨0, 2, 2, 0, 0, 0, 2, 4, 0, 0, 0⟩)).status = .blocked (.tile 4 true) 20 ∧
    (engOf s (.mma ⟨57, 2, 2, 0, 0, 0, 2, 0, 0, 0, 0⟩)).status = .blocked .group 20 := by decide +kernel

/-- Example 2 of 09: element (0, 0) of the three results, their ends at c + 20, and the tiles they leave empty. -/
theorem test_matrix_example :
    let mmp : Instr := .mmp ⟨1, 11, 2, 8, 0, 0, 1, 0, 0, 0, 0⟩
    let e := engOf matrix mmp
    e.z[0].getD 0 ⟨0, 0⟩ = ⟨0x3FBA0000, 0⟩ ∧ e.zLand[0] = 40 ∧ e.nextIssue = 28 ∧ ((nxt (exec mmp matrix)).tile me 1).full = false := by decide +kernel

/-- R231: t0 · t2ᵀ, both kept: 2 × 1 in element (0, 0). -/
theorem test_mma :
    (engOf matrix (.mma ⟨3, 2, 2, 0, 0, 0, 2, 0, 3, 0, 0⟩)).z[3].getD 0 ⟨0, 0⟩ = ⟨0x40000000, 0⟩ := by decide +kernel

/-- Two engines of a cluster held at a `.bc` multiply with the mask of both. -/
def group : State :=
  let e : Engine := { mapped with codeVa := localVa 0x20000, status := .blocked .group 20, bc := some ⟨0, 3, 2, 20, none⟩ }
  let k := matrix.cluster 0
  let s := ((matrix.setEng me e).setEng ⟨0, 0, 1⟩ e).setCluster 0 { k with tiles := k.tiles.set 0 { tileOf 2 8192 [0, 0x40] with since := 10 } }
  { s with ptick := 100, mem := writeBytes [] 0x20028 (codeBytes [0x10008201, 0x0E488000]) }

/-- BroadcastStarts: the two hold equal masks, their words decode to a multiply, cycle 42 is the latest they wait for, and they start in it. -/
theorem witness_BroadcastStarts :
    let s := group
    let m1 : EngId := ⟨0, 0, 1⟩
    let f : LM := ⟨57, 2, 2, 0, 0, 0, 2, 0, 0, 0, 0⟩
    s.heldBc me = some ⟨0, 3, 2, 20, none⟩ ∧ s.heldBc m1 = some ⟨0, 3, 2, 20, none⟩ ∧ s.heldBc ⟨0, 0, 2⟩ = none ∧ s.heldBc ⟨0, 0, 3⟩ = none ∧
    s.multiplyAt me = some (.mma, f) ∧ s.multiplyAt m1 = some (.mma, f) ∧ s.bcFault me 42 (s.tile me 2) = none ∧ s.bcFault m1 42 (s.tile me 2) = none ∧
    s.mrowFault me (s.mread me (s.engineAt me 42) .mma f (s.tile me 2)) = none ∧ s.mpoison me (s.mread me (s.engineAt me 42) .mma f (s.tile me 2)) = false ∧
    (s.tile me 2).full = true ∧ (s.tile me 0).full = true ∧ s.cycleNow 0 = 42 ∧ (s.dom 0).cycleOf (s.tile me 0).since + 1 ≤ 42 ∧ (s.dom 0).tickOf 42 ≤ s.ptick ∧ s.lowestNow me = true ∧
    (let t := s.setCluster 0 { s.cluster 0 with tiles := (s.cluster 0).tiles.set 2 Tile.reset }
     (t.tile me 2).full = false ∧ ((nxt (exec (.broadcastGroupStart 0 3) t)).eng me).status = .blocked .group 20) := by decide +kernel

/-- BroadcastStarts, its second part: me0 reads its tile of A after the start, and me1 once me0 has gone on. -/
theorem witness_BroadcastStarts_members :
    let s := nxt (exec (.broadcastGroupStart 0 3) group)
    let t := nxt (exec (.broadcastGroupStart 0 3) s)
    let m1 : EngId := ⟨0, 0, 1⟩
    let f : LM := ⟨57, 2, 2, 0, 0, 0, 2, 0, 0, 0, 0⟩
    let b := (((s.heldBc me).bind (·.bus)).map (·.tile)).getD Tile.reset
    let reads (s : State) (id : EngId) : Prop := (s.heldBc id).map (fun h => (h.mask, h.cycle, h.bus.map (·.cycle))) = some (3, 20, some 42) ∧ s.multiplyAt id = some (.mma, f) ∧ (s.tile id 0).full = true ∧
      s.lowestNow id = true ∧ (s.dom 0).cycleOf (s.tile id 0).since + 1 ≤ 42 ∧ (s.dom 0).tickOf 42 ≤ s.ptick ∧ s.bcFault id 42 b = none ∧
      s.mrowFault id (s.mread id (s.engineAt id 42) .mma f b) = none ∧ s.mpoison id (s.mread id (s.engineAt id 42) .mma f b) = false
    reads s me ∧ reads t m1 ∧ t.heldBc me = none := by decide +kernel

/-- R238: both engines issue again eight cycles after cycle 42, with one `.bc` instruction behind them. -/
theorem test_broadcast :
    let t := nxt (exec (.broadcastGroupStart 0 3) (nxt (exec (.broadcastGroupStart 0 3) (nxt (exec (.broadcastGroupStart 0 3) group)))))
    (t.eng me).nextIssue = 50 ∧ (t.eng ⟨0, 0, 1⟩).nextIssue = 50 ∧ (t.eng me).bcCount = 1 ∧ (t.eng ⟨0, 0, 1⟩).zLand[0] = 62 := by decide +kernel

/-- An engine with accumulators 0 and 1: element (0, 0) is 1.82421875, element (1, 0) is 1 + 2⁻⁸ with an error of −2⁻³⁰. -/
def summed : State :=
  { matrix.setEng me { (matrix.eng me) with z := live.z.set 0 [(0, ⟨0x3FE98000, 0⟩), (64, ⟨0x3F808000, 0xB0800000⟩)], zLand := live.zLand.set 1 30 } with cur := me }

/-- AccumulatorResults: an accumulator that has landed and one that lands in cycle 30, the first and last save slots and one past them. -/
theorem witness_AccumulatorResults :
    let s := { summed.setEng me { (summed.eng me) with strmcfg := 1 } with cur := me }
    let e := s.issuer
    s.cur.kind.isSome = true ∧ s.fenced (s.eng me) = false ∧ s.issueAt < e.zLand[1] ∧ e.zLand[0] ≤ s.issueAt ∧ s.Issues [] [] ∧
    s.Issues [e.destOf 32, e.destOf 63, e.destOf 63] [] ∧ (e.ea 32 63 0).toNat % 64 = 0 ∧ s.acquiring e = false ∧
    s.ownScratch me (e.ea 32 63 0) 256 = some 0x10000 ∧ s.ownScratch me (e.ea 32 63 0 + BitVec.ofNat 80 (63 * 256)) 256 = some (0x10000 + 63 * 256) ∧
    s.banksAt 0x10000 256 = [(0, 0)] ∧ s.Unshadowed ((List.range 64).map fun r => (0x10000 + r * 256, 256)) ∧ 2 * ((s.cluster 0).partw.toNat / 2 ^ 24 % 256 - 16) = 8 ∧ s.poisoned (s.savePa me 7) 0x8000 = false ∧
    causeOf s (.zsave ⟨.short 8, 0, 0, 0, 0, 0, 0, 0, 0⟩) = (2, 0x06123404) ∧ causeOf s (.zload ⟨.short 8, 0, 0, 0, 0, 0, 0, 0, 0⟩) = (2, 0x06133404) ∧
    goesOn (exec (.zout ⟨.short 0, 0, 0, 63, 63, 32, 1, 0, 0⟩) s) = true ∧ (engOf s (.zout ⟨.short 0, 0, 0, 63, 63, 32, 1, 0, 0⟩)).nextIssue = 21 ∧
    (engOf s (.zout ⟨.short 0, 0, 0, 63, 63, 32, 1, 0, 0⟩)).pc = 10 := by decide +kernel

/-- R239, R240, and Example 2 of 09: `zout` to BF16 rounds 1.82421875 to 0x3FEA (a tie to even), and 1 + 2⁻⁸ − 2⁻³⁰ down to 1; `zsave` and `zload` keep the pairs; a
save slot can be poisoned once it has been written (R32). -/
theorem test_accumulators :
    let b := nxt (exec (.zout ⟨.short 0, 1, 0, 63, 63, 32, 0, 0, 0⟩) summed)
    let v := nxt (exec (.zsave ⟨.short 7, 0, 0, 0, 0, 0, 0, 0, 0⟩) summed)
    natOf (b.bytes 0x10000 2) = 0x3FEA ∧ natOf (b.bytes 0x10080 2) = 0x3F80 ∧
    (engOf summed (.zclr ⟨.short 0, 0, 0, 0, 0, 0, 0, 0, 0⟩)).z[0] = [] ∧
    (engOf v (.zload ⟨.short 7, 0, 0, 0, 0, 0, 2, 0, 0⟩)).z[2] = [(0, ⟨0x3FE98000, 0⟩), (64, ⟨0x3F808000, 0xB0800000⟩)] ∧
    (summed.poisonUnit (summed.savePa me 7)).poison = [] ∧ (v.poisonUnit (v.savePa me 7)).poison = [v.savePa me 7] := by decide +kernel

/-- Two matrix engines of one team in tick 48: me0, with a follow-on multiply handed to it, and me1 at a relocatable group of its own. -/
def pair : State :=
  let f : Follow := ⟨0x0048800010208201, ce, 30⟩
  let e0 : Engine := { mapped with codeVa := localVa 0x20000, follow := [f] }
  let e1 : Engine := { mapped with codeVa := localVa 0x30000, pc := 12, groups := [⟨12, 16, false, false⟩] }
  { (matrix.setEng me e0).setEng ⟨0, 0, 1⟩ e1 with ptick := 48, cur := me, mem := writeBytes [] 0x20028 (codeBytes [0x000018C1, 0]) }

/-- FollowAndSteal: the follow-on is due with its tiles full, or one of them empty; a steal of a group not begun. -/
theorem witness_FollowAndSteal :
    let s := pair
    let e := s.eng me
    let f : LM := ⟨1, 2, 2, 0, 0, 0, 2, 0, 2, 0, 0⟩
    (decodeFor .me [0x10208201, 0x00488000]).toOption = some (.mma f) ∧ multiplyOf (.mma f) = some (.mma, f) ∧ e.awaits ((MForm.mma.regs f).map e.destOf) = false ∧
    (s.dom 0).tickOf (max (max e.mtxUntil ((s.dom 0).cycleFrom 30)) (s.cycleNow 0)) ≤ s.ptick ∧ (s.tile me 0).full = true ∧ (s.tile me 2).full = true ∧
    firstFault (MForm.mma.operandFaults f (e.settle 20) 0 ++ s.mfmtFaults me .mma f (s.mread me (e.settle 20) .mma f (s.tile me 2))) = none ∧
    s.mpoison me (s.mread me (e.settle 20) .mma f (s.tile me 2)) = false ∧
    (let t := s.setEng me { e with follow := [] }
     t.engineDue me (t.eng me) = true ∧ (t.eng me).lend = none ∧ (match t.found me .me (t.eng me) with | .inst (.notify _) => true | _ => false) = true ∧
     t.victim me = some ⟨0, 0, 1⟩ ∧ (t.engineAt ⟨0, 0, 1⟩ 20).status = .running ∧ (t.engineAt ⟨0, 0, 1⟩ 20).pc = 12) := by decide +kernel

/-- R257, R55: the follow-on issues and the stream goes on eight cycles later; the thief runs the group with its sibling's registers. -/
theorem test_follow_steal :
    let t := nxt (exec (.followOnIssue me) pair)
    (t.eng me).follow = [] ∧ (t.eng me).pc = 10 ∧ (t.eng me).nextIssue = 28 ∧ (t.eng me).zLand[2] = 40 ∧
    (let u := nxt (exec (.stealRelocatableGroup me ⟨0, 0, 1⟩) (pair.setEng me { (pair.eng me) with follow := [] }))
     (u.eng me).pc = 12 ∧ (u.eng ⟨0, 0, 1⟩).pc = 16 ∧ (u.eng me).codeVa = localVa 0x30000) := by decide +kernel


/-! ## Witnesses and tests: transfers -/

/-- A shape record of one dimension of 64 FP32 elements at a virtual address, of tenant 7 with both rights (R105). -/
def shapeBytes (va : Nat) : List Byte :=
  bytesOf 10 va ++ bytesOf 1 1 ++ bytesOf 1 1 ++ bytesOf 2 0xFFFF ++ bytesOf 2 3 ++ bytesOf 2 7 ++ bytesOf 6 0 ++
    bytesOf 4 64 ++ bytesOf 4 1 ++ bytesOf 4 1 ++ bytesOf 4 1 ++ bytesOf 24 0

/-- A copy engine with shape 0 at the start of its scratchpad and shape 1 a granule on; s8-s10 hold the descriptor of a copy of 16
elements from the former to the latter, both from element 0 (R247). -/
def copier : State :=
  let e : Engine := { mapped with win := AMap.put [] (winIndex 0 8) 0x0001001000010000, a := mapped.a.set 5 0xFF000000000000010038 |>.set 6 0xFF00000000000001003C }
  { world ce e with mem := writeBytes (writeBytes (writeBytes [] 0 (shapeBytes 0xFF000000000000010000)) 64 (shapeBytes 0xFF000000000000020000)) 0x10000 [1, 2, 3, 4, 5] }

/-- `cpy` with its completion word at a5 and the value 5, on channel 1. -/
def cpyWord : LG := ⟨.short 0, 1, 8, 1, 8, 37, 20, 0, 0⟩

/-- TransfersIssue: a copy without fault; a channel with sixteen transfers, and one that walks a chain; a misaligned completion word; each
kind of fault of a copy; a chain head; a generation built or not. -/
theorem witness_TransfersIssue :
    let s := { copier.setEng ce { (copier.eng ce) with strmcfg := 1 } with cur := ce }
    let e := s.issuer
    let t := e.copyOf cpyWord .cpy s (some (e.val80 37))
    let q := { s.setEng ce { e with chans := e.chans.set 1 { e.chans[1] with chain := .waitOwn 64 } } with cur := ce }
    s.Issues ([e.destOf 37, e.destOf 1] ++ [e.destOf 8, e.destOf 9, e.destOf 10]) (s.result 2 20 (BitVec.ofNat 80 e.chans[1].xnext.toNat)) ∧
    e.chans[1].out.length < 16 ∧ e.chans[1].chain = .idle ∧ (e.val80 37).toNat % 8 = 0 ∧ (e.val80 38).toNat % 8 ≠ 0 ∧ s.acquiring e = false ∧
    s.xferIllegal ce t = none ∧ s.xferShape ce e t = none ∧ s.xferFormat ce e 0x280 t = none ∧ s.poisoned (s.shapePa 0) 64 = false ∧ s.poisoned (s.shapePa 1) 64 = false ∧
    t.hasDst = true ∧ followOk 0 = false ∧ followOk 0x0048800010208201 = true ∧ q.Ready [e.destOf 37] ∧ q.issuer.chans[1].chain ≠ .idle ∧
    s.Issues [e.destOf 34] [] ∧ (e.val80 34).toNat % 64 = 0 ∧ (e.val80 37).toNat % 64 ≠ 0 ∧ s.Issues [] [] ∧ ((s.die 0).ckSet 0).building.isNone = true ∧
    s.putting 0 0 = false ∧ s.unreleased ce e 20 (max 4 (s.scopeOf e.seq 8)) = false := by decide +kernel

theorem witness_TransfersIssue_faults :
    let s := copier
    let e := s.issuer
    s.Ready [e.destOf 37, e.destOf 1, e.destOf 8, e.destOf 9, e.destOf 10] ∧ causeOf s (.cpy { cpyWord with scope := 15 }) = (2, 0x06802C09) ∧
    causeOf s (.cpy { cpyWord with b := 16 }) = (2, 0x0680FF04) ∧ causeOf s (.cpyf { cpyWord with b := 8, mod := 1 }) = (2, 0x0685FF0E) ∧
    (causeOf { s with mem := clearBytes s.mem 0 64 } (.cpy cpyWord)) = (4, 0) ∧
    faultsOf s (.cpy { cpyWord with a := 38 }) = [0x0104] ∧ (engOf s (.cpy cpyWord)).chans[1].out.length = 1 ∧
    (let full := s.setEng ce { s.eng ce with chans := (s.eng ce).chans.set 1 { (s.eng ce).chans[1] with chain := .waitOwn 64 } }
     (engOf full (.cpy cpyWord)).status = .blocked (.channel 1) 20 ∧ (engOf full (.chst { cpyWord with a := 34 })).status = .blocked (.channel 1) 20) ∧
    faultsOf s (.chst { cpyWord with a := 37 }) = [0x0104] ∧ (engOf s (.chst { cpyWord with a := 34 })).chans[1].chain = .waitOwn 0x40000000 := by decide +kernel

/-- R245, R246, R250: the copy is number 1 of its channel, whose XNEXT it moves on and whose ID lands after two cycles. -/
theorem test_copy_issue :
    let e := engOf copier (.cpy cpyWord)
    e.chans[1].xnext = 2 ∧ (e.settle 99).val 20 = 1 ∧ e.pc = 12 ∧
    (e.chans[1].out.map fun x => (x.id, x.d0, x.cword, x.cval)) = [(1, 0x0001001000010000, some 0xFF000000000000010038, 5)] := by decide +kernel

/-- The same copy due, its number 1 and not moved, with a `cwr` of number 2 behind it; and a record of a chain at 0x40000000. -/
def xfer (form : TForm) (id uid : Nat) (cword : Option Addr) (moved : Bool) : Transfer :=
  { id := id, form := form, d0 := 0x0001001000010000, d1 := 0, d2 := 0, tile := false, cword := cword, cval := 77, cls := 0, scope := 0, ckset := 0, base := 0, len := 0,
    follow := 0, target := 0, record := none, due := 0, uid := uid, pc := 10, begun := moved, got := [], wrote := [], counts := [], exts := [], moved := moved, waits := [] }

def copying (out : List Transfer) : State :=
  copier.setEng ce { copier.eng ce with chans := (copier.eng ce).chans.set 1 { (copier.eng ce).chans[1] with xnext := 3, out := out } }

/-- The copy with the first `r` of its eight units read, and the units `w` written. -/
def partly (r : Nat) (w : List Nat) : Transfer :=
  { xfer .cpy 1 5 none false with
    begun := true, wrote := w
    got := (List.range r).map fun k => (k, if k = 0 then [1, 2, 3, 4, 5, 0, 0, 0] else List.replicate 8 0) }

/-- What a copy of number 1 may do next, with the units it has. -/
def nextSteps (x : Transfer) (y : List Transfer) : Option (List XferStep × Nat × Nat) :=
  let s := copying (x :: y)
  match s.moves ce (s.eng ce) x with
  | .ok m => some (s.xferSteps ce 1 (s.eng ce) x m, (m.unread x).length, (m.unwritten x).length)
  | .error _ => none

/-- TransfersComplete, its payload: a copy with one unit to read, its line poisoned or not; with one unit to write; a `cwr` that starts. -/
theorem witness_TransfersComplete_payload :
    let x := partly 7 []
    let w := partly 8 [1, 2, 3, 4, 5, 6, 7]
    let c := xfer .cwr 1 5 (some 0xFF000000000000010040) false
    let s := copying [x]
    let t := copying [w]
    let e := s.eng ce
    let whole (s : State) (x : Transfer) : Bool := match s.moves ce (s.eng ce) x with
      | .ok m => (match m.src, m.dst with
        | some sp, [(r, dp)] => r == ce && (x.runRead sp 0).length == 64 && dp.elems.length == 1 && m.puts[0]? == some (0, ⟨0, 0, 0x20000, 8⟩) && m.units[7]? == some ⟨0, 56, 0x10038, 8⟩
        | _, _ => false)
      | .error _ => false
    x ∈ (e.chans[(1 : Fin 4)]).out ∧ (∀ u ∈ (e.chans[(1 : Fin 4)]).out, u.id = 1 → u = x) ∧ s.xferGoes ce e.chans[1] x = true ∧ (copying [c]).xferGoes ce ((copying [c]).eng ce).chans[1] c = true ∧
    nextSteps x [] = some ([.read 7], 1, 8) ∧ nextSteps w [] = some ([.write 0], 0, 1) ∧ whole s x = true ∧ whole t w = true ∧ s.poisoned 0x10038 8 = false ∧
    ({ s with poison := [0x10038] } : State).poisoned 0x10038 8 = true ∧ x.record = none ∧
    (s.shape 0).fmt % 16 = 1 ∧ (s.shape 1).fmt % 16 = 1 ∧ isMx 1 = false ∧ elemBits 1 = 32 ∧ x.rows = 1 ∧ x.cols * 4 = 64 ∧ t.frozen 1 1 0x20000 = false := by decide +kernel

/-- TransfersComplete, the end of a transfer: one without and with a completion word, and a `cwr` that still waits for number 1. -/
theorem witness_TransfersComplete_end :
    let x := xfer .cpy 1 5 none true
    let w := xfer .cpy 1 5 (some 0xFF000000000000010040) true
    let y := xfer .cwr 2 6 none true
    let s := copying [x, y]
    let t := copying [w]
    x.due ≤ s.ptick ∧ s.faulted ce = false ∧ s.dieUp 0 = true ∧ (s.eng ce).chans[1].doneIds = [] ∧ s.mayComplete ce 1 (s.eng ce) x [] [] = true ∧
    t.mayComplete ce 1 (t.eng ce) w [(0x10040, 8)] [] = true ∧ t.frozen 1 1 0x10040 = false ∧
    (match t.reachRun ce (t.eng ce) rWrite (0xFF000000000000010040, 8) with | .ok p => p == [(0x10040, 8)] | _ => false) = true ∧
    (s.eng ce).chans[1].xdone.toNat + 1 ≠ y.id ∧ nxt (exec (.transferComplete ce 1 2) s) = s := by decide +kernel

/-- R135, R137, R245, R250, R109, R259: the last of the copy's units arrives; the completion of number 1 raises XDONE to 1; a `cwr` writes its word and
raises it to 2, and not before. -/
theorem test_copy_completes :
    let s := copying [partly 8 [1, 2, 3, 4, 5, 6, 7], xfer .cwr 2 6 (some 0xFF000000000000010040) true]
    let t := nxt (exec (.transferComplete ce 1 1) s)
    let u := nxt (exec (.transferComplete ce 1 1) t)
    let v := nxt (exec (.transferComplete ce 1 2) u)
    t.bytes 0x20000 6 = [1, 2, 3, 4, 5, 0] ∧ (t.eng ce).chans[1].xdone = 0 ∧ (u.eng ce).chans[1].xdone = 1 ∧ (u.eng ce).chans[1].out.length = 1 ∧
    (nxt (exec (.transferComplete ce 1 2) t)).bytes 0x10040 1 = [0] ∧ (v.eng ce).chans[1].xdone = 2 ∧ v.bytes 0x10040 8 = bytesOf 8 77 := by decide +kernel

/-- R112, R113: a chain's record at the start of granule 1: its own bit, the form `cpy`, no next record. -/
def chained (flags : Nat) : State :=
  let s := copying []
  { s.setEng ce { s.eng ce with chans := (s.eng ce).chans.set 1 { (s.eng ce).chans[1] with chain := .waitOwn 0xFF000000000000030000 } } with
    mem := writeBytes s.mem 0x30000 (bytesOf 10 0 ++ bytesOf 2 flags ++ bytesOf 4 0 ++ bytesOf 16 0 ++ bytesOf 8 77 ++ bytesOf 8 0x0001001000010000 ++ bytesOf 16 0) }

/-- The record's transfer, moved, completes. -/
def chainOver : State :=
  let t := nxt (exec (.chainRecordStart ce 1) (chained 1))
  let k := (t.eng ce).chans[1]
  nxt (exec (.transferComplete ce 1 3) (t.setEng ce { t.eng ce with chans := (t.eng ce).chans.set 1 { k with out := k.out.map fun (x : Transfer) => { x with moved := true, due := 0 } } }))

/-- TransfersComplete, a chain: the record's transfer, moved, may complete, and the record's last one; a record that may be issued, one not the
channel's own, and one that is refused. -/
theorem witness_TransfersComplete_chain :
    let s := chained 1
    let e := s.eng ce
    let rcd : Addr := 0xFF000000000000030000
    let t := nxt (exec (.chainRecordStart ce 1) s)
    let k := (t.eng ce).chans[1]
    let u := t.setEng ce { t.eng ce with chans := (t.eng ce).chans.set 1 { k with out := k.out.map fun (x : Transfer) => { x with moved := true, due := 0 } } }
    let x := ((u.eng ce).chans[1]).out.headD (xfer .cpy 0 0 none false)
    let past := u.setEng ce { u.eng ce with chans := (u.eng ce).chans.set 1 (((u.eng ce).chans[1]).complete x.id) }
    let at_ (s : State) (need : Rights) (va : Addr) (n : Nat) (p : List (Nat × Nat)) : Bool := match s.reachRun ce (s.eng ce) need (va, n) with | .ok q => q == p | _ => false
    let b := (s.viewAll (.eng ce) [(0x30000, 64)]).flatten
    let r := recordTransfer e.chans[1] rcd b
    e.chans[1].chain = .waitOwn rcd ∧ at_ s rRead rcd 64 [(0x30000, 64)] = true ∧ s.poisoned 0x30000 64 = false ∧ s.dieUp 0 = true ∧ s.faulted ce = false ∧ e.chans[1].out.length < 16 ∧
    e.status ≠ .stopped ∧ e.isPaused = false ∧ s.admits ce false s.ptick [(0x30000, 64)] = true ∧ s.ownHeld [(0x30000, 64)] e.chans[1].chainScope = false ∧
    bytesFld b 10 1 % 2 = 1 ∧ bytesFld b 12 1 ≤ 4 ∧ s.recordStatus ce e r.1 r.2 = none ∧ s.recordStatus ce e r.1 false = some 1 ∧
    x.record = some rcd ∧ x.cword = none ∧ x.form = .cpy ∧ at_ u rRead rcd 16 [(0x30000, 16)] = true ∧ u.mayComplete ce 1 (u.eng ce) x [] [(0x30000, 16)] = true ∧
    at_ past rRead rcd 10 [(0x30000, 10)] = true ∧ at_ past rWrite (rcd + 10) 2 [(0x3000A, 2)] = true ∧ u.frozen 1 1 0x3000A = false ∧ u.poisoned 0x30000 10 = false ∧ natOf (u.view (.eng ce) 0x30000 10) % 64 = 0 := by decide +kernel

theorem test_chain :
    let s := chained 1
    let t := nxt (exec (.chainRecordStart ce 1) s)
    (t.eng ce).chans[1].out.map (fun x => (x.id, x.d0.toNat, x.cval.toNat)) = [(3, 0x0001001000010000, 77)] ∧
    (t.eng ce).chans[1].out.map (fun x => (x.form, x.cword)) = [(.cpy, none)] ∧ (t.eng ce).chans[1].out.map (·.record) = [some 0xFF000000000000030000] ∧
    (t.eng ce).chans[1].chain = .running 0xFF000000000000030000 3 ∧ ((nxt (exec (.chainRecordStart ce 1) (chained 0))).eng ce).chans[1].out.length = 0 ∧
    ((chainOver.eng ce).chans[1]).chain = .idle ∧ chainOver.bytes 0x3000A 2 = [0, 0] := by decide +kernel

/-- The home instructions of a buffer engine: a generation is opened, sealed, and numbered 1 (R274). -/
theorem test_checkpoint_set :
    let s := world be mapped
    let t := { nxt (exec (.ckopen ⟨.short 5, 0, 0, 0, 0, 0, 8, 0, 0⟩) s) with cur := be }
    let u := nxt (exec (.ckseal ⟨.short 5, 0, 8, 0, 0, 0, 9, 0, 0⟩) t)
    ((t.die 6).ckSet 5).building.isSome = true ∧ ((u.die 6).ckSet 5).current.map (·.number) = some 1 ∧ ((u.die 6).ckSet 5).building.isNone = true ∧
    u.replies.map (·.writes) = [[.win (winIndex 0 8) 1], [.win (winIndex 0 9) 1]] ∧
    goesOn (exec (.cwr { cpyWord with a := 34 }) (world ce mapped)) = true ∧ goesOn (exec (.hflush ⟨.short 0, 0, 8, 0, 63, 34, 3, 0, 0⟩) s) = true ∧
    goesOn (exec (.ckget ⟨.short 5, 0, 8, 0, 0, 63, 3, 0, 0⟩) u) = true := by decide +kernel


/-! ## Witnesses and tests: the switch engine -/

/-- A switch engine whose a0 is at the buffer of its quadrant and a2 at its descriptor of the group of package 0's first two quadrants;
its code is at 0x40000800, where the word at its pc is the given instruction (a loop counter's worth of BF16 in s6: 2 elements). -/
def standsAt (i : Instr) : State :=
  let s := world ke { mapped with codeVa := 0x40000800, a := mapped.a.set 0 0x40000200 |>.set 1 0x40000300, strmcfg := 1 }
  let e := { s.eng ke with a := mapped.a.set 0 0x40000300 |>.set 1 0x40000200 |>.set 2 0x40000040 }
  let s := (s.setDie 17 { s.die 17 with ranges := (s.die 8).ranges }).setEng ⟨17, 0, 0⟩ { e with codeVa := 0x40000800 }
  let at_ (off : Nat) (bs : List Byte) (m : List Host.Cell) : List Host.Cell := writeBytes m (paOf 6 (0x10000000000 + off)) bs
  { s with
    ptick := 100
    mem := at_ 0x828 (codeBytes (encode i)) (at_ 0x300 [0xFF, 9, 5, 0xC0] (at_ 0x200 [3, 7, 0x80, 0x3F] (at_ 0x40 (bytesOf 8 2 ++ bytesOf 8 1 ++ bytesOf 2 0 ++ bytesOf 2 0x1000) (at_ 0 (bytesOf 8 2 ++ bytesOf 8 0 ++ bytesOf 2 0 ++ bytesOf 2 0x1000) [])))) }

/-- A collective's fields: the buffer at a0, the count s6, the group at a2. -/
def operand (imm : Int) (d : BitVec 6) : LG := ⟨.short imm, 0, 0, 34, 6, 32, d, 0, 0⟩
def syncs : LG := ⟨.short 0, 0, 0, 34, 0, 0, 0, 0, 0⟩

/-- The bytes a collective leaves in the two buffers, and whether its issuer has gone on and the other member has it complete. -/
def leaves (i : Instr) : List Byte × List Byte × Bool :=
  let t := nxt (exec i (standsAt i))
  (t.bytes (paOf 6 0x10000000200) 4, t.bytes (paOf 6 0x10000000300) 4, (t.eng ke).pc == 12 && (t.eng ⟨17, 0, 0⟩).collected)

/-- An SD whose table lets tenant 7 write to its ports (R325). -/
def open8 (s : State) : State := s.setDie 8 { s.die 8 with acc := [⟨7, 0xF, 0, 0xFFFF, 0⟩] }

/-- SwitchResults: a packet of eight bytes, from an SD whose table lets it out and from one whose table does not; a descriptor and a launch table not full and full; and the collectives: complete, held
for a member that does not stand there, and performed for two, whose buffers do not touch. -/
theorem witness_SwitchResults :
    let i : Instr := .kred (operand 1 0)
    let s := standsAt i
    let e := s.issuer
    let pas (off n : Nat) : List (Nat × Nat) := [(paOf 6 (0x10000000000 + off), n)]
    let reaches (need : Rights) (va : Addr) (n : Nat) (p : List (Nat × Nat)) : Bool := match s.takeReach ke e pathK 0 need va n with | .ok q => q == p | _ => false
    let c : Call := ⟨.red false 1, 2, 0x40000200, 0x40000000, 0, 2, 0⟩
    let none_ := { s.setEng ⟨17, 0, 0⟩ Engine.reset with cur := ke }
    let here := (s.members c [(0, 0), (0, 1)]).getD []
    s.Issues [e.destOf 32, e.destOf 34, e.destOf 6] [] ∧ s.acquiring e = false ∧ s.unreleased ke e s.issueAt 5 = false ∧
    reaches rRead 0x40000200 8 (pas 0x200 8) = true ∧ s.Issues [e.destOf 32, e.destOf 6] [] ∧ reaches rRead 0x40000200 64 (pas 0x200 64) = true ∧
    s.Issues [e.destOf 6] [] ∧ (s.die 8).armed.length < 256 ∧ s.Issues ([32, 6, 34].map e.destOf) [] ∧ e.collected = false ∧
    (e.val80 34).toNat % 64 = 0 ∧ reaches rRead 0x40000000 16 (pas 0 16) = true ∧ reaches rRead 0x40000000 20 (pas 0 20) = true ∧
    reaches (rRead ||| rWrite) 0x40000200 4 (pas 0x200 4) = true ∧ s.poisoned (paOf 6 0x10000000200) 4 = false ∧
    groupMembers (s.viewAll (.eng ke) (pas 0 20)).flatten = [(0, 0), (0, 1)] ∧ (none_.members c [(0, 0), (0, 1)]).isNone = true ∧
    (match (open8 s).sendPort 8 e.master, s.sendPort 8 e.master with | .ok 0, .error _ => true | _, _ => false) = true ∧
    (match s.portFor e [(0, 0), (0, 1)] with | .ok _ => true | _ => false) = true ∧
    here.map (fun m => (m.rank, m.pas)) = [(0, pas 0x200 4), (1, pas 0x300 4)] ∧
    (∀ m ∈ here, s.frozen m.eng.seq m.eng.team (paOf 6 0x10000000200) = false) := by decide +kernel

/-- R145, R275, R276: the sums, the parts in rank order, the root's bytes, and no bytes, for the members of both quadrants. -/
theorem test_collectives :
    leaves (.kred (operand 0 0)) = ([2, 0x10, 0x80, 0x3F], [2, 0x10, 5, 0xC0], true) ∧
    leaves (.kred (operand 1 0)) = ([2, 0x11, 0x85, 0xFF], [2, 0x11, 0x85, 0xFF], true) ∧
    leaves (.kgath (operand 0 0)) = ([3, 7, 5, 0xC0], [3, 7, 5, 0xC0], true) ∧
    leaves (.kbcast (operand 0 63)) = ([3, 7, 0x80, 0x3F], [3, 7, 5, 0xC0], true) ∧
    leaves (.ksync syncs) = ([3, 7, 0x80, 0x3F], [0xFF, 9, 5, 0xC0], true) := by decide +kernel

/-- The sum of BF16 elements, 1 − 2.078125 = −1.078125 in the upper. -/
theorem test_kred_bf16 : (leaves (.kred (operand 5 0))).1 = [2, 0x0A, 0x8A, 0xBF] := by decide +kernel

/-- R277, R278: a message of eight bytes to package 5 with tag 9, numbered from 0; a launch table's entry put in its tag's place and
taken away. -/
theorem test_msend_karm :
    let s := open8 (world ke { mapped with glob := mapped.glob.set 6 0x00050009 |>.set 1 8 })
    let k : LG := ⟨.short 0, 0, 0, 0, 0, 34, 6, 0, 0⟩
    let t := nxt (exec (.karm k) s)
    ((nxt (exec (.msend { k with x := 1 }) s)).outbox.map fun o => match o with | .pod _ m => (m.number, m.msg.dst.toNat, m.msg.tag.toNat) | _ => (0, 0, 0)) = [(0, 5, 9)] ∧
    ((nxt (exec (.msend { k with x := 1 }) s)).outbox.map fun o => match o with | .pod _ m => m.msg.payload.length | _ => 0) = [8] ∧
    (t.die 8).armed.map (fun x => (x.tag.toNat, x.desc.length)) = [(9, 64)] ∧
    (nxt (exec (.karm k) { t.setEng ke (s.eng ke) with cur := ke } )).die 8 = t.die 8 ∧
    ((nxt (exec (.kdisarm { k with a := 0 }) { t with cur := ke })).die 8).armed.length = 0 := by decide +kernel

/-! ## Witnesses and tests: gather engines and the lattice -/

/-- Example 1 of 11: the image at 0x40000000, base0 0x40001000 − 0x800, the tokens 40, 40 at 0x40000600; ge0's code has `gload`, `gfeed`
and `gquiet` from its pc on. -/
def histogram : State :=
  let win := AMap.put [] (winIndex 0 10) 2
  let s := world ge { mapped with codeVa := 0x40000900, a := mapped.a.set 0 0x40000000 |>.set 1 0x40000600, win := win }
  let at_ (off : Nat) (bs : List Byte) (m : List Host.Cell) : List Host.Cell := writeBytes m (paOf 6 (0x10000000000 + off)) bs
  let code := codeBytes [0x8000C001, 0x3F, 0x84B0C041, 0x2BF, 0x00C0C101, 0]
  { s with
    launches := [launched]
    mem := at_ 0x928 code (at_ 0x600 (bytesOf 8 40 ++ bytesOf 8 40) (at_ 0x80 (codeBytes [0xB8600003, 0x8D800110, 0xBC000007, 0xB0400000]) (at_ 16 (bytesOf 8 0x40000800) []))) }

/-- After the load; after the first token has entered, in cycle 22; `k` ticks on, the words `ws` fire. -/
def loaded : State := nxt (exec (.gload ⟨.short 0, 0, 0, 0, 63, 32, 0, 0, 0⟩) histogram)
def ticked (s : State) (n : Nat) : State := { s with ptick := n, cur := ge }
def fed : State := nxt (execFeedTokenEntry ge (ticked (nxt (exec (.gfeed ⟨.short 0, 0, 0, 10, 63, 33, 11, 0, 0⟩) { loaded with cur := ge })) 52))
/-- w0 in cycle 23, w3 in cycle 24, and the second token in cycle 25 (ticks 55, 57 and 60 of the clock at reset). -/
def issued : State := nxt (execMoveFire 5 0 0 (ticked fed 55))
def joined : State := nxt (execMoveFire 5 0 3 (ticked issued 57))
def fedTwice : State := nxt (execFeedTokenEntry ge (ticked joined 60))

/-- R293-R297, R304: Example 1 of 11, up to its cycle 3. -/
theorem test_histogram :
    let cell (s : State) : LCell := cellOf (s.die 5).lattice.cells 0
    (loaded.eng ge).pc = 12 ∧ (cell loaded).moves.take 5 = [0xB8600003, 0x8D800110, 0xBC000007, 0xB0400000, 0] ∧ (cell loaded).ports.length = 0 ∧
    (cell fed).port 1 = some ⟨40, 1⟩ ∧ (cell issued).port 1 = some ⟨40, 1⟩ ∧ (cell issued).kept = [(0, 1)] ∧
    ((issued.die 5).lattice.sill.map fun x => (x.stamp, x.cell, x.what)) = [(1, 0, .load 0x40000828 (paOf 6 0x10000000828) 8 false false)] ∧
    (cell joined).port 1 = none ∧ (cell joined).port (latchKey 0x16) = some ⟨40, 1⟩ ∧ (cell joined).kept.length = 0 ∧
    (cell fedTwice).port 1 = some ⟨40, 2⟩ ∧ (fedTwice.eng ge).pc = 14 ∧ ((fedTwice.eng ge).settle 1000).val 11 = 2 := by decide +kernel

/-- GatherResults, instructions and events of the edges: a queue with none, one and two records for two; a graph there and not, with an image or without;
a token that may enter. -/
theorem witness_GatherResults_edges :
    let q (l : List EdgeRec) : State := { (loaded.setLattice 5 { loaded.lattice 5 with edges := (loaded.lattice 5).edges.set 0 l }) with cur := ge }
    let e := (q []).issuer
    let f : LG := ⟨.short 0, 0, 0, 10, 63, 33, 3, 0, 0⟩
    let r : EdgeRec := ⟨40, 1, 2⟩
    let reaches (s : State) (va : Addr) (n off : Nat) : Bool := match s.takeReach ge e pathG 0 rWrite va n with | .ok p => p == [(paOf 6 (0x10000000000 + off), n)] | _ => false
    (q []).Issues [e.destOf 33, e.destOf 63, e.destOf 10] [] ∧ (e.val 10).toNat = 2 ∧ (q []).acquiring e = false ∧ (e.ea 33 63 0).toNat % 16 = 0 ∧ e.gtake = none ∧
    reaches (q [r, r]) 0x40000600 32 0x600 = true ∧ reaches (q [r]) 0x40000600 16 0x600 = true ∧ (q []).frozen 1 1 (paOf 6 0x10000000600) = false ∧
    (engOf (q [r]) (.gtake f)).gtake = some (1, 0x40000600, 2) ∧ (engOf (q []) (.gtake f)).pc = 12 ∧ (engOf (q [r, r]) (.gtake f)).pc = 14 ∧
    (q []).Issues [] [] ∧ ((q []).lattice 5).graphs.find 3 = none ∧ ((q []).lattice 5).graphs.find 0 ≠ none ∧ (e.ea 32 63 0).toNat % 64 = 0 ∧
    (let s := ticked (nxt (exec (.gfeed ⟨.short 0, 0, 0, 10, 63, 33, 11, 0, 0⟩) { loaded with cur := ge })) 52
     let l := s.lattice 5
     (s.eng ge).status = .blocked (.feed 0 0x40000600 2 (e.destOf 11)) 21 ∧ (match s.found ge .ge (s.eng ge) with | .inst (.gfeed _) => true | _ => false) = true ∧
     s.teamStateOf (s.eng ge) = some .running ∧ l.cells.find (edgeCell 0 0) ≠ none ∧ (cellOf l.start (edgeCell 0 0)).port 1 = none ∧ (cellOf l.cells (edgeCell 0 0)).port 1 = none ∧
     l.log.length < 1024 ∧ (∀ y ∈ l.log, y.entered = true) ∧ 21 < l.cycle ∧ l.fired = [] ∧
     (match s.takeReach ge (s.eng ge) pathG 0 rRead 0x40000600 8 with | .ok p => p == [(paOf 6 0x10000000600, 8)] | _ => false) = true) := by decide +kernel

/-- ge0 in cycle 25 at an instruction that waits for the lattice. -/
def atQuiet (i : Instr) (b : Block) : State :=
  { loaded.setEng ge { loaded.eng ge with pc := 14, status := .blocked b 21 } with
    ptick := 60, cur := ge, mem := writeBytes loaded.mem (paOf 6 0x10000000938) (codeBytes (encode i)) }

/-- GatherResults, the waits for the lattice: `gquiet` while it is quiet and not, `gunload` without and with an image. -/
theorem witness_GatherResults_quiet :
    let s := atQuiet (.gquiet ⟨.short 0, 0, 0, 0, 0, 0, 12, 0, 0⟩) (.quiet (.win (winIndex 0 12)) none none)
    let u (a : BitVec 6) : State := atQuiet (.gunload ⟨.short 0, 0, 0, 0, 63, a, 0, 0, 0⟩) (.quiet .nil (some 0) (if a = 63 then none else some 0x40000000))
    let isUnload (s : State) : Bool := match s.found ge .ge (s.eng ge) with | .inst (.gunload _) => true | _ => false
    let busy := s.setLattice 5 { s.lattice 5 with log := [⟨1, 0, 0, 0, 0, true⟩] }
    (match s.found ge .ge (s.eng ge) with | .inst (.gquiet _) => true | _ => false) = true ∧ (s.die 5).lattice.log = [] ∧ (s.die 5).lattice.sill = [] ∧ (s.die 5).lattice.commit = none ∧
    (nxt (exec (.latticeQuietRetire ge) s)).eng ge ≠ s.eng ge ∧ nxt (exec (.latticeQuietRetire ge) busy) = busy ∧
    isUnload (u 63) = true ∧ isUnload (u 32) = true ∧ (((u 32).lattice 5).graphs.find 0).map (fun g => (g.w, g.h)) = some (0, 0) ∧
    (match (u 32).takeReach ge ((u 32).eng ge) pathG 0 rWrite 0x40000100 65 with | .ok p => p == [(paOf 6 0x10000000100, 65)] | _ => false) = true ∧
    (u 32).frozen 1 1 (paOf 6 0x10000000100) = false ∧ ((nxt (exec (.latticeQuietRetire ge) (u 32))).lattice 5).graphs.length = 0 := by decide +kernel

/-- GatherResults: an image of one cell, stamped and not; graph 8; a resident graph; feeds of 65,537 tokens, of 33 lanes, of none and of two. -/
theorem witness_GatherResults :
    let s := histogram
    let e := s.issuer
    let reaches (need : Rights) (va : Addr) (n : Nat) (off : Nat) : Bool := match s.takeReach ge e pathG 0 need va n with | .ok q => q == [(paOf 6 (0x10000000000 + off), n)] | _ => false
    let g := graphOf ((s.viewAll (.eng ge) [(paOf 6 0x10000000000, 128)]).flatten)
    s.Issues [e.destOf 32, e.destOf 63] [] ∧ (s.lattice 5).graphs.find 0 = none ∧ s.acquiring e = false ∧ (e.ea 32 63 0).toNat % 64 = 0 ∧ reaches rRead 0x40000000 128 0 = true ∧
    g.x0 + g.w ≤ 31 ∧ g.y0 + g.h ≤ 31 ∧ g.count = 1 ∧ reaches rRead 0x40000000 384 0 = true ∧
    ((recordMoves ((((s.viewAll (.eng ge) [(paOf 6 0x10000000000, 384)]).flatten).drop 128).take 256)).all fun w => !g.refuses (g.cell 0) w) = true ∧
    (g.sinks.all fun k => !k.refused) = true ∧ (s.lattice 5).log.length < 1024 ∧
    causeOf s (.gload ⟨.short 0, 0, 0, 0, 63, 32, 8, 0, 0⟩) = (2, 0x07001404) ∧ causeOf { loaded with cur := ge } (.gload ⟨.short 0, 0, 0, 0, 63, 32, 0, 0, 0⟩) = (2, 0x07001406) ∧
    (let f : LG := ⟨.short 0, 0, 0, 10, 63, 33, 11, 0, 0⟩
     let l (x : Nat) : State := { loaded.setEng ge { loaded.eng ge with win := AMap.put [] (winIndex 0 10) (BitVec.ofNat 64 x) } with cur := ge }
     (l 2).Issues [e.destOf 33, e.destOf 63, e.destOf 10] [] ∧ causeOf (l 65537) (.gfeed f) = (2, 0x07012604) ∧ causeOf (l 0x1F01000000000002) (.gfeed f) = (2, 0x07012604) ∧
     causeOf (l 0x0001000000000002) (.gfeed f) = (2, 0x07012606) ∧ (engOf (l 0) (.gfeed f)).status = .running ∧ (nxt (exec (.gfeed f) (l 0))).replies.length = 1 ∧
     (l 2).acquiring e = false ∧ ((l 2).lattice 5).cells.find (edgeCell 0 0) ≠ none ∧ (engOf (l 2) (.gfeed f)).status = .blocked (.feed 0 0x40000600 2 (e.destOf 11)) 21) := by decide +kernel

/-- A lattice whose north edge queue holds two records. -/
def queued (n : Nat) : State :=
  let s := world ge { mapped with win := AMap.put [] (winIndex 0 10) (BitVec.ofNat 64 n) }
  s.setLattice 5 { s.lattice 5 with edges := (s.lattice 5).edges.set 0 [⟨7, 3, 31⟩, ⟨8, 4, 0⟩], cycle := 1000 }

theorem test_gtake :
    let f : LG := ⟨.short 0, 0, 0, 10, 63, 34, 0, 0, 0⟩
    let t := nxt (exec (.gtake f) (queued 1))
    let u := nxt (exec (.gtake f) (queued 3))
    (t.eng ge).pc = 12 ∧ natOf (t.bytes (paOf 6 0x10000000000) 16) = 7 + 3 * 2 ^ 64 + 31 * 2 ^ 96 ∧ (t.die 5).lattice.edges[(0 : Fin 4)] = [⟨8, 4, 0⟩] ∧
    (u.eng ge).pc = 10 ∧ (u.eng ge).gtake = some (2, 0x40000000, 3) ∧ (u.die 5).lattice.edges[(0 : Fin 4)] = [] ∧
    nxt (exec (.gtake f) { u.setEng ge ((queued 1).eng ge) with cur := ge }) = { u.setEng ge ((queued 1).eng ge) with cur := ge }.held ∧
    causeOf (queued 0) (.gtake f) = (2, 0x07022604) := by decide +kernel

/-- R305, R304: `gquiet` waits for the log to be empty, answers the squash counter and clears it; `gunload` removes the graph. -/
theorem test_gquiet_gunload :
    let q : LG := ⟨.short 0, 0, 0, 0, 0, 0, 12, 0, 0⟩
    let u : LG := ⟨.short 0, 0, 0, 0, 63, 63, 0, 0, 0⟩
    let code (i : Instr) (s : State) : State := { s with mem := writeBytes s.mem (paOf 6 0x10000000928) (codeBytes (encode i)), cur := ge }
    let s := code (.gquiet q) (histogram.setLattice 5 { loaded.lattice 5 with squash := 9, cycle := 1000 })
    let w := nxt (exec (.gquiet q) s)
    let t := nxt (exec (.latticeQuietRetire ge) w)
    let busy := w.setLattice 5 { w.lattice 5 with log := [⟨1, 40, 0, 0, 0, true⟩] }
    let v := code (.gunload u) (histogram.setLattice 5 { loaded.lattice 5 with cycle := 1000 })
    let x := nxt (exec (.latticeQuietRetire ge) (nxt (exec (.gunload u) v)))
    (w.eng ge).status = .blocked (.quiet (.win 4) none none) 20 ∧ (t.eng ge).status = .running ∧ ((t.eng ge).settle 1000).val 12 = 9 ∧ (t.die 5).lattice.squash = 0 ∧
    nxt (exec (.latticeQuietRetire ge) busy) = { busy with cur := ge } ∧ (x.die 5).lattice.cells.length = 0 ∧ (x.die 5).lattice.graphs.length = 0 ∧ (x.eng ge).pc = 12 ∧
    causeOf histogram (.gunload u) = (2, 0x07031406) ∧ (engOf v (.gunload { u with a := 32 })).status = .blocked (.quiet .nil (some 0) (some 0x40000000)) 20 := by decide +kernel

/-- A move word (R284). -/
def mv (dst src keep lit : Nat) : Word32 := BitVec.ofNat 32 (dst * 2 ^ 27 + src * 2 ^ 22 + keep * 2 ^ 21 + lit)

/-- The moves of the cell (0, 0) below. -/
def moves : List Word32 :=
  [mv 8 2 0 0, mv 8 1 0 0, mv 15 1 0 0, mv 9 1 0 0, mv 2 1 1 0, mv 1 1 0 0, mv 17 1 0 0xFF10, mv 17 1 0 0xFF15, mv 17 1 0 1, mv 23 1 0 7]

/-- A lattice in cycle 1000 with a token of stamp 2 at link-in N, register 1 full, an ALU operand of stamp `a` and a MEM operand; stamps 1, 2
and 3 in the log, the settled ones as given. -/
def lat (a : BitVec 32) (settled : List (BitVec 32)) (sill : List SillEntry) : Lattice :=
  let c : LCell := ⟨0, moves, [(1, ⟨40, 2⟩), (9, ⟨7, 2⟩), (0x30, ⟨5, a⟩), (0x36, ⟨8, 2⟩)], [], []⟩
  { Lattice.reset with
    graphs := [(0, { graphOf [] with base0 := 0x40000800 })]
    cells := [(0, c)], start := [(0, c)], cycle := 1000, settled := settled, sill := sill, nextSill := 50
    log := [⟨1, 9, 0, 3, 0, true⟩, ⟨2, 40, 0, 0, 0, true⟩, ⟨3, 41, 0, 1, 0, true⟩] }

/-- The package whose lattice it is. -/
def grid (l : Lattice) : State := (world ge mapped).setLattice 5 l

/-- The cell after a word has fired. -/
def fired (l : Lattice) (i : Nat) : Lattice := ((nxt (execMoveFire 5 0 i (grid l))).die 5).lattice

/-- The stamps a lattice knows of, at the start of its cycle. -/
def abouts (l : Lattice) : List (BitVec 32) := l.log.map (·.stamp) ++ l.start.flatMap fun q => q.2.ports.map (·.2.stamp) ++ q.2.ops.map (·.stamp)

/-- The moves of LatticeEvents: each clause's word in the cell, at the ends of its ranges, its stamps joined and not. -/
theorem witness_LatticeEvents_moves :
    let l := lat 1 [1] []
    let c := cellOf l.start 0
    let s := grid l
    s.latticeRuns 5 = true ∧ (abouts l).all (fun y => !earlier y 2 || [1].contains y) = true ∧ (abouts l).any (fun y => earlier y 2) = true ∧ latest 2 [1] = 2 ∧
    (s.lattice 5).cycle = 1000 ∧ cellOf l.cells 0 = c ∧ (c.ports.map (·.1)).Nodup ∧ c.port 2 = none ∧ c.port 1 = some ⟨40, 2⟩ ∧ l.fired = [] ∧ c.kept = [] ∧ c.ops = [] ∧
    moves.map (fun w => (moveOf w).dst) = [8, 8, 15, 9, 2, 1, 17, 17, 17, 23] ∧ moves.map (fun w => (moveOf w).src) = [2, 1, 1, 1, 1, 1, 1, 1, 1, 1] ∧
    (moves.map (fun w => (moveOf w).lit) == [0, 0, 0, 0, 0, 0, 0xFF10, 0xFF15, 1, 7]) = true ∧
    (moves.all fun w => (moveOf w).gmode == 0) = true ∧ c.port 8 = none ∧ c.port 15 = none ∧ c.port 9 ≠ none ∧ linkTo 0 2 = some 1 ∧ (cellOf l.start 1).port (opposite 2) = none ∧
    linkTo 0 1 = none ∧ l.sill.length < 256 ∧ (∀ x ∈ l.log, x.squashes < 255) ∧ c.port 0x10 = none ∧ c.port (latchKey 0x10) = some ⟨5, 1⟩ ∧
    c.port (latchKey 0x16) = some ⟨8, 2⟩ ∧ (l.graphs.find 0).map (fun g => g.base0 + zext80 8) = some 0x40000808 ∧
    (match s.latticePa 5 rWrite 0x40000808 8 with | .ok p => p | .error _ => 0) = paOf 6 0x10000000808 := by decide +kernel

/-- R285-R287, R291, R292, R297: what each word does with the token 40 of stamp 2. -/
theorem test_moves :
    let l := lat 1 [1] []
    let port (i k p : Nat) : Option Token := (cellOf (fired l i).cells k).port p
    fired l 0 = l ∧ port 1 0 8 = some ⟨40, 2⟩ ∧ port 1 0 1 = none ∧ port 2 0 15 = some ⟨40, 2⟩ ∧ fired l 3 = l ∧ port 4 1 4 = some ⟨40, 2⟩ ∧ port 4 0 1 = some ⟨40, 2⟩ ∧
    port 5 0 1 = none ∧ (fired l 5).sill.map (fun x => (x.stamp, x.what)) = [(2, .edge 0 0 40)] ∧
    ((cellOf (fired l 6).cells 0).ops.map fun o => (o.results, o.ready)) = [([(16, 39)], 1001)] ∧
    ((cellOf (fired l 7).cells 0).ops.map fun o => o.results) = [[(16, 40)]] ∧
    ((cellOf (fired l 8).cells 0).ops.map fun o => (o.stamp, o.results)) = [(2, [(16, 0xFFFFFFFFFFFFFFDD)])] ∧ port 8 0 0x30 = none ∧
    fired (lat 1 [] []) 8 = lat 1 [] [] := by decide +kernel

/-- A performed load of stamp 3 that overlaps 0x808, an open one of stamp 2, stores of stamps 1 and 2. -/
def loadAt (stamp : BitVec 32) (off : Nat) (done : Bool) : SillEntry :=
  ⟨40 + stamp.toNat, stamp, 3, 0, .load (BitVec.ofNat 80 (0x40000000 + off)) (paOf 6 (0x10000000000 + off)) 8 false done, none, 0⟩
def storeAt (stamp : BitVec 32) (off : Nat) : SillEntry :=
  ⟨20 + stamp.toNat, stamp, 4, 0, .store (BitVec.ofNat 80 (0x40000000 + off)) (paOf 6 (0x10000000000 + off)) [1, 2, 3, 4, 5, 6, 7, 0x80], none, 5⟩

/-- R299, R300: a store of stamp 2 squashes stamp 3, whose load has read a byte of it, and not one that has read beside it. -/
theorem test_store_squashes :
    let l := fired (lat 2 [1] [loadAt 3 0x808 true]) 9
    let m := fired (lat 2 [1] [loadAt 3 0x810 true]) 9
    l.sill.map (fun x => (x.stamp, x.what)) = [(2, .store 0x40000808 (paOf 6 0x10000000808) [40, 0, 0, 0, 0, 0, 0, 0])] ∧
    l.log.map (fun x => (x.stamp, x.entered, x.squashes)) = [(1, true, 0), (2, true, 0), (3, false, 1)] ∧ l.squash = 1 ∧ m.squash = 0 ∧ m.sill.length = 2 := by
  decide +kernel

/-- A lattice whose cell 3 has a load of stamp 2 open. -/
def loading (sill : List SillEntry) : State :=
  let l := lat 2 [1] (loadAt 2 0x808 false :: sill)
  let c : LCell := ⟨0, [], [], [], [⟨0x17, 2, [], 0, some 42⟩]⟩
  { grid { l with cells := l.cells.put 3 c, start := l.start.put 3 c } with ptick := 10, mem := writeBytes [] (paOf 6 0x10000000808) [9, 1] }

/-- The sill and the log of LatticeEvents: an open load of no other's, its own's and an earlier stamp's store; a settled stamp at the head with
one store and one edge output, and one not settled; a stamp to enter again. -/
theorem witness_LatticeEvents_sill :
    let x := loadAt 2 0x808 false
    let s := loading []
    let l := s.lattice 5
    let c := lat 1 [1] [storeAt 1 0x808, { storeAt 1 0 with id := 30, what := .edge 3 31 6 }]
    let z := { lat 1 [1] [] with log := [⟨3, 41, 0, 1, 1, false⟩] }
    l.loadOf 3 = some x ∧ x.due ≤ s.ptick ∧ (∀ q ∈ l.log, q.edge ≠ 4) ∧ s.admits (s.latticeEngine 5) false x.due [(paOf 6 0x10000000808, 8)] = true ∧ s.latticeRuns 5 = true ∧ (grid c).latticeRuns 5 = true ∧
    ([storeAt 1 0x808, storeAt 2 0x808].all fun q => q.due != l.cycle) = true ∧ (c.sill.all fun q => !earlier q.stamp 1) = true ∧ (c.log.all fun q => !earlier q.stamp 1) = true ∧
    (abouts c).all (fun y => !earlier y 1) = true ∧ (grid c).latticeShadowed 5 [(paOf 6 0x10000000808, 8)] = false ∧
    (cellOf l.cells 3).ops.map (·.sill) = [some 42] ∧ (∀ q ∈ l.log, q.squashes < 256) ∧ s.poisoned (paOf 6 0x10000000808) 8 = false ∧ s.latticeEngine 5 = ge ∧
    ((loading [storeAt 2 0x808]).lattice 5).sill.filter (fun q => q.isStore && decide (q.due < 1000) && q.meets (paOf 6 0x10000000808) 8) = [storeAt 2 0x808] ∧
    ((loading [storeAt 1 0x808]).lattice 5).sill.filter (fun q => q.isStore && decide (q.due < 1000) && q.meets (paOf 6 0x10000000808) 8) = [storeAt 1 0x808] ∧
    earlier 1 2 = true ∧ c.commit = none ∧ (1 : BitVec 32) ∈ c.settled ∧ c.freeAt ≤ c.cycle ∧ c.sill.length ≤ 4 ∧ (c.sill.map (·.id)).Nodup ∧
    (grid c).admits ge false (grid c).ptick [(paOf 6 0x10000000808, 8)] = true ∧ (grid c).frozen 1 1 (paOf 6 0x10000000808) = false ∧ (∀ e : Fin 4, (c.edges[e]).length = 0) ∧
    (1024, 3) ∉ z.fired ∧ (cellOf z.start (edgeCell 0 1)).port 1 = none := by decide +kernel

/-- R299, R300, R302: the load reads memory, its own stamp's store, or waits; the head commits; a squashed stamp enters again. -/
theorem test_sill :
    let perform (sill : List SillEntry) : List (List (Nat × Word)) :=
      (cellOf ((nxt (exec (.memLoadPerform 5 3) (loading sill))).die 5).lattice.cells 3).ops.map (·.results)
    let c := lat 1 [1] [storeAt 1 0x808, { storeAt 1 0 with id := 30, what := .edge 3 31 6 }]
    let t := nxt (exec (.stampCommit 5) (grid c))
    let z := { lat 1 [1] [] with log := [⟨3, 41, 0, 1, 1, false⟩] }
    let u := ((nxt (exec (.squashReentry 5 3) (grid z))).die 5).lattice
    perform [] = [[(0x16, 0x0109)]] ∧ perform [storeAt 2 0x808] = [[(0x16, 0x8007060504030201)]] ∧ perform [storeAt 1 0x808] = [[]] ∧
    t.bytes (paOf 6 0x10000000808) 8 = [1, 2, 3, 4, 5, 6, 7, 0x80] ∧ (t.die 5).lattice.edges[(3 : Fin 4)] = [⟨6, 1, 31⟩] ∧
    (t.die 5).lattice.log.map (·.stamp) = [2, 3] ∧ (t.die 5).lattice.sill.length = 0 ∧
    nxt (exec (.stampCommit 5) (grid (lat 1 [] []))) = grid (lat 1 [] []) ∧ (cellOf u.cells 1).port 1 = some ⟨41, 3⟩ ∧ u.log.map (·.entered) = [true] := by
  decide +kernel

/-! ## Witnesses and tests: what lets an engine go on, and sections -/

/-- A matrix engine that waits since cycle 20, in tick 100 of the clock at reset, cycle 42. -/
def waiting (why : Block) : State := { world me { mapped with status := .blocked why 20 } with ptick := 100 }

/-- Slots whose MIX bytes say failed. -/
def failed (slots : List Nat) (s : State) : State := { s with mix := s.mix.mapIdx fun i b => if slots.contains i then 0x10 else b }

/-- WaitsEnd: for each kind of wait, a state in which it ends and one in which it does not. -/
theorem witness_WaitsEnd :
    let win (f : BitVec 64) (s : State) : State := s.setDie 0 { s.die 0 with windows := AMap.put [] 3 { Window.reset with full := f, takePos := 1 } }
    let bar (b : Byte) (s : State) : State := { s with mem := writeBytes [] (paOf 6 (0x10000000000 + 10)) [b] }
    let up (i : Instr) (s : State) : Status × Nat := ((nxt (exec i s)).eng me |>.status, ((nxt (exec i s)).eng me).nextIssue)
    let t := waiting (.tile 5 false)
    let k := waiting (.takeEnds 3 21)
    let u := (nxt (exec (.takeRetire me) (win 2 k))).die 0 |>.window 3
    up (.tileWaitResume me) t = (.running, 43) ∧ nxt (exec (.tileWaitResume me) (waiting (.tile 5 true))) = waiting (.tile 5 true) ∧
    up (.takeRetire me) (win 2 (waiting (.take 3))) = (.running, 42) ∧ (up (.takeRetire me) (win 1 (waiting (.take 3)))).1 = .blocked (.take 3) 20 ∧
    (k.dom 0).tickOf 21 ≤ k.ptick ∧ (k.dom 0).cycleOf 100 = 42 ∧ up (.takeRetire me) (win 2 k) = (.running, 42) ∧ u.full = 0 ∧
    ((nxt (exec (.takeRetire me) (win 2 k))).eng me).consumed = true ∧ (up (.takeRetire me) { k with ptick := 49 }).1 = .blocked (.takeEnds 3 21) 20 ∧
    k.poisoned (paOf 6 0x10000000000) 32 = false ∧ k.slotGone 6 = false ∧ k.dieUp 6 = true ∧ (failed [6] k).slotGone (paSlot (paOf 6 0x10000000000)) = true ∧
    (nxt (exec (.waitReread me) (failed [6] (waiting (.wait (some (paOf 6 0x10000000000)) 0x40000000 0 0 4))))).faults.map (·.cause) = [0x0103] ∧ up (.barWaitReread me) (bar 1 (waiting (.barrier (some (paOf 6 0x10000000000)) 0x40000000 3 4))) = (.running, 42) ∧
    (up (.barWaitReread me) (bar 2 (waiting (.barrier (some (paOf 6 0x10000000000)) 0x40000000 3 4)))).1 = .blocked (.barrier (some (paOf 6 0x10000000000)) 0x40000000 3 4) 20 ∧
    up (.xwaitRetire me) (waiting (.xwait ce 1 0)) = (.running, 42) ∧ (up (.xwaitRetire me) (waiting (.xwait ce 1 1))).1 = .blocked (.xwait ce 1 1) 20 ∧
    up (.channelSlotResume me) (waiting (.channel 3)) = (.running, 42) ∧
    (let f := waiting (.channel 3)
     let g := f.setEng me { f.eng me with chans := (f.eng me).chans.set 3 { (f.eng me).chans[3] with chain := .waitOwn 64 } }
     (up (.channelSlotResume me) g).1 = .blocked (.channel 3) 20) := by decide +kernel

/-- An engine at the end of section 1, where two words stand, its partner 0 the next engine of its cluster, with its own SRET `r`. -/
def atHeader (w0 w1 : Word32) (r : BitVec 14) : State :=
  let e : Engine := { mapped with codeVa := localVa 0x20000, pc := 100, secpart := 0x8001 }
  let s := (world me e).setEng ⟨0, 0, 1⟩ { Engine.reset with sret := r }
  { s with ptick := 100, launches := [launched], mem := writeBytes [] 0x20190 (codeBytes [w0, w1]) }

/-- The header of a section of 40 words and its number. -/
def header (num : Nat) : Word32 := BitVec.ofNat 32 (40 * 2 ^ 16 + num * 4 + 3)

/-- SectionResults: a header due with its words readable; partners retired and not; each refusal; an engine not due; a section that can
retire and one that cannot; a notify with its release over. -/
theorem witness_SectionResults :
    let s := atHeader (header 2) 1 1
    let e := s.reachEnd me (s.eng me)
    let u := { s with cur := me }
    e.pc.toNat = (u.bounds me e).2 ∧ u.engineDue me e = true ∧ e.region = none ∧ chkInh e.chksb = false ∧ u.teamStateOf e = some .running ∧
    (match u.codeWord me e 100, u.codeWord me e 101 with | .ok a, .ok b => a == header 2 && b == 1 | _, _ => false) = true ∧
    (header 2).toNat % 4 = 3 ∧ (header 2).toNat / 4 % 2 ^ 14 = 2 ∧ e.secpart.toNat % 2 ^ 16 / 2 ^ 15 = 1 ∧
    causeOf (atHeader (header 3) 0 0) (.sectionHeaderPass me) = (0x000A, 2 * 65536 + 3) ∧ causeOf (atHeader 0 0 0) (.sectionHeaderPass me) = (0x000A, 2 * 65536 + 2) ∧
    (let t := s.setEng me { s.eng me with region := (engOf (world me mapped) (.idbeg zeroG)).region }; causeOf { t with cur := me } (.sectionHeaderPass me) = (2, 0x0C00FF07)) ∧
    (let t := s.setEng me { s.eng me with pc := 99 }; nxt (exec (.sectionHeaderPass me) t) = { t with cur := me }) := by decide +kernel

/-- R35-R37: past the header; at it while the partner has not retired section 1; past one with no dependency. -/
theorem test_section_header :
    let t := (nxt (exec (.sectionHeaderPass me) (atHeader (header 2) 1 1))).eng me
    let u := (nxt (exec (.sectionHeaderPass me) (atHeader (header 2) 1 0))).eng me
    t.secNum = 2 ∧ t.secStart = 102 ∧ t.secEnd = 142 ∧ t.pc = 102 ∧ t.status = .running ∧ u.status = .blocked .header 20 ∧ u.pc = 100 ∧ u.secNum = 1 ∧
    ((nxt (exec (.sectionHeaderPass me) (atHeader (header 2) 0 0))).eng me).secNum = 2 := by decide +kernel

/-- SectionEventsComplete: a header without partners once its section has retired; a section that waits for nothing, with and without landings to
come; a notify with nothing left. -/
theorem witness_SectionEventsComplete :
    let s0 := atHeader (header 2) 0 0
    let s := s0.setEng me { s0.eng me with secpart := 0, sret := 1, fbNow := { FbEntry.reset with secNum := 1 } }
    let e := s.eng me
    let u := { s with cur := me }
    let n := (s.setEng me { e with status := .notifying 4 }).eng me
    e.status = .running ∧ e.follow = [] ∧ (s.dom 0).tickOf e.nextIssue ≤ s.ptick ∧ u.teamStateOf e = some .running ∧ e.sret = e.secNum ∧
    e.pc.toNat = (u.bounds me e).2 ∧ e.region = none ∧ chkInh e.chksb = false ∧ e.secpart = 0 ∧ e.fbNow.secNum = e.secNum ∧
    (match u.codeWord me e 100, u.codeWord me e 101 with | .ok a, .ok b => a == header 2 && b == 0 | _, _ => false) = true ∧ (header 2).toNat % 4 = 3 ∧
    s.cycleNow 0 = 42 ∧ e.groups = [] ∧ e.deadl = none ∧ ((nxt (exec (.sectionRetire me) (s.setEng me { e with sret := 0, secPend := [⟨1, 42, []⟩] }))).eng me).sret = 1 ∧
    ((nxt (exec (.sectionRetire me) (s.setEng me { e with sret := 0, secPend := [⟨1, 43, []⟩] }))).eng me).sret = 0 ∧
    n.secPend = [] ∧ s.accesses = [] ∧ s.pushes = [] ∧ s.pieces = [] ∧ s.replies = [] ∧ n.transfers = [] ∧ n.stores = [] ∧ n.mtxUntil ≤ 42 ∧ (∀ q : Fin 8, n.zLand[q] ≤ 42) := by decide +kernel

/-- R37, R52: a section retires once its access has gone; a notify once nothing is left. -/
theorem test_section_retire :
    let s := atHeader (header 2) 0 0
    let p : SecPend := ⟨1, 40, [5]⟩
    let t := s.setEng me { s.eng me with secPend := [p] }
    let busy := { t with accesses := [access 5 me pathS [(paOf 6 0x10000000000, 8)] (.store [1, 0, 0, 0, 0, 0, 0, 0])] }
    let n := s.setEng me { s.eng me with status := .notifying 4 }
    ((nxt (exec (.sectionRetire me) t)).eng me).sret = 1 ∧ ((nxt (exec (.sectionRetire me) t)).eng me).secPend.length = 0 ∧ nxt (exec (.sectionRetire me) busy) = busy ∧
    ((nxt (exec (.sectionRetire me) n)).eng me).status = .finished ∧
    (let r := { n with accesses := busy.accesses, nextId := 9 }; nxt (exec (.sectionRetire me) r) = r) := by decide +kernel

/-! ## Witnesses and tests: arrivals, images and the host -/

/-- A reply with 77 for s4 of me0, due at tick 5. -/
def answer : Reply := ⟨3, me, 0, [.glob 4 77], 5⟩
def answered (t : Nat) (r : Reply) : State := { at_ me { live with inter := [(.glob 4, 3), (.glob 5, 8)] } with replies := [r], ptick := t }

/-- An entry of `n` adds of 5, 7 and so on at 0x10000, joined last at tick 3. -/
def entryOf (n : Nat) (sealedBy : List EngId) : MergeEntry :=
  ⟨9, 0x10000, ⟨.add, 3, false, false, true, 5, 0, 0⟩, (List.range n).map fun k => ⟨k, ⟨0, 0, k⟩, BitVec.ofNat 64 (5 + 2 * k), 3⟩, 3, sealedBy⟩

def merging (t : Nat) (m : MergeEntry) : State :=
  let s := world me mapped
  { s.setDie 0 { s.die 0 with merge := [m] } with ptick := t }

/-- MD slot 0 at an incarnation, two responses of incarnation 0 on their way to engines whose team has stopped. -/
def strayed (incarn : BitVec 16) : State := State.reset.setDie 0 { Die.reset with incarn := incarn, strays := [(0, 5), (0, 0)] }

/-- R374, R400: a response that nobody waits for is counted only when its die has been reset since. -/
theorem test_strays :
    let one (s : State) : Die := (nxt (exec (.staleResponseDiscard 0 0) s)).die 0
    let t := (answered 5 answer).strand fun id => id == me
    one (strayed 1) = { (strayed 1).die 0 with strays := [(0, 5)], stale := 1 } ∧ one (strayed 0) = { (strayed 0).die 0 with strays := [(0, 5)] } ∧
    (strayed 0).replies.length = 0 ∧ (strayed 1).dieUp 0 = true ∧ ((strayed 1).die 0).strays.find? (fun y => y.1 == 0 && decide (y.2 ≤ 0)) = some (0, 0) ∧
    t.replies.length = 0 ∧ (t.die 0).strays = [(0, 5)] := by decide +kernel

/-- R24, R45: the first tick at which an entry is sent and the last at which it is not; a full one, and one before a release. -/
theorem test_arrivals :
    let e := (nxt (exec (.variableLatencyResult 3) (answered 5 answer))).eng me
    let stale := answered 5 { answer with incarn := 1 }
    let sent (s : State) : Nat := (nxt (exec (.mergeEntrySend 0 9) s)).crossings.length
    e.val 4 = 77 ∧ e.inter = [(.glob 5, 8)] ∧ nxt (exec (.variableLatencyResult 3) (answered 4 answer)) = answered 4 answer ∧
    nxt (exec (.variableLatencyResult 3) stale) = stale ∧ ((nxt (exec (.staleResponseDiscard 0 1) stale)).die 0).stale = 1 ∧
    (nxt (exec (.staleResponseDiscard 0 1) stale)).replies.length = 0 ∧ nxt (exec (.staleResponseDiscard 0 0) (answered 5 answer)) = answered 5 answer ∧
    sent (merging 10 (entryOf 2 [])) = 0 ∧ sent (merging 11 (entryOf 2 [])) = 1 ∧ sent (merging 10 (entryOf 63 [])) = 0 ∧ sent (merging 10 (entryOf 64 [])) = 1 ∧
    sent (merging 10 (entryOf 2 [me])) = 1 := by decide +kernel

/-- A combined fetch of three adds, 5, 7 and 9, whose location held 100, on its way back; its requesters wait. -/
def splitting : State :=
  let q (k : Nat) : Access := { access k ⟨0, 0, k⟩ pathK [(0x10000, 8)] (.atomic (entryOf 1 []).req (.glob 1)) with merged := true }
  { world me mapped with ptick := 5, accesses := [q 0, q 1, q 2], crossings := [⟨11, entryOf 3 [], 0, 5, some 100⟩] }

/-- R26: the requesters get 100, 105 and 112. -/
theorem test_fetch_split :
    let t := nxt (exec (.fetchReplySplit 11) splitting)
    t.replies.map (fun r => r.writes) = [[.glob 1 100], [.glob 1 105], [.glob 1 112]] ∧ t.accesses.length = 0 ∧ t.crossings.length = 0 ∧
    nxt (exec (.fetchReplySplit 11) { splitting with ptick := 4 }) = { splitting with ptick := 4 } := by decide +kernel

/-- A walk of the page of 0x40002000, which no table maps, and of a load that waits for it. -/
def walking : State :=
  let s := world me mapped
  let a := { access 4 me pathS [] (.load 8 false (.glob 1)) with vas := [(0x40002000, 8)] }
  { s.setDie 0 { s.die 0 with walks := [⟨1, 0x40002, 6, 5⟩] } with ptick := 5, accesses := [a] }

/-- Page tables at HBM4E of BD slot 6: four levels that name the next, and a leaf of 1 GiB at level 4, with all rights (R101). -/
def pageTables : State :=
  let s := walking
  let at_ (off v : Nat) (m : List Host.Cell) : List Host.Cell := writeBytes m (paOf 6 (0x10000000000 + off)) (bytesOf 8 v)
  let next (off : Nat) : Nat := paOf 6 (0x10000000000 + off) + 1
  { s.setDie 6 { s.die 6 with roots := AMap.put [] 1 (paOf 6 0x10000001000), acc := [⟨7, 0xF, 0, 0x1000000FFFF, 0x10000000000⟩] } with
    mem := at_ 0x5008 (paOf 6 0x10000000000 + 0x1F + 3 * 2 ^ 56) (at_ 0x4000 (next 0x5000) (at_ 0x3000 (next 0x4000) (at_ 0x2000 (next 0x3000) (at_ 0x1000 (next 0x2000) [])))) }

/-- R100, R101: the page is mapped 0x2000 bytes above the leaf's base, with rights 7, at level 4. -/
theorem test_page_walk_found :
    let t := nxt (exec (.pageWalkComplete 0 0x40002) pageTables)
    pageTables.walk 6 1 0x40002 = .page (paOf 6 0x10000002000 / 4096) 7 4 ∧
    ((t.die 0).cache.map fun c => (c.asid, c.page, c.rights, c.level)) = [(1, 0x40002, 7, 4)] ∧ t.accesses.map (·.pas) = [[(paOf 6 0x10000002000, 8)]] ∧
    t.faults.length = 0 := by decide +kernel

/-- R100, R102: an unmapped page faults the access that waits for it. -/
theorem test_page_walk :
    let t := nxt (exec (.pageWalkComplete 0 0x40002) walking)
    t.faults.map (·.cause) = [0x0101] ∧ t.faults.map (·.eng) = [some me] ∧ t.faults.map (·.addr) = [0x40002000] ∧ t.faults.map (·.detail) = [0x10003] ∧ t.accesses.length = 0 ∧ (t.eng me).status = .stopped ∧ (t.die 0).walks.length = 0 := by
  decide +kernel

/-- ArrivalsLand, its first part: a reply due and not, of this and another incarnation; an entry to be sent and not; a fetch due and not, with a
requester; a walk found with one access, and one with none. -/
theorem witness_ArrivalsLand :
    let s := answered 5 answer
    let m := entryOf 2 []
    let t := merging 11 m
    let w : Walk := ⟨1, 0x40002, 6, 5⟩
    let p := pageTables
    s.replies.find? (fun q => q.id == 3) = some answer ∧ answer.due ≤ s.ptick ∧ s.dieUp me.slot = true ∧ answer.incarn = (s.die me.slot).incarn ∧
    s.replies.find? (fun q => q.eng.slot == 0 && q.incarn == 0 && decide (q.due ≤ s.ptick)) = some answer ∧
    (t.die 0).merge.find? (fun q => q.id == 9) = some m ∧ (t.die 0).merge.head? = some m ∧ m.last + 8 ≤ t.ptick ∧ ¬ m.last + 8 ≤ (merging 10 m).ptick ∧
    (splitting.crossings.find? (fun q => q.id == 11)).isSome = true ∧ (splitting.accesses.find? fun y => y.id == 2).isSome = true ∧
    (p.die 0).walks.find? (fun y => y.page == 0x40002 && decide (y.due ≤ p.ptick)) = some w ∧ (p.untranslated 0).map (·.id) = [4] ∧
    (p.untranslated 0).map (·.orderedHome) = [none] ∧ ({ p with accesses := [] }).untranslated 0 = [] ∧
    walking.walk 6 1 0x40002 = .bad (.translation 3 0 1) ∧ (walking.eng me).asid = 1 := by decide +kernel

/-- Route 0x21 of slot 0 leads to window 3 of VD slot 4, whose slots are 256 bytes: a push of 300 bytes in two pieces, and a piece for the window. -/
def pushing (t : Nat) (full : BitVec 64) : State :=
  let s := routed (world me mapped)
  { s.setDie 4 { s.die 4 with windows := AMap.put [] 3 { Window.reset with full := full } } with
    ptick := t
    pushes := [⟨1, me, 1, 1, 0x21, 0, 20, 10, [List.replicate 256 1, List.replicate 44 2]⟩]
    pieces := [⟨5, me, 1, 1, 0, 4, 3, 10, [9, 8, 7], 50⟩] }

/-- R261, R262: the piece lands in slot 0 of an empty ring, moves it on, and a full slot faults. -/
theorem test_push_lands :
    let t := nxt (exec (.pushSendStart 0 0x21) (pushing 60 0))
    let u := nxt (exec (.pushPieceLand 5) (pushing 50 0))
    t.pieces.map (·.land) = [50, 44, 44] ∧ t.pieces.map (fun p => p.data.length) = [3, 256, 44] ∧ (t.die 0).routeFree.getD 0x21 0 = 21 ∧
    (u.die 4).window 3 = ⟨1, 1, 0⟩ ∧ u.bytes (slotPa 4 3 0) 4 = [9, 8, 7, 0] ∧ nxt (exec (.pushPieceLand 5) (pushing 49 0)) = pushing 49 0 ∧
    (nxt (exec (.pushPieceLand 5) (pushing 50 1))).faults.map (·.detail) = [0x301] ∧ (nxt (exec (.pushPieceLand 5) (pushing 50 1))).faults.map (·.cause) = [0x0201] := by
  decide +kernel

/-- ArrivalsLand, its second part: a push whose route is free and one whose route is not; a piece due and not, for an empty slot, a full one, and one of a die that is gone. -/
theorem witness_ArrivalsLand_pushes :
    let s := pushing 60 0
    let busy := s.setDie 0 { s.die 0 with routeFree := AMap.put [] 0x21 61 }
    (s.firstPush 0 0x21).isSome = true ∧ (s.die 0).routeFree.getD 0x21 0 ≤ s.ptick ∧ s.ptick < (busy.die 0).routeFree.getD 0x21 0 ∧ (busy.firstPush 0 0x21).isSome = true ∧
    (s.pieces.find? fun y => y.id == 5).isSome = true ∧ ((s.die 4).window 3).full.getLsbD 0 = false ∧ (((pushing 60 1).die 4).window 3).full.getLsbD 0 = true ∧
    s.slotGone 4 = false ∧ ({ s with mix := s.mix.set 4 0x10 } : State).slotGone 4 = true ∧ pathLatency 0 0 = 8 ∧ pathLatency 0 35 = 64 := by decide +kernel

/-- An image of 192 bytes without courses, its slot loading; its bytes but the first are 0. -/
def committing (state : Nat) (len : Byte) : State :=
  { State.reset with images := AMap.put [] 63 { ImageSlot.reset with state := state }, mem := if len = 0 then [] else [(imagePa 63 0, len)] }

/-- ImagesAndTables: slots of each state at the ends of their ranges, with a task and without; a translation named and one not; shapes and a BD's cache
with a course running and none. -/
theorem witness_ImagesAndTables :
    let s := committing 1 192
    let busy := { committing 2 192 with launches := [{ launched with image := 63 }] }
    s.imageOk 63 = true ∧ (s.image 63).state = 1 ∧ (committing 1 191).imageOk 63 = false ∧ ((committing 2 192).image 63).state = 2 ∧ ((committing 3 192).image 63).state = 3 ∧
    (∃ l ∈ busy.launches, l.image = 63) ∧ (∃ l ∈ busy.launches, l.state = .inCourse) ∧ s.accesses = [] ∧ s.crossings = [] ∧ s.mgmt.shapePend = [] ∧ dieKind 7 = some .bd ∧
    ((nxt (exec (.imageUnload 63) busy)).image 63).lstat = 1 ∧ ((nxt (exec (.imageUnload 63) busy)).image 63).state = 2 ∧
    ((nxt (exec (.imageUnload 63) (committing 2 192))).image 63).state = 0 ∧ ((nxt (exec (.imageCommit 63) (committing 1 191))).image 63).state = 3 ∧
    (nxt (exec (.imageApertureWrite 63 0x3FFFFF [5] ⟨[], [], []⟩) s)).bytes (imagePa 63 0x3FFFFF) 1 = [5] ∧ nxt (exec (.imageApertureWrite 63 0x400000 [5] ⟨[], [], []⟩) s) = s ∧
    ((nxt (exec (.imageOpen 63) (committing 3 192))).image 63).state = 1 ∧ (nxt (exec (.imageOpen 63) (committing 3 192))).mem.length = 0 := by
  refine ⟨?_, ?_, ?_, ?_, ?_, ⟨{ launched with image := 63 }, List.mem_singleton.2 rfl, rfl⟩, ⟨{ launched with image := 63 }, List.mem_singleton.2 rfl, rfl⟩, ?_⟩ <;> decide +kernel

/-- R310: the hash of the image, SHA-256 of its bytes with the place of the hash zero; the promise, of no streams, kept. -/
theorem test_image_commit :
    let t := nxt (exec (.imageCommit 63) (committing 1 192))
    (t.image 63).state = 2 ∧ t.img 63 88 1 = 1 ∧ t.bytes (imagePa 63 96) 4 = [0x89, 0x90, 0x5F, 0x93] ∧ t.bytes (imagePa 63 124) 4 = [0x32, 0x15, 0x4F, 0x30] := by decide +kernel

/-- R103, R101, R104, R98: an invalidate of pages 0x40002 to 0x40003, and one with a root; a shape in a table whose place is set; a BD's cache of 16
units and of 17. -/
theorem test_tables :
    let s := { State.reset with dies := State.reset.dies }
    let page (n : Nat) : CachedPage := ⟨1, n, 7, 7, 6⟩
    let c := s.setDie 0 { s.die 0 with cache := [page 0x40001, page 0x40002, page 0x40003, page 0x40004] }
    let sh := nxt (exec (.shapeTableWrite 65535 0 (List.replicate 64 0xAB) (some 0x6010000000000)) s)
    let root := nxt (exec (.translationInvalidate 1 0 0 (some (6, 0x6010000020008))) c)
    ((nxt (exec (.translationInvalidate 1 0x40002000 0x40003FFF none) c)).die 0).cache.map (·.page) = [0x40001, 0x40004] ∧
    (root.die 6).roots = [(1, 0x6010000020000)] ∧ sh.shapePa 65535 = 0x60100003FFFC0 ∧
    sh.bytes (sh.shapePa 65535) 20 = List.replicate 16 0xAB ++ [0, 0] ++ [0xAB, 0xAB] ∧
    ((nxt (exec (.bdcfgWrite 7 16) s)).die 7).bdcfg = 16 ∧ nxt (exec (.bdcfgWrite 7 17) s) = s ∧ nxt (exec (.bdcfgWrite 8 1) s) = s := by decide +kernel

/-- A request for eight bytes at HBM4E of BD slot 6 or elsewhere; the state whose table of that die admits the host. -/
def request (pa : Nat) : HostReq := ⟨0, BitVec.ofNat 56 pa, 8, false, 0, none⟩
def hosting (rights : BitVec 8) : State :=
  let s := State.reset
  let s := s.setDie 6 { s.die 6 with acc := [⟨0xFFFF, rights, 0, 0x10000000FFF, 0x10000000000⟩] }
  { s.setDie 36 { s.die 36 with acc := [⟨0xFFFF, 0xF, 0, 0xFFFFFFFFFFFF, 0⟩] } with mem := [(paOf 6 0x10000000000, 0x5A)] }

/-- HostRequests: reads and writes that the tables admit and deny, of memory, of a register and of an address that maps nothing; one that IDE
refuses, one of a function that is none, and one of a TDI in ERROR. -/
theorem witness_HostRequests :
    let s := hosting 0xF
    let h := request (paOf 6 0x10000000000)
    let w := request (paOf 36 0x80130008)
    let n := request (paOf 40 0)
    (s.die 36).phase ≠ .lost ∧ h.stream ∉ s.trust.ideOn ∧ s.hostJudge 0xFFFF rRead (paOf 6 0x10000000000) 8 = .ok ∧
    s.hostJudge 0xFFFF rWrite (paOf 6 0x10000000000) 8 = .ok ∧ (hosting 0x9).hostJudge 0xFFFF rWrite (paOf 6 0x10000000000) 8 = .denied ∧
    (hosting 0x9).hostJudge 0xFFFF rRead (paOf 6 0x10000001000) 8 = .denied ∧ s.hostJudge 0xFFFF rRead (paOf 40 0) 8 = .unmapped ∧ s.hostReady ⟨h, none, s.ptick⟩ = true ∧
    s.hostReady ⟨h, some (List.replicate 8 1), s.ptick⟩ = true ∧ s.hostShut h = false ∧ (s.setTdi 3 ⟨.error, false, 7, [0], []⟩).hostShut { request (imagePa 0 0) with fn := 3 } = true ∧
    (nxt (exec (.hostRead { h with fn := 17 }) s)).outbox = [.completion { h with fn := 17 } .unsupported []] ∧
    s.slotGone 6 = false ∧ s.poisoned (paOf 6 0x10000000000) 8 = false ∧ s.poison = [] ∧ isTdi h.fn = false ∧ s.hostMaster h.fn = 0xFFFF ∧ mregAt 0x80130008 ≠ none ∧
    mregAt 0x80130009 = none ∧ s.hostJudge 0xFFFF rRead (paOf 36 0x80130008) 8 = .ok ∧ placeOf (paOf 36 0x80130008) = .mgmt 0x80130008 ∧
    (nxt (exec (.hostRead h) s)).outbox = [.completion h .success [0x5A, 0, 0, 0, 0, 0, 0, 0]] ∧
    (nxt (exec (.hostRead n) s)).outbox = [.completion n .unsupported []] ∧ (nxt (exec (.hostRead w) s)).outbox = [.completion w .success (bytesOf 8 8400)] ∧
    (nxt (exec (.hostRead { h with ide := some false }) s)).outbox.length = 0 := by decide +kernel

/-- R4, R342, R446: a write of memory, one denied, which DENYLOG counts with its master and slot, PCAP below, within and above its bounds. -/
theorem test_host_writes :
    let s := hosting 0xF
    let h := request (paOf 6 0x10000000000)
    (nxt (exec (.hostWrite h [1, 2, 3]) s)).bytes (paOf 6 0x10000000000) 4 = [1, 2, 3, 0] ∧
    (nxt (exec (.hostWrite h [1, 2, 3]) (hosting 0x9))).bytes (paOf 6 0x10000000000) 4 = [0x5A, 0, 0, 0] ∧
    (nxt (exec (.hostWrite h [1, 2, 3]) (hosting 0x9))).mgmt.denylog = 0x00000001FFFF0600 ∧
    (nxt (exec (.pcapWrite 999) s)).gov.pcap = 1000 ∧ (nxt (exec (.pcapWrite 4321) s)).gov.pcap = 4321 ∧ (nxt (exec (.pcapWrite 8401) s)).gov.pcap = 8400 ∧
    (nxt (exec (.registerWrite 0x80130008 5000) s)).gov.pcap = 5000 ∧ (nxt (exec (.registerWrite 0x80140028 0xFFFF) s)).mgmt.spillbase = 0xF000 ∧
    (nxt (exec (.registerWrite 0x80130000 0xFFFFFFFFFFFFFFFF) s)).gov.govcfg = 0xFFFFFFFF00FFFF03 := by decide +kernel

/-! ## A small pattern, and witnesses of its launches -/

/-- Fields of an image: offset, bytes and value. -/
def putFields (base : Nat) (fs : List (Nat × Nat × Nat)) (m : List Host.Cell) : List Host.Cell :=
  fs.foldl (fun m f => writeBytes m (base + f.1) (bytesOf f.2.1 f.2.2)) m

/-- A course entry with the deadline 4,000, and a skip, jump, call, return, deadline and notify (R326). -/
def eCourse : List (Nat × Nat × Nat) := [(0, 1, 1), (4, 4, 0x440), (8, 4, 4000)]
def eSkip (sense n va : Nat) : List (Nat × Nat × Nat) := [(0, 1, 2), (1, 1, sense), (4, 2, n), (6, 10, va), (16, 8, 6)]
def eTo (kind goal : Nat) : List (Nat × Nat × Nat) := [(0, 1, kind), (4, 2, goal)]
def eSpan (n : Nat) : List (Nat × Nat × Nat) := [(0, 1, 6), (8, 4, n)]
def eNotify : List (Nat × Nat × Nat) := [(0, 1, 7), (1, 1, 1), (6, 10, 0x40000E00), (16, 8, 77), (24, 2, 9)]

/-- An image in slot 0 (R309, R311, R313, R314): tenant 7 in address space 1, one MD and BD slot 6, one team, one stream on cluster 0's
engine 0 whose code is at 0x40000800; the range 0x40000000 to 0x40000FFF; the completion word at 0x40000A00, two records at 0x40000A40. -/
def patternBytes (ncourse : Nat) (entries : List (List (Nat × Nat × Nat))) : List Host.Cell :=
  let b := imagePa 0 0
  let hbm (off : Nat) : Nat := paOf 6 (0x10000000000 + off)
  let header := [(0, 4, 0x600), (32, 4, 128), (36, 4, 320), (40, 4, ncourse), (44, 4, 0x500), (48, 4, 8), (52, 10, 0x40000C00), (62, 10, 0x40000C40), (72, 8, hbm 0xC00), (80, 8, hbm 0xC40)]
  let record := [(0, 2, 7), (2, 2, 1), (4, 1, 6), (5, 1, 1), (6, 1, 2), (8, 8, 0x0820501000), (24, 4, 0x100C0), (56, 10, 0x40000A00), (66, 1, 1), (72, 10, 0x40000A40),
    (88, 8, b + 0x540), (96, 1, 1), (104, 8, hbm 0xB00), (112, 1, 1), (114, 1, 0x84), (115, 1, 6)]
  let course := [(7, 2, 1), (16, 4, 0x480), (28, 4, 0x580)]
  let stream := [(0, 10, 0x40000800), (10, 1, 0), (11, 1, 0), (12, 1, 0), (24, 8, 1)]
  let range := [(0, 10, 0x40000000), (10, 10, 0x40000FFF), (20, 7, hbm 0), (27, 1, 0xF)]
  let m := putFields (b + 128) record (putFields b header [])
  let m := ((List.range entries.length).zip entries).foldl (fun m x => putFields (b + 320 + 32 * x.1) x.2 m) m
  putFields (b + 0x540) range (putFields (b + 0x500) [(0, 8, 0x1122334455667788)] (putFields (b + 0x480) stream (putFields (b + 0x440) course m)))

/-- The package with that image ready, and the table of BD slot 6 admitting tenant 7. -/
def patterned (ncourse : Nat) (entries : List (List (Nat × Nat × Nat))) : State :=
  let s := State.reset
  let s := s.setDie 6 { s.die 6 with acc := [⟨7, 0xF, 0, 0x10000000FFF, 0x10000000000⟩] }
  { s with images := AMap.put [] 0 { ImageSlot.reset with state := 2 }, mem := patternBytes ncourse entries, ptick := 100 }

/-- A launch of it that walks its list and is at entry `k`, bound to slots 0 and 6. -/
def walks (k : Nat) (stack : List Nat) (s : State) : State :=
  { s with launches := [{ Launch.fresh 1 0 (.host 0) 0 0 with state := .walking, bind := [(0, 0), (1, 6)], quads := [(0, 0)], next := k, stack := stack, due := 100 }] }

/-- The predicate word at 0x40000D00 and the completion word. -/
def poke (off v : Nat) (s : State) : State := { s with mem := writeBytes s.mem (paOf 6 (0x10000000000 + off)) (bytesOf 8 v) }

/-- Where the walk of launch 1 is after an instruction: its next entry, its stack, its state and what its count at the completion word says. -/
def walkAt (i : Instr) (s : State) : List (Nat × List Nat × LaunchState) × Nat :=
  let t := nxt (exec i s)
  (t.launches.map fun l => (l.next, l.stack, l.state), natOf (t.bytes (paOf 6 0x10000000A00) 8))

/-- CourseListsWalk: an entry of each kind that is due with its words readable, at the ends of its targets, and one that is not due. -/
theorem witness_CourseListsWalk :
    let two (e : List (Nat × Nat × Nat)) (k : Nat) (stack : List Nat) : State := walks k stack (poke 0xD00 4 (patterned 2 (List.replicate k eCourse ++ [e, eCourse])))
    let held (s : State × Instr) : Bool :=
      walkAt s.2 s.1 == ([((match s.1.launch 1 with | some l => l.next | none => 0), (match s.1.launch 1 with | some l => l.stack | none => []), .heldAnswer false)], 0) &&
        (nxt (exec s.2 s.1)).faults.map (·.cause) == [0x0206]
    -- a predicate that matches: skipped under sense 0, not under sense 1; n = 1 reaches the end of a list of two, n = 2 passes it
    walkAt (.courseListSkip 1) (two (eSkip 0 1 0x40000D00) 0 []) = ([], 0) ∧ (walkAt (.courseListSkip 1) (two (eSkip 1 1 0x40000D00) 0 [])).1 = [(1, [], .walking)] ∧
    held (two (eSkip 0 2 0x40000D00) 0 [], .courseListSkip 1) = true ∧ held (two (eSkip 0 1 0x40000D01) 0 [], .courseListSkip 1) = true ∧
    held (two (eSkip 0 1 0x40001000) 0 [], .courseListSkip 1) = true ∧
    (walkAt (.courseListJump 1) (two (eTo 3 1) 0 [])).1 = [(1, [], .walking)] ∧ held (two (eTo 3 2) 0 [], .courseListJump 1) = true ∧
    (walkAt (.courseListCall 1) (two (eTo 4 1) 0 [9, 9, 9, 9, 9, 9, 9])).1 = [(1, [1, 9, 9, 9, 9, 9, 9, 9], .walking)] ∧
    held (two (eTo 4 1) 0 [9, 9, 9, 9, 9, 9, 9, 9], .courseListCall 1) = true ∧ held (two (eTo 4 2) 0 [], .courseListCall 1) = true ∧
    (walkAt (.courseListReturn 1) (two (eTo 5 0) 0 [1, 7])).1 = [(1, [7], .walking)] ∧ held (two (eTo 5 0) 0 [], .courseListReturn 1) = true := by decide +kernel

theorem test_course_list :
    let span := (nxt (exec (.courseListDeadline 1) (walks 0 [] (patterned 2 [eSpan 500, eCourse])))).launches
    let cleared := (nxt (exec (.courseListDeadline 1) (walks 0 [] (patterned 2 [eSpan 0, eTo 3 0])))).launches
    let t := nxt (exec (.courseListNotify 1) (walks 0 [] (patterned 2 [eNotify, eTo 3 0])))
    let early := { walks 0 [] (patterned 2 [eTo 3 1, eCourse]) with ptick := 99 }
    span.map (fun l => (l.next, l.span)) = [(1, some (100, 500))] ∧ cleared.map (fun l => (l.span, l.due)) = [(none, 116)] ∧
    natOf (t.bytes (paOf 6 0x10000000E00) 8) = 77 ∧ t.outbox = [.interrupt 9] ∧ nxt (exec (.courseListJump 1) early) = early := by decide +kernel

/-- TasksStart, its first part: a trigger for each of its answers. -/
theorem witness_TasksStart :
    let s := patterned 1 [eCourse]
    let status (s : State) : Nat := ((nxt (exec (.launchTrigger 0 0) s)).image 0).lstat.toNat
    let empty := { s with images := AMap.put [] 0 { ImageSlot.reset with state := 1 } }
    let frames (f : BitVec 2) : State := { s with images := AMap.put [] 0 { ImageSlot.reset with state := 2, framesHeld := f } }
    let full := { s with launches := (List.range 64).map fun k => Launch.fresh k 0 (.host 0) 0 0 }
    let t := nxt (exec (.launchTrigger 0 0) s)
    status empty = 2 ∧ status (frames 3) = 0x301 ∧ status full = 1 ∧ ((nxt (exec (.launchTrigger 0 1) s)).image 0).lstat = 3 ∧ t.launches = [Launch.fresh s.nextSeq 0 (.host 0) 0 100] ∧
    t.bytes (paOf 6 0x10000000C00) 8 = bytesOf 8 0x1122334455667788 ∧ (t.image 0).framesHeld = 1 ∧ ((nxt (exec (.launchTrigger 0 0) (frames 1))).image 0).framesHeld = 3 ∧
    (s.patches 0 0).isSome = true ∧ (s.patches 0 1).isNone = true := by decide +kernel

/-- An SD whose tag 9 has an armed launch of image 0 with two buffers of 16 bytes, the given ones held by launches, and a message for it
and one for a tag without an entry. -/
def armedAt (busy : List Nat) (flags : Nat) : State :=
  let s := patterned 1 [eCourse]
  let desc := bytesOf 2 0 ++ bytesOf 1 0 ++ bytesOf 1 flags ++ bytesOf 4 16 ++ bytesOf 1 2 ++ List.replicate 7 0 ++ bytesOf 10 0x40000F00 ++ List.replicate 6 0 ++ bytesOf 8 (paOf 6 0x10000000F00)
  let held (k : Nat) : Launch := Launch.fresh (7 + k) 1 (.net 8 9 (paOf 6 (0x10000000F00 + 16 * k)) 2 5 0x40000F00) 0 0
  { s.setDie 8 { s.die 8 with messages := [⟨⟨9, 5, 0, 7, 1, 1, [0xAA, 0xBB]⟩, 0, none⟩, ⟨⟨10, 5, 0, 7, 1, 1, []⟩, 0, none⟩], armed := [⟨9, desc⟩] } with launches := busy.map held }

/-- TasksStart, its messages: one whose tick of receipt is over and one whose is not; one for a tag without an entry; a buffer free after a held one,
and none; no place in the queue; no message. -/
theorem witness_TasksStart_messages :
    let m : Message := ⟨9, 5, 0, 7, 1, 1, [0xAA, 0xBB]⟩
    let s := armedAt [0] 0
    let d := s.die 8
    let a := d.armed.headD ⟨0, []⟩
    let now := s.setDie 8 { d with messages := [⟨m, s.ptick, none⟩] }
    let full := { s with launches := (List.range 64).map fun k => Launch.fresh k 1 (.host 0) 0 0 }
    (d.messages.find? fun x => x.msg.tag == m.tag) = some ⟨m, 0, none⟩ ∧ 0 < s.ptick ∧ (d.armed.find? fun x => x.tag == m.tag) = some a ∧ (d.armed.find? fun x => x.tag == 10) = none ∧
    ((now.die 8).messages.map fun r => decide (r.tick < now.ptick)) = [false] ∧ a.nbuf = 2 ∧ a.queue = 0 ∧ a.bufPa = paOf 6 0x10000000F00 ∧ a.bufSize = 16 ∧ a.oneShot = false ∧
    s.bufHeld (a.bufAt 0) = true ∧ s.bufHeld (a.bufAt 1) = false ∧ (armedAt [0, 1] 0).bufHeld (a.bufAt 1) = true ∧
    (full.launches.filter fun l => l.queue == 0 && l.state == .queued).length = 64 ∧ (∀ x ∈ d.messages, x.msg.tag ≠ 11) ∧
    (nxt (exec (.messageReceipt 8 m) now)).launches = now.launches ∧ (nxt (exec (.messageReceipt 8 m) now)).outbox = [] := by decide +kernel

/-- R278, R319, R320, R415: the lowest free buffer, of any number; none free; one shot; a tag without an entry. -/
theorem test_messages :
    let m : Message := ⟨9, 5, 0, 7, 1, 1, [0xAA, 0xBB]⟩
    let t := nxt (exec (.messageReceipt 8 m) (armedAt [0] 0))
    let u := nxt (exec (.messageReceipt 8 m) (armedAt [] 1))
    let v := nxt (exec (.messageReceipt 8 m) (armedAt [0, 1] 0))
    let x := nxt (exec (.messageReceipt 8 ⟨10, 5, 0, 7, 1, 1, []⟩) (armedAt [] 0))
    t.bytes (paOf 6 0x10000000F10) 2 = [0xAA, 0xBB] ∧ (t.launches.drop 1).map (·.task) = [.net 8 9 (paOf 6 0x10000000F10) 2 5 0x40000F10] ∧
    (t.die 8).messages.length = 1 ∧ v.launches.length = 2 ∧ (v.die 8).messages.length = 2 ∧ (u.die 8).armed.length = 0 ∧ u.launches.length = 1 ∧
    x.outbox.getLast? = some (.refusal ⟨10, 5, 0, 7, 1, 1, []⟩) ∧ x.launches.length = 0 ∧ x.faults.map (·.cause) = [0x0208] := by decide +kernel

/-- A task of the pattern in a state. -/
def tasked (st : LaunchState) (s : State) : State := { s with launches := [{ Launch.fresh 1 0 (.host 0) 0 50 with state := st }] }

/-- R92, R100, R323, R324: the head is selected, with its queue's priority; a selected task is bound to the lowest free slots of its types, whose PARTW and
range lists it loads; it waits while a launch holds them all, and is refused for its PARTW, its levels and its map in that order. -/
theorem test_select_bind :
    let s := tasked .selected (patterned 1 [eCourse])
    let t := nxt (exec (.taskBind 1) s)
    let bad (off n v : Nat) : List Nat × Nat :=
      let u := nxt (exec (.taskBind 1) { s with mem := writeBytes s.mem (imagePa 0 (128 + off)) (bytesOf n v) })
      (u.launches.map (·.seq), bytesFld (u.bytes (paOf 6 0x10000000A40) 32) 11 1)
    let other (k : Nat) : Launch := { Launch.fresh (k + 2) 1 (.host 0) 0 50 with state := .inCourse, bind := [(0, [0, 1, 2, 3, 9, 10, 11, 12, 18, 19, 20, 21, 27, 28, 29, 30].getD k 0)] }
    let busy := { s with launches := s.launches ++ (List.range 16).map other }
    let some_ := { s with launches := s.launches ++ (List.range 2).map other }
    (nxt (exec .taskSelect (tasked .queued (patterned 1 [eCourse])))).launches.map (·.state) = [.selected] ∧
    t.launches.map (fun l => (l.bind, l.quads)) = [([(0, 0), (1, 6)], [(0, 0)])] ∧ t.launches.map (·.state) = [.walking] ∧ nxt (exec (.taskBind 1) busy) = busy ∧
    (t.cluster 0).partw = 0x0820501080 ∧ (t.die 0).ranges.map (·.base) = [0x40000000] ∧
    ((nxt (exec (.taskBind 1) some_)).launch 1).map (·.bind) = some [(0, 2), (1, 6)] ∧
    bad 8 8 0x1000 = ([], 0x11) ∧ bad 24 4 0 = ([], 0x12) ∧ bad 115 1 8 = ([], 0x13) := by decide +kernel

/-- TasksStart, selection and binding: a head with nothing selected and behind a task selected; a task that can be bound, one whose die is barred, one
that is refused, and ones whose dies exist and do not. -/
theorem witness_TasksStart_bind :
    let q := tasked .queued (patterned 1 [eCourse])
    let s := tasked .selected (patterned 1 [eCourse])
    let behind := { q with launches := q.launches ++ [{ Launch.fresh 2 0 (.host 1) 0 60 with state := .selected, prio := 255 }] }
    let barred := s.setDie 0 { s.die 0 with barred := true }
    let wrong := { s with mem := writeBytes s.mem (imagePa 0 152) (bytesOf 4 0) }
    let l := (s.launch 1).getD launched
    let none_ : State := { s with mix := s.mix.map fun _ => 0x10 }
    (q.bestHead.map fun h => (h.seq, h.team)) = some (1, none) ∧ (behind.bestHead.map (·.seq)) = some 1 ∧ (behind.bestHead.map fun h => decide (h.prio ≤ 255)) = some true ∧
    l.state = .selected ∧ s.refusal 0 = none ∧ wrong.refusal 0 = some 0x12 ∧ (s.place 0 fun _ => true).isSome = true ∧ (none_.place 0 fun _ => true) = none ∧
    s.place 0 (s.freeSlot 1) = some ([(0, 0)], [(0, 0), (1, 6)]) ∧ (s.ioEngines 0 [(0, 0), (1, 6)]).length = 0 ∧ (s.die 0).barred = false ∧ (s.die 6).barred = false ∧ 0 < s.ncourse 0 ∧
    nxt (exec (.taskBind 1) barred) = barred := by decide +kernel

/-- The end of the pattern's only course: its stream has retired its notify, and the walk is at its end. -/
def past (n : Nat) (status : Status) : State :=
  let s := patterned n (List.replicate n eCourse)
  let x : Stream := ⟨0, me, 0, 0, 0, 0⟩
  let l : Launch := { Launch.fresh 1 0 (.host 0) 0 50 with
    state := .inCourse, bind := [(0, 0), (1, 6)], quads := [(0, 0)], next := 1, streams := [x], teams := [⟨0, 0, .running, [], none, false⟩], deadline := 4100 }
  { s.setEng me { mapped with status := status, team := 0 } with launches := [l], mem := writeBytes s.mem (paOf 6 0x10000000A00) [1] }

/-- CoursesRun: a course due with its dies up, and with one down; a rerun with and without a restart set; a group done and not, in a list that
ends with it and one that goes on. -/
theorem witness_CoursesRun :
    let s := walks 0 [] (patterned 1 [eCourse])
    let down := s.setDie 0 { s.die 0 with phase := .lost }
    let l := (s.launch 1).getD (Launch.fresh 1 0 (.host 0) 0 0)
    let again := { s with launches := [{ l with state := .rerun, course := 0, next := 1 }] }
    let set := { s with launches := [{ l with state := .rerun, course := 0, next := 1, rstcfg := 0x10005 }] }
    l.state = .walking ∧ l.due ≤ s.ptick ∧ l.next < s.ncourse 0 ∧ s.entry 0 0 0 1 = 1 ∧ l.waits = false ∧ (∀ p ∈ l.bind, s.dieUp p.2 = true) ∧ s.mgmt.shapePend = [] ∧
    s.mgmt.hostHeld = [] ∧ nxt (exec (.courseStart 1) down) = down ∧ s.lostSlot l = false ∧ s.fullBind l = some l.bind ∧ (s.image 0).inits = [] ∧ l.computeDies = [(0, 0)] ∧
    s.pinnedBds l = [6] ∧ l.rstcfg.getLsbD 16 = false ∧ (nxt (exec (.courseRerun 1) again)).launches.map (fun x => (x.state, x.next, x.due)) = [(.walking, 0, 100)] ∧
    (nxt (exec (.courseRerun 1) set)).launches.map (fun x => (x.state, x.next, x.due)) = [(.walking, 0, 100)] ∧
    ((past 1 .finished).launch 1).map (fun l => (past 1 .finished).groupDone l 0 0) = some true ∧ ((past 1 .running).launch 1).map (fun l => (past 1 .running).groupDone l 0 0) = some false ∧
    nxt (exec (.combinerFire 1 0 0) (past 1 .running)) = past 1 .running ∧ (s.die 6).partials = [] ∧ nxt (exec (.epochCloseAtCourseEnd 6) s) = s := by decide +kernel

/-- R31, R52, R314, R321: T0 of the course; its record, word and event, and its end. -/
theorem test_course :
    let t := nxt (exec (.courseStart 1) (walks 0 [] (patterned 1 [eCourse])))
    let e := t.eng me
    let u := nxt (exec (.combinerFire 1 0 0) (past 1 .finished))
    let v := nxt (exec (.combinerFire 1 0 0) (past 2 .finished))
    t.launches.map (fun l => (l.state, l.t0, l.deadline)) = [(.inCourse, 100, 4100)] ∧ t.launches.map (fun l => l.streams.map (·.eng)) = [[me]] ∧
    e.status = .running ∧ e.started = false ∧ e.pc = 0 ∧ e.codeVa = 0x40000800 ∧ e.strmcfg = 1 ∧ e.val 0 = 1 ∧ e.val80 32 = 0x40000C00 ∧ e.aspace = 0x0007000106000000 ∧
    u.launches.length = 0 ∧ u.outbox = [.event 1 0 0] ∧ natOf (u.bytes (paOf 6 0x10000000A00) 8) = 2 ∧ natOf (u.bytes (paOf 6 0x10000000A60) 8) = 100 ∧
    u.bytes (paOf 6 0x10000000A68) 4 = [0, 0, 0, 0] ∧ v.launches.map (fun l => (l.state, l.next)) = [(.walking, 1)] := by decide +kernel

/-- A partial of 1 at a BD's SRAM, of an engine that runs or is over: only the latter's epoch closes (R143). -/
theorem test_epoch_close :
    let s (st : Status) : State :=
      let t := at_ me { live with status := st }
      t.setDie 6 { t.die 6 with partials := [⟨paOf 6 0x100, 4, 0, me, 0x3F800000⟩] }
    let t := nxt (exec (.epochCloseAtCourseEnd 6) (s .off))
    (t.die 6).partials.length = 0 ∧ t.bytes (paOf 6 0x100) 4 = [0, 0, 0x80, 0x3F] ∧ nxt (exec (.epochCloseAtCourseEnd 6) (s .running)) = s .running := by decide +kernel

/-! ## Witnesses and tests: clocks and power -/

/-- Cluster 0 with a shutter, and an access that has come to it, or none. -/
def shut (sh : Shutter) (asked busy : Bool) : State :=
  let s := world me mapped
  let s := s.setCluster 0 { s.cluster 0 with shutter := sh, closeAsked := asked }
  { s with ptick := 100, accesses := if busy then [access 5 ve pathS [(0x10000, 8)] (.store [1])] else [] }

def shutterAfter (i : Instr) (s : State) : Shutter := ((nxt (exec i s)).cluster 0).shutter

/-- R114: a cluster closes once nothing is on its way to it, wakes for a request, and is open 2,400 ticks later, at OP0. -/
theorem test_shutters :
    shutterAfter (.shutterOff 0) (shut (.closing 100) false false) = .off ∧ shutterAfter (.shutterOff 0) (shut .opened true false) = .off ∧
    shutterAfter (.shutterOff 0) (shut .opened false false) = .opened ∧ shutterAfter (.shutterOff 0) (shut (.closing 100) false true) = .closing 100 ∧
    shutterAfter (.shutterWakeStart 0) (shut .off false true) = .waking 2500 ∧ shutterAfter (.shutterWakeStart 0) (shut .off false false) = .off ∧
    shutterAfter (.shutterWakeComplete 0) (shut (.waking 101) false true) = .waking 101 ∧ shutterAfter (.shutterWakeComplete 0) (shut (.waking 100) false true) = .opened := by
  decide +kernel

/-- R332, R344: a switch to OP7 at tick 96; the grant of 500 of the interval; an arbiter's counter that it lowers. -/
theorem test_clock :
    let s := shut .opened false false
    let d : Domain := { s.dom 0 with next := some (96, 7), transitEnd := 100, nextGrant := some (1200, 500) }
    let t := s.setCluster 0 { s.cluster 0 with dom := d }
    let u := nxt (exec .clockSwitch t)
    let i := { t.setDie 6 { t.die 6 with arb := AMap.put [] 0 900 } with ptick := 1200 }
    let v := nxt (exec .byteBudgetInterval i)
    (u.dom 0).op = 7 ∧ (u.dom 0).refTick = 96 ∧ (u.dom 0).refCycle = 40 ∧ (u.dom 0).next = none ∧ ((nxt (exec .transitEnd t)).dom 0).transitEnd = 0 ∧
    (v.dom 0).grant = 500 ∧ (v.die 6).arb.getD 0 0 = 400 ∧ nxt (exec .byteBudgetInterval t) = t ∧ nxt (exec .byteBudgetInterval { v with ptick := 1200 }) = v := by
  decide +kernel

/-- Only slots 0 and 6 hold a die, an MD and a BD. -/
def onlyTwo : Vector Byte 37 := (Vector.replicate 37 0x08).set 0 1 |>.set 6 4

/-- A course of one stream on such a package, without a cost table, that began at this tick; the cap at its greatest value and the ceiling at OP7. -/
def governed : State :=
  let s := past 1 .running
  let l := { (s.launch 1).getD launched with t0 := 100 }
  { s with launches := [l], gov := { s.gov with pcap := 0xFFFF, pstat := 0x700000000 }, mix := onlyTwo }

/-- Under that cap the ceiling stays at OP7 whatever power is measured (R444). -/
theorem ceiling_stays (g : Gov) (w : BitVec 16) (hp : g.pcap = 0xFFFF) (hs : g.pstat = 0x700000000) : fld (g.measure w.toNat).pstat 32 3 = 7 := by
  have hc : fld g.pcap 0 16 = 65535 := by rw [hp]; decide
  have hg : govCeil g = 7 := by rw [govCeil, hs]; decide
  have hn : ¬ 65535 < w.toNat := by have := w.isLt; omega
  have h : (if 65535 < w.toNat then 7 - 1 else if 20 * w.toNat ≤ 19 * 65535 then min 7 (7 + 1) else 7) = 7 := by
    rw [if_neg hn]; split <;> rfl
  have ht (a b : Nat) (hb : a * 2 + b < 2 ^ 32) (x : Nat) : (x % 2 ^ 16 * 2 ^ 48 + 7 * 2 ^ 32 + a * 2 + b) % 2 ^ 64 / 2 ^ 32 % 2 ^ 3 = 7 := by omega
  simp only [Gov.measure, hc, hg, h]
  rw [fld, BitVec.extractLsb'_toNat, BitVec.toNat_ofNat, Nat.shiftRight_eq_div_pow]
  refine ht _ _ ?_ _
  have h1 : fld g.pstat 1 1 < 2 := BitVec.isLt _
  split <;> omega

/-- ClocksAndPower: an evaluation due and not, with the decision not bound; temperatures at the threshold and below; the shutters and clocks of the
tests above. -/
theorem witness_ClocksAndPower :
    let s := governed
    let cool := s.setDie 0 { s.die 0 with phase := .up }
    s.evaluates = true ∧ ({ s with gov := { s.gov with lastEval := some 100 } } : State).evaluates = false ∧ s.gov.govcfg.getLsbD 0 = true ∧ s.liveGauges.length = 0 ∧
    s.gov.pcap = 0xFFFF ∧ s.gov.pstat = 0x700000000 ∧ s.runningDoms = [0] ∧ s.governed.contains 0 = true ∧ s.ceiling s.decided s.runningDoms.length = 7 ∧ (1680 : BitVec 16).toInt = 1680 ∧
    ((nxt (exec (.softThermalThreshold 0 1679) cool)).die 0).hot = false ∧ ((nxt (exec (.softThermalThreshold 0 1680) cool)).die 0).hot = true ∧
    ((nxt (exec (.softThermalClear 0 1520) (nxt (exec (.softThermalThreshold 0 1680) cool)))).die 0).hot = true ∧
    ((nxt (exec (.softThermalClear 0 1519) (nxt (exec (.softThermalThreshold 0 1680) cool)))).die 0).hot = false := by decide +kernel

/-! ## Witnesses and tests: pre-emption -/

/-- A request for team 0 of launch 1, and an estimate that is due. -/
def asked (action : Nat) : PreReq := ⟨1, 0, action, 12000, 0, 9⟩
def estimated : Estimate := ⟨60, 90, 0, 700, 100, 0, 5000, 4000, 1, true⟩

/-- The pattern's team in a state, its engine with a status. -/
def teamIn (ts : TeamState) (status : Status) (kept : Option Saved) : State :=
  let s := past 1 status
  { s with launches := s.launches.map fun l => { l with teams := [⟨0, 0, ts, [], kept, false⟩] } }

/-- The team stopped, saved, and its dies released. -/
def savedTeam : State := nxt (execPreemptStopComplete 1 0 (teamIn (.stopping (asked 2) 2 estimated) (.paused none) none))

/-- PreemptionAndResume: a team that runs, with an engine at `brk` and without, in a region and not; one that stops and one that is over; a task
of a pre-empting queue that waits for the die which that team has; a stop that is complete and one that is not. -/
theorem witness_PreemptionAndResume :
    let s := past 1 .running
    let b := past 1 .atBrk
    let l := (s.launch 1).getD launched
    let r := at_ me { live with region := some (live.entryRecord 50) }
    let new : Launch := { Launch.fresh 2 0 (.host 1) 3 60 with state := .selected, prio := 5 }
    let others := (List.range 15).map fun k => { Launch.fresh (k + 3) 1 (.host 0) 0 50 with state := .inCourse, prio := 9, bind := [(0, [1, 2, 3, 9, 10, 11, 12, 18, 19, 20, 21, 27, 28, 29, 30].getD k 0)] }
    let w := { s with launches := s.launches ++ [new] ++ others, mgmt := { s.mgmt with qcfg := AMap.put [] 3 0x1F4000000C0 } }
    let t := teamIn (.stopping (asked 2) 2 estimated) (.paused none) none
    let u := teamIn (.stopping (asked 2) 2 estimated) .running none
    s.noPreempt (asked 0) = none ∧ (teamIn (.saved 2 0) .off none).noPreempt (asked 0) = some 6 ∧ u.noPreempt (asked 0) = some 5 ∧ l.engsOf 0 = [me] ∧
    (s.eng me).status ≠ .atBrk ∧ s.canDiscard me (s.eng me) = false ∧ (b.eng me).status = .atBrk ∧ b.noPreempt (asked 1) = none ∧ r.canDiscard me (r.eng me) = true ∧
    (w.qcfg 3).getLsbD 7 = true ∧ w.place 0 (w.freeSlot 2) = none ∧ w.place 0 (fun _ => true) ≠ none ∧ w.stoppingFor 3 = false ∧ (w.victims new).map (·.2) = [0] ∧
    (t.eng me).hasPaused 2 = true ∧ t.teamInFlight 1 0 = false ∧ ((t.launch 1).map fun l => t.latticesQuiet l 0) = some true ∧ t.teamFaulting 1 0 = false ∧ estimated.due ≤ t.ptick ∧ (u.eng me).hasPaused 2 = false ∧
    ((t.launch 1).map fun l => (t.savePoisoned l 0).isNone) = some true ∧ nxt (exec (.preemptStopComplete 1 0) u) = u := by decide +kernel

/-- The course with a window whose consumer is its MD, one of whose slots is poisoned. -/
def windowed : State :=
  let t := teamIn (.stopping (asked 2) 2 estimated) (.paused none) none
  let m := putFields (imagePa 0 0x4C0) [(0, 6, 0x0101000008), (6, 1, 0), (7, 1, 3), (8, 1, 0), (9, 1, 1), (10, 1, 1)] (putFields (imagePa 0 0x440) [(9, 2, 1), (20, 4, 0x4C0)] t.mem)
  { t.setDie 0 { t.die 0 with wincfg := AMap.put [] 3 0x0101000008 } with mem := m, poison := [slotPa 0 3 0] }

/-- R60, R329, R330, R418: the saved team's record, and its dies released; a poisoned slot faults the team with cause 0x0106. -/
theorem test_preempt_stop :
    let t := savedTeam
    let u := nxt (exec (.preemptStopComplete 1 0) windowed)
    let r := t.bytes (paOf 6 0x10000000B00) 64
    (t.eng me).status = .off ∧ t.launches.map (·.bind) = [[(1, 6)]] ∧ t.launches.map (fun l => l.teams.map (·.state)) = [[.saved 2 100]] ∧
    bytesFld r 0 8 = 1 ∧ bytesFld r 8 2 = 9 ∧ bytesFld r 10 1 = 1 ∧ bytesFld r 11 1 = 2 ∧ bytesFld r 12 1 = 1 ∧ bytesFld r 20 4 = 12000 ∧ bytesFld r 28 4 = 700 ∧
    bytesFld r 40 8 = 5000 ∧ bytesFld r 56 8 = 100 ∧ u.faults.map (fun f => (f.cause, f.detail, f.team, f.after)) = [(0x0106, 5, 0, .stop)] ∧
    ((windowed.launch 1).map fun l => windowed.savePoisoned l 0) = some (some 0) := by decide +kernel

/-- Its save area holds a poisoned unit: any run of at least one byte there touches it. -/
theorem poisoned_first (s : State) (u n : Nat) (h : s.poison = [u]) : s.poisoned u (n + 1) = true := by
  have hu : 0 < unitSize u := by unfold unitSize; split <;> decide
  simp [State.poisoned, h, hu]

/-- PreemptionAndResume, its second part: a saved team at the head, with its dies there and not; its area poisoned and not. -/
theorem witness_PreemptionAndResume_resume :
    let s := savedTeam
    let l := (s.launch 1).getD launched
    s.headIs 1 0 = true ∧ l.state = .inCourse ∧ (l.teamOf? 0).map (·.state) = some (.saved 2 100) ∧ ((l.teamOf? 0).bind (·.saved)).isSome = true ∧
    s.rebind l 0 = some [(1, 6), (0, 0)] ∧ (∀ n, ({ s with poison := [] } : State).poisoned 5 n = false) ∧
    ({ s with launches := s.launches ++ (List.range 16).map fun k => { Launch.fresh (k + 3) 1 (.host 0) 0 50 with state := .inCourse, prio := 9, bind := [(0, [0, 1, 2, 3, 9, 10, 11, 12, 18, 19, 20, 21, 27, 28, 29, 30].getD k 0)] } } : State).rebind l 0 = none := by
  refine ⟨?_, ?_, ?_, ?_, ?_, fun n => rfl, ?_⟩ <;> decide +kernel

/-- R62: the engine goes on with the registers it had, under its old binding. -/
theorem test_resume :
    let t := nxt (exec (.teamResume 1 0) { savedTeam with poison := [] })
    t.launches.map (fun l => (l.bind, l.teams.map (·.state))) = [([(1, 6), (0, 0)], [.running])] ∧ (t.eng me).status = .running ∧ (t.eng me).pc = 10 ∧
    (t.eng me).glob = mapped.glob := by decide +kernel

/-! ## Witnesses and tests: faults, deadlines, memory errors -/

/-- A fault of an engine of team 0 of launch 1, with a retry or without. -/
def faultOf (id : EngId) (cause : Nat) : FaultEv :=
  { tick := 100, cause := cause, detail := 7, addr := 0x40000010, addrValid := true, addrPhys := false, eng := some id, slot := 0, cluster := 0, pc := 10, level := 1,
    seq := 1, team := 0, flags := 0, incarn := 0, issue := 5, after := .stop }

/-- Where team `n` of launch 1 stands. -/
def teamState (s : State) (n : Nat) : Option TeamState := (s.launch 1).bind fun l => l.teamState n

/-- The team and another of the same parent, whose engine is the next of the cluster; both noted faults. -/
def twoTeams (faults : List FaultEv) : State :=
  let s := past 1 .running
  let t := s.setEng ⟨0, 0, 1⟩ { s.eng me with team := 1 }
  { t with
    faults := faults
    launches := s.launches.map fun l => { l with streams := l.streams ++ [⟨1, ⟨0, 0, 1⟩, 0, 1, 0, 0⟩], teams := l.teams ++ [⟨1, 0, .running, [], none, false⟩] } }

/-- RecordsWritten: the log in a BD; in none, with the launch known; a launch that has ended. -/
theorem witness_RecordsWritten :
    let s := past 1 .running
    let t := { s with mgmt := { s.mgmt with flog := BitVec.ofNat 64 (paOf 6 0x10000002000 / 4096 * 4096 + 4), fltcfg := 0x00000011002A0001 } }
    s.launch 2 = none ∧ inBd (t.mgmt.flog.toNat / 2 ^ 12 % 2 ^ 44 * 4096) = true ∧ (s.launch 1).isSome = true ∧ inBd (s.mgmt.flog.toNat / 2 ^ 12 % 2 ^ 44 * 4096) = false ∧
    (let u := t.record { faultOf me 0x0101 with seq := 2 }
     u.mgmt.fltcfg = 0x00000012002A0001 ∧ u.outbox = [.interrupt 0x2A] ∧ u.bytes (paOf 6 0x10000002040) 4 = [1, 1, 0x11, 0] ∧
       bytesFld (u.bytes (paOf 6 0x10000002040) 64) 38 10 = 0x40000010) ∧
    (s.record (faultOf me 0x0101)).bytes (paOf 6 0x10000001B00) 2 = [1, 1] ∧
    (let p : PastLaunch := ⟨2, 0, 0, 7, paOf 6 0x10000000B00⟩
     let v := { s with past := [p] }
     v.launch 2 = none ∧ v.past.find? (fun q => q.seq == 2) = some p ∧ (v.record { faultOf me 0x0101 with seq := 2 }).bytes (paOf 6 0x10000001B00) 2 = [1, 1]) := by decide +kernel

/-- FaultsStopTeams: a fault of a team that runs, of an unknown launch, and of a team that is over; one fault, two of one tick in both orders, two of
one engine; a peer whose engines have stopped and not; answers to a team held with and without a retry, to a launch held, and to none; a retry due and not. -/
theorem witness_FaultsStopTeams :
    let f := faultOf me 0x0101
    let g := faultOf ⟨0, 0, 1⟩ 0x0101
    let h := teamIn (.held 0x0101 true) .stopped none
    let b := teamIn (.held 0x030B false) .stopped none
    let a := { h with launches := h.launches.map fun (l : Launch) => { l with state := .heldAnswer true } }
    let r := teamIn (.restart 100) .stopped none
    let p := (twoTeams []).setEng me { ((twoTeams []).eng me) with status := .stopped }
    let p : State := { p with launches := p.launches.map fun (l : Launch) => l.updTeam 0 fun t => { t with state := .peer 0 1 } }
    let later (f : FaultEv) : FaultEv := { f with issue := 6 }
    let code (s : State) (i : Instr) : Nat := (nxt (exec i s)).mgmt.fresp1.toNat / 2 ^ 40
    (((twoTeams []).launch 1).bind fun l => l.teamOf? 0).isSome = true ∧ (TeamState.running).live = true ∧ (twoTeams []).launch 2 = none ∧ (TeamState.past 0).live = false ∧
    (twoTeams [f, g]).faults = [f, g] ∧ (twoTeams [g, f]).faults = [g, f] ∧ f.eng ≠ g.eng ∧ me.key < (⟨0, 0, 1⟩ : EngId).key ∧ ((twoTeams []).eng me).status ≠ .off ∧
    (at_ me { live with status := .off }).eng me ≠ live ∧ code h (.faultRetry 1 0) = 0 ∧ code b (.faultRetry 1 0) = 2 ∧ code b (.faultRerun 1 0) = 2 ∧ code h (.faultRerun 1 0) = 0 ∧
    code h (.faultAbandon 1 0) = 0 ∧ code a (.faultRetry 1 0) = 2 ∧ code a (.faultRerun 1 0) = 0 ∧ code (past 1 .running) (.faultRetry 1 0) = 1 ∧
    nxt (exec (.retryRestart 1 0) { r with ptick := 99 }) = { r with ptick := 99 } ∧ teamState (nxt (exec (.retryRestart 1 0) r)) 0 = some .running ∧
    (nxt (exec (.peerStop 1 0) (teamIn (.peer 0 1) .stopped none))).launches.length = 0 ∧ teamState (nxt (exec (.peerStop 1 0) p)) 0 = some (.past 2) ∧
    (nxt (exec (.peerStop 1 0) p)).faults.map (fun x => (x.cause, x.detail)) = [(0x0301, 0x10000)] ∧ f.after = .stop ∧ f.cause ≠ 0x0306 ∧ (later f).eng = f.eng ∧ f.issue < (later f).issue ∧
    (nxt (exec .faultStop (twoTeams [later f, f]))).mgmt.fltcfg.toNat / 2 ^ 32 = 1 ∧
    (nxt (exec .faultStop (twoTeams [{ g with cause := 7 }, f]))).mgmt.fltcfg.toNat / 2 ^ 32 = 1 ∧ g.seq = f.seq ∧ g.team = f.team ∧
    teamState (nxt (exec (.peerStop 1 0) (teamIn (.peer 0 1) .running none))) 0 = some (.peer 0 1) := by decide +kernel

/-- R400-R402, R416: a fault without a retry holds its team and makes its peer stop; both teams' faults of one tick are recorded, the lower place first. -/
theorem test_fault_stop :
    let s := twoTeams [faultOf me 0x0101]
    let t := nxt (exec .faultStop s)
    let u := nxt (exec .faultStop (twoTeams [{ faultOf ⟨0, 0, 1⟩ 0x0306 with team := 1 }, faultOf me 0x0101]))
    teamState t 0 = some (.held 0x0101 false) ∧ teamState t 1 = some (.peer 0 0) ∧ (t.eng me).status = .stopped ∧ t.faults.length = 0 ∧
    t.bytes (paOf 6 0x10000001B00) 4 = [1, 1, 0, 0] ∧ t.mgmt.fltcfg.toNat / 2 ^ 32 = 1 ∧ u.mgmt.fltcfg.toNat / 2 ^ 32 = 2 ∧
    u.bytes (paOf 6 0x10000001B00) 4 = [1, 1, 0, 0] ∧ u.bytes (paOf 6 0x10000001B40) 4 = [6, 3, 1, 0] ∧ teamState u 1 = some (.peer 0 0) ∧
    (nxt (exec (.parityError me) (past 1 .running))).faults.map (·.cause) = [0x0306] := by decide +kernel

/-- The course with its deadline at 90 and an action on a miss; the span, at 99; a declared deadline of the engine. -/
def missing (act : Word) (span : Option (Nat × Nat)) (at_ : Nat) : State :=
  let s := past 1 .running
  { s.setEng me { s.eng me with deadl := some ⟨at_, 1, 10, false⟩ } with
    launches := s.launches.map fun l => { l with deadline := if span.isNone then 90 else 4100, span := span, checkDl := true, dlact := act } }

/-- ErrorsAndDeadlines, its first part: a miss of each source, by a tick and not, under each action. -/
theorem witness_ErrorsAndDeadlines_deadlines :
    let s (act : Word) : State := missing act none 99
    let l := ((s 0).launch 1).getD launched
    let miss (src : MissSource) (s : State) : State := nxt (exec (.deadlineMiss 1 src) s)
    l.state = .inCourse ∧ l.checkDl = true ∧ l.deadline = 90 ∧ l.missed = [] ∧ l.streams.map (·.eng) = [me] ∧ ((s 0).eng me).sret ≠ 1 ∧
    nxt (exec (.deadlineMiss 1 .courseEntry) { s 0 with ptick := 90 }) = { s 0 with ptick := 90 } ∧ nxt (exec (.deadlineMiss 1 .span) (missing 0 (some (50, 50)) 99)) = missing 0 (some (50, 50)) 99 ∧
    teamState (miss .courseEntry { s 0 with ptick := 91 }) 0 = some .running ∧ (miss .courseEntry { s 0 with ptick := 91 }).faults.map (fun f => (f.cause, f.after)) = [(0x0309, .nothing)] ∧
    teamState (miss .courseEntry (s 1)) 0 = some (.held 0x0309 false) ∧ teamState (miss .courseEntry (s 3)) 0 = some (.held 0x0309 false) ∧ (miss .courseEntry (s 2)).launches.length = 0 ∧
    teamState (miss .span (missing 0 (some (50, 49)) 99)) 0 = some .running ∧ (miss .span (missing 0 (some (50, 49)) 99)).faults.map (·.cause) = [0x0309] ∧
    (((miss (.deadl me) (s 0)).eng me).deadl.map (·.missed)) = some true ∧ nxt (exec (.deadlineMiss 1 (.deadl me)) (missing 0 none 100)) = missing 0 none 100 := by decide +kernel

/-- A piece of launch 1 on its way through module 5 of slots 0 and 4, its course aborted `n` times before; a unit of slot `p` that fails. -/
def failing (n : Nat) (crc : Option Nat) : State :=
  let s := past 1 .running
  { s with pieces := [⟨5, me, 1, 0, 0, 4, 3, 10, [9], 50⟩], launches := s.launches.map fun l => { l with crcAborts := n, crcDue := crc } }

/-- ErrorsAndDeadlines, its second part: a failed piece known and not, the first and another within the interval; an abort due and not, the first
and the fourth; retries below sixteen and the sixteenth; scrubs of a BD and another; errors of each kind of memory, with few and many before. -/
theorem test_link_and_memory_errors :
    let s := failing 0 none
    let fail (s : State) : State := nxt (exec (.streamingCrcFailure 5 37) s)
    let again := s.setDie 0 { s.die 0 with crcTicks := AMap.put [] 37 40 }
    let abort (s : State) : List (LaunchState × Nat) := (nxt (exec (.courseAbortCrc 1) s)).launches.map fun l => (l.state, l.crcAborts)
    let retry (n : Nat) : State := nxt (exec (.ordinaryCrcRetry 0 5 true) (s.setDie 0 { s.die 0 with retries := AMap.put [] 5 n }))
    let err (pa : Nat) (s : State) : State := nxt (exec (.uncorrectableError pa) s)
    let hit (slot n : Nat) : State := s.setDie slot { s.die slot with uncorrTicks := List.replicate n 90 }
    (fail s).pieces.length = 0 ∧ ((fail s).die 0).crcTicks.getD 37 0 = 100 ∧ ((fail again).die 0).retired.getD 37 0 = 100 ∧ (fail s).launches.map (fun l => l.crcDue.isSome) = [true] ∧
    nxt (exec (.streamingCrcFailure 6 37) s) = s ∧ abort (failing 0 (some 100)) = [(.rerun, 1)] ∧ abort (failing 0 (some 101)) = [(.inCourse, 0)] ∧ abort (failing 3 (some 100)) = [] ∧
    ((retry 14).die 0).retries.getD 5 0 = 15 ∧ ((retry 15).die 0).retired.getD 5 0 = 100 ∧
    ((nxt (exec (.scrubPass 6 [0, 32, 64]) s)).die 6).corr = 3 ∧ nxt (exec (.scrubPass 0 [0]) s) = s ∧
    (err (paOf 6 0x10000000025) s).poison = [paOf 6 0x10000000020] ∧ ((err 0x1000D s).die 0).uncorr = 1 ∧ (err 0x1000D { s with written := [0x10000] }).poison = [0x10008] ∧ (err 0x1000D s).poison = [] ∧
    ((err 0x1000D (hit 0 14)).die 0).phase = .up ∧ ((err 0x1000D (hit 0 15)).die 0).phase = .lost ∧
    (err (paOf 6 0x100) (hit 6 2)).mgmt.evacctl.toNat / 2 ^ 16 % 16 = 0 ∧ (err (paOf 6 0x100) (hit 6 3)).mgmt.evacctl.toNat / 2 ^ 16 % 16 = 1 ∧
    err (paOf 40 0) s = s := by decide +kernel

/-- R372, R420: an error in scheduler memory, where an image measures as it did: its launch waits for an answer that may rerun it. -/
theorem test_scheduler_memory_error :
    let s := nxt (exec (.imageCommit 63) (committing 1 192))
    let t := { s with launches := [{ launched with image := 63 }] }
    (nxt (exec (.uncorrectableError (imagePa 62 0)) t)).launches.map (·.state) = [.heldAnswer true] := by decide +kernel

/-! ## Witnesses and tests: dies that fail, evacuation, trust -/

/-- A die in a phase. -/
def phased (slot : Nat) (p : DiePhase) (s : State) : State := s.setDie slot { s.die slot with phase := p }

/-- DiesFailAndReturn, its first part: dies of each kind present and gone; launches that lose a compute die and a BD; launches that can be bound
round a loss, must wait, and cannot; a die tripped before today, twice, and none. -/
theorem witness_DiesFailAndReturn :
    let s := past 1 .running
    let l := (s.launch 1).getD launched
    let w := { l with state := .waitDies }
    let gone := { failed [0] s with launches := [w] }
    let fill (n : Nat) (s : State) : State := { s with launches := s.launches ++ (List.range n).map fun k => { Launch.fresh (k + 3) 1 (.host 0) 0 50 with state := .inCourse, bind := [(0, [1, 2, 3, 9, 10, 11, 12, 18, 19, 20, 21, 27, 28, 29, 30].getD k 0)] } }
    let twice := s.setDie 0 { s.die 0 with tripTicks := [90, 95] }
    s.slotGone 0 = false ∧ s.losesBy l 0 = true ∧ s.losesBy l 6 = true ∧ s.losesBy l 4 = false ∧ dieKind 8 = some .sd ∧ gone.slotGone 0 = true ∧ gone.mgmt.hostHeld = [] ∧
    gone.lostSlot w = true ∧ s.launch l.seq = some l ∧ gone.launch l.seq = some w ∧ gone.rebindAll w = .done [(1, 6), (0, 1)] [(0, 0)] ∧
    ((w.bind.filter fun p => gone.badSlot w p.2) = [(0, 0)] ∧ (gone.ldieEntry 0 0).pinned = false ∧ (gone.ldieEntry 0 0).quad = 0 ∧ gone.freeSlot 1 1 = true) ∧
    (fill 3 gone).rebindAll w = .wait ∧ (failed [0, 1, 2, 3, 9, 10, 11, 12, 18, 19, 20, 21, 27, 28, 29, 30] gone).rebindAll w = .held ∧
    (s.die 0).phase = .up ∧ (s.die 0).tripTicks = [] ∧ (twice.die 0).tripTicks.filter (fun u => decide (twice.ptick < u + 103680000000000)) = [90, 95] ∧
    l.streams.map (·.eng.slot) = [0] ∧ (phased 0 .off s).die 0 ≠ s.die 0 ∧ (s.die 36).phase = .up := by decide +kernel

/-- R14, R359, R375, R425: a lost MD: its MIX byte, HEALTH, its record and its launch; a BD's, and an SD's quadrant. -/
theorem test_die_loss :
    let s := past 1 .running
    let lose (slot : Nat) : State := nxt (exec (.dieLostDeclare slot 3) s)
    let t := lose 0
    t.mix.toList.getD 0 0 = 0x11 ∧ (nxt (exec (.dieLostDeclare 2 3) { s with mix := s.mix.set 2 0x41 })).mix.toList.getD 2 0 = 0x51 ∧ t.mgmt.health = 0x8000000001 ∧ t.launches.map (·.state) = [.waitDies] ∧ t.launches.map (fun l => l.teams.map (·.state)) = [[.past 5]] ∧
    t.faults.map (fun f => (f.cause, f.detail, f.slot)) = [(0x0307, 3, 0)] ∧
    (lose 6).launches.map (·.state) = [.heldAnswer false] ∧ (List.range 37).filter (fun k => (lose 17).slotGone k) = [9, 10, 11, 12, 13, 14, 15, 16, 17] ∧
    (nxt (exec (.rebindAfterLoss 1) t)).launches.map (fun l => (l.state, l.bind)) = [(.rerun, [(1, 6), (0, 1)])] ∧ lose 0 = nxt (exec (.dieLostDeclare 0 4) t) := by decide +kernel

/-- A request in session 1, which is open; session 2 is not. -/
def ask (n : Nat) : SpdmReq := ⟨n, [1]⟩
def inSessions (s : State) : State := { s with trust := { s.trust with sessions := [⟨1, true, false⟩, ⟨2, false, false⟩] } }

/-- DiesFailAndReturn, its second part: an open session and a compute die that is up; a yielding die held and not; each phase due and not. -/
theorem witness_DiesFailAndReturn_restart :
    let s := inSessions (past 1 .running)
    let free := phased 0 (.yielding 500) State.reset
    let quiet := phased 0 (.quiet 100) { State.reset with ptick := 12100 }
    let test := phased 0 (.selfTest 100) { State.reset with ptick := 108100 }
    let join (ok : Bool) := phased 0 (.rejoin 100 ok) { State.reset with ptick := if ok then 120100 else 240100 }
    let early (s : State) (i : Instr) : Bool := (nxt (exec i { s with ptick := s.ptick - 1 })).dies == s.dies
    s.trust.measFail = false ∧ (s.session? 1).map (·.open_) = some true ∧ (s.session? 2).map (·.open_) = some false ∧ (s.die 0).phase = .up ∧ s.slotGone 0 = false ∧ s.noPreempt ⟨1, 0, 0, 500, 0, 0⟩ = none ∧
    s.teamsOn 0 = [(1, 0)] ∧ (s.launches.any fun l => l.bind.any fun p => p.2 == 0) = true ∧ free.dieIdle 0 = true ∧ free.launches = [] ∧
    early quiet (.selfTestStart 0) = true ∧ early test (.rejoinStart 0) = true ∧ early (join true) (.rejoinComplete 0) = true ∧ early (join false) (.rejoinTimeout 0) = true ∧
    ((nxt (exec (.rejoinTimeout 0) (join false))).die 0).phase = .quiet 240100 ∧ s.losesBy ((s.launch 1).getD launched) 6 = true := by decide +kernel

/-- R422, R437, R438, R439: a die is asked for, and comes back as another incarnation; a trip, below and above 95 °C after it, and a third. -/
theorem test_restart_and_trip :
    let s := inSessions (past 1 .running)
    let t := nxt (exec (.hardThermalTrip 0 1 0x0730) s)
    let cool (temp : BitVec 16) : DiePhase := ((nxt (exec (.trippedDieCooldown 0 temp) t)).die 0).phase
    let twice := s.setDie 0 { s.die 0 with tripTicks := [90, 95] }
    let up := nxt (exec (.rejoinComplete 0) (phased 0 (.rejoin 100 true) { s with ptick := 120100 }))
    ((nxt (exec (.dieRestartRequest (ask 1) 0 500) (inSessions State.reset))).die 0).phase = .yielding 500 ∧ ((nxt (exec (.dieQuiet 0) (phased 0 (.yielding 500) State.reset))).die 0).phase = .quiet 0 ∧
    (up.die 0).phase = .up ∧ (up.die 0).incarn = 1 ∧ (t.die 0).phase = .off ∧ (t.die 0).tripWord = 0x0001073000000001 ∧
    t.faults.map (·.detail) = [0x07300001] ∧ t.slotGone 0 = false ∧ t.launches.map (·.state) = [.waitDies] ∧ cool 1519 = .quiet 100 ∧ cool 1520 = .off ∧
    (nxt (exec (.hardThermalTrip 0 1 0x0730) twice)).slotGone 0 = true ∧ (nxt (exec (.hardThermalTrip 36 1 0x0730) s)).launches.length = 0 ∧
    (nxt (exec (.bdTableError 6 none) s)).launches.map (fun l => l.teams.map (·.state)) = [[.held 0x0305 false]] ∧
    (nxt (exec .packageReset s)).launches.length = 0 ∧ ((nxt (exec .packageReset s)).die 5).incarn = 1 ∧ (nxt (exec .packagePowerOn s)).ptick = 0 := by decide +kernel

/-- BD slot 6 being evacuated, with the fault log in its SRAM and current generations of sets of BDs; `away` are gone. -/
def evacuating (status : Nat) (sram : Bool) (gens : List (Nat × Nat × List Byte)) (away : List Nat) : State :=
  let s := failed away State.reset
  let put (s : State) (g : Nat × Nat × List Byte) : State :=
    s.setDie g.1 { s.die g.1 with ckpt := (s.die g.1).ckpt.put g.2.1 ⟨1, some ⟨1, if g.2.2.isEmpty then [] else [(paOf 6 0x10000000000, g.2.2)], 5⟩, none⟩ }
  let t := gens.foldl put s
  { t with mgmt := { t.mgmt with evacctl := BitVec.ofNat 64 (6 * 2 ^ 32 + status * 2 ^ 16), evacFrom := 6, flog := if sram then BitVec.ofNat 64 (paOf 6 0x1000 + 6) else 6 } }

/-- The other BDs of the package. -/
def otherBds : List Nat := [7, 15, 16, 24, 25, 33, 34]

/-- What the spill region holds. -/
def spilt (what : Extent) : State :=
  let s := evacuating 1 false [] []
  { s with trust := { s.trust with spilled := [⟨6, what, [], [], [], some ⟨1, [], 5⟩⟩] } }

/-- The same BD with the save area of a team of a launch in its SRAM. -/
def saving : State := { evacuating 1 false [] [] with launches := [{ launched with areas := [(1, (paOf 6 0x1000, 4095))] }] }

/-- EvacuationMoves: one that can start, and one that runs; extents of each kind that can go, that fit the region, and that do not; none left. -/
theorem witness_EvacuationMoves :
    let s := evacuating 1 true [] []
    let full := evacuating 1 false [(6, 3, [1])] otherBds
    let short := evacuating 3 true [(6, 3, []), (7, 3, [])] [15, 16, 24, 25, 33, 34]
    let log : Extent := .log (paOf 6 0x1000) 4096
    let goal : Option (Extent × Nat × Nat) := some (log, 7, paOf 7 0x1000)
    s.movable 6 = goal ∧ short.movable 6 = goal ∧ short.extentsOn 6 = [.generation 3, log] ∧ (evacuating 3 true [] []).movable 6 = goal ∧
    (((short.moveExtent 6 log 7 (paOf 7 0x1000)).releaseAll 6).extentsOn 6 = [.generation 3]) ∧
    (saving.movable 6 = some (.save 1 1 (paOf 6 0x1000) 4096, 7, paOf 7 0x1000) ∧ saving.evacWaits = false ∧
      (nxt (exec .extentMove saving)).launches.map (·.areas) = [[(1, (paOf 7 0x1000, 4095))]]) ∧
    ((((evacuating 3 true [] []).moveExtent 6 log 7 (paOf 7 0x1000)).releaseAll 6).extentsOn 6 = []) ∧
    (evacuating 1 false [] []).extentsOn 6 = [] ∧ full.movable 6 = none ∧ (full.extentsOn 6).find? (fun x => full.spillFits 6 x) = none ∧ full.extentsOn 6 = [.generation 3] ∧
    (let r := evacuating 1 false [(6, 3, [])] otherBds
     r.movable 6 = none ∧ (r.extentsOn 6).find? (fun x => r.spillFits 6 x) = some (.generation 3)) ∧
    s.launches = [] ∧ (evacuating 3 false [] []).movable 6 = none ∧ s.trust.spilled = [] ∧ dieKind 6 = some .bd ∧ (evacuating 0 false [] []).slotGone 6 = false := by decide +kernel

/-- EvacuationMoves: a generation of no bytes fits whatever the checkpoint areas hold, on the other BD of the quadrant. -/
theorem witness_EvacuationMoves_generation :
    let s := evacuating 1 false [(6, 3, [])] []
    s.movable 6 = some (.generation 3, 7, 0) ∧ (s.launches.any fun l => l.waits) = false := by
  have hx : (evacuating 1 false [(6, 3, [])] []).extentsOn 6 = [.generation 3] := by decide +kernel
  have hk : (evacuating 1 false [(6, 3, [])] []).stuck 6 (.generation 3) = false := by decide +kernel
  have ht : (evacuating 1 false [(6, 3, [])] []).targets 6 = [7, 15, 16, 24, 25, 33, 34] := by decide +kernel
  have hn : (evacuating 1 false [(6, 3, [])] []).extentSize 6 (.generation 3) = 0 := by decide +kernel
  have hb : ((evacuating 1 false [(6, 3, [])] []).die 7).ckBytes = 0 := by decide +kernel
  have hc : (((evacuating 1 false [(6, 3, [])] []).die 7).ckSet 3).current = none := by decide +kernel
  refine ⟨?_, by decide +kernel⟩
  simp [State.movable, hx, State.destination, hk, ht, State.placeOn, hn, hb, hc]

/-- EvacuationMoves: a spilled generation, and a log, of no bytes return to the lowest BD, whatever the checkpoint areas hold. -/
theorem witness_EvacuationMoves_return :
    ((spilt (.generation 3)).spillHome ⟨6, .generation 3, [], [], [], some ⟨1, [], 5⟩⟩).map (fun d => (d.1, d.2.1)) = some (7, 0) ∧
    ((spilt (.log 0 0)).spillHome ⟨6, .log 0 0, [], [], [], some ⟨1, [], 5⟩⟩).map (fun d => (d.1, d.2.1)) = some (7, paOf 7 0x10000000000) ∧
    (spilt (.generation 3)).trust.spilled = [⟨6, .generation 3, [], [], [], some ⟨1, [], 5⟩⟩] ∧
    (spilt (.log 0 0)).trust.spilled = [⟨6, .log 0 0, [], [], [], some ⟨1, [], 5⟩⟩] := by
  have hr : List.range 36 = [0, 1, 2, 3, 4, 5, 6, 7] ++ (List.range 28).map (8 + ·) := by decide +kernel
  have h7 : (spilt (.generation 3)).usable 7 = true ∧ (spilt (.log 0 0)).usable 7 = true ∧ dieKind 7 = some .bd ∧ dieKind 6 = some .bd := by decide +kernel
  have hc : (((spilt (.generation 3)).die 7).ckSet 3).current = none ∧ ((spilt (.generation 3)).die 7).ckBytes = 0 := by decide +kernel
  have ha : ((spilt (.log 0 0)).die 7).acc = [] := by decide +kernel
  have hn : ∀ k < 6, dieKind k ≠ some .bd := by decide +kernel
  have hf : (spilt (.log 0 0)).freeHbm 7 0 65536 0 = some 0x10000000000 := by
    have he : granuleEnd 0x10000000000 0 ≤ hbmEnd 7 := by
      have h : granuleEnd 0x10000000000 0 = 0x10000000000 := by decide +kernel
      rw [h]; unfold hbmEnd; omega
    have hu : ceilDiv 0x10000000000 65536 * 65536 = 0x10000000000 := by decide +kernel
    have hv : ((spilt (.log 0 0)).die 7).covered 0x10000000000 0 = false := by decide +kernel
    have hh : (spilt (.log 0 0)).hdAreas 7 = [] := by decide +kernel
    simp [State.freeHbm, ha, hu, hv, he, hh]
  have h0 : (Extent.log 0 0).pa = 0 ∧ paOff 0 = 0 ∧ (Extent.log 0 0).align = 65536 := by decide +kernel
  refine ⟨?_, ?_, by decide +kernel, by decide +kernel⟩
  · simp [State.spillHome, hr, hn, h7, hc]
  · simp [State.spillHome, hr, hn, h7, h0, hf, Die.takeEntries]

/-- R429, R430, R431, R432: what EVACCTL says; the log at its new place; a spilled generation; the rest of one that is short, 1 MiB. -/
theorem test_evacuation :
    let reg (s : State) : Nat := s.mgmt.evacctl.toNat
    let r := nxt (exec .extentMove (evacuating 1 false [(6, 3, [])] otherBds))
    let t := nxt (exec .extentMove (evacuating 1 true [] []))
    let x := nxt (exec .extentMove (evacuating 1 false [] []))
    reg (nxt (exec .evacuationStart (evacuating 0 false [] []))) = 0x600010001 ∧ t.mgmt.flog.toNat = paOf 7 0x1000 + 6 ∧
    reg x = 0x600020000 ∧ x.slotGone 6 = true ∧ reg (nxt (exec .extentMove (evacuating 1 false [(6, 3, [1])] otherBds))) = 0x0000010600030001 ∧
    r.trust.spilled.map (·.what) = [.generation 3] ∧ r.outbox = [.hostWrite 0 []] ∧ ((r.die 6).ckSet 3).current = none ∧
    (nxt (exec .evacuationResume (evacuating 3 true [] []))).slotGone 6 = true := by decide +kernel

/-- SessionsAnswer: TDIs unlocked, locked and outside 1 to 16; a session open, not open, and none; measurement failed and not. -/
theorem witness_SessionsAnswer :
    let s := inSessions (past 1 .running)
    let locked := s.setTdi 16 ⟨.locked, false, 7, [], []⟩
    let lost := nxt (exec (.measurementFailure 2) s)
    (s.tdi 1).state = .unlocked ∧ (locked.tdi 16).state = .locked ∧ s.session? 1 = some ⟨1, true, false⟩ ∧ s.session? 2 = some ⟨2, false, false⟩ ∧ s.session? 3 = none ∧
    s.trust.measFail = false ∧ lost.trust.measFail = true ∧ (s.launches.map (·.bound)) = [true] ∧
    (let t : State := { s with trust := { s.trust with tenants := [⟨9, 1, 3, 5, []⟩] } }
     (t.trust.tenants.find? fun x => x.tdi == 3).map (·.tag) = some 9 ∧ (t.trust.tenants.find? fun x => x.tdi == 4) = none) ∧
    (let h : HeldReq := ⟨⟨3, 0, 8, false, 0, none⟩, none, 0⟩
     let w : State := { s with mgmt := { s.mgmt with hostHeld := [h] } }
     h ∈ w.mgmt.hostHeld ∧ s.mgmt.hostHeld = [] ∧ ((nxt (exec (.measurementFailure 2) w)).tdi 3).state = .unlocked ∧ ((nxt (exec (.measurementFailure 2) w)).tdi 3).failing = true) := by decide +kernel

/-- R348, R349, R448: a TDI through its states; a session through its; a failure of measurement. -/
theorem test_trust :
    let s := inSessions (past 1 .running)
    let l := nxt (exec (.lockInterface 3 7 [1] [2]) s)
    let r := nxt (exec (.startInterfaceRequest 3) l)
    let f := nxt (exec (.measurementFailure 2) s)
    l.tdi 3 = ⟨.locked, false, 7, [1], [2]⟩ ∧ (r.tdi 3).state = .run ∧ ((nxt (exec (.stopInterfaceRequest 3) r)).tdi 3).state = .unlocked ∧
    (nxt (exec (.keyExchange (ask 0)) s)).trust.sessions.getLast? = some ⟨s.nextId, false, false⟩ ∧
    (nxt (exec (.finish (ask 2)) s)).trust.sessions.map (·.open_) = [true, true] ∧ (nxt (exec (.endSession (ask 1)) s)).trust.sessions.map (·.id) = [2] ∧
    (nxt (exec (.attest (ask 2)) s)).outbox = [.spdm 2 (.error .unstated)] ∧ (f.tdi 16).state = .error ∧ f.trust.sessions = [] ∧ f.launches.map (·.state) = [.heldAnswer false] ∧
    (nxt (exec (.challenge (ask 1)) f)).outbox.getLast? = some (.spdm 1 (.error .unspecified)) := by decide +kernel

/-- A grant of 64 KiB of BD slot 6 to tenant 9, whose key BD 6 takes; its entry. -/
def granted : GrantEntry := ⟨6, 0, ⟨9, 7, 0, 0x1000001FFFF, 0x10000010000⟩, false⟩
def grantOf (entries : List GrantEntry) (bds : List Nat) (tdi : Nat) : Grant := ⟨9, 5, bds, entries, tdi⟩

/-- The package with tenant 9 provisioned in session 1 and an image of slot 0's firmware staged. -/
def provisioned (sigOk : Bool) (held : Bool) : State :=
  let s := inSessions (if held then past 1 .running else State.reset)
  let t := s.setDie 6 { s.die 6 with acc := [granted.entry, ⟨7, 0xF, 0, 0x10000000FFF, 0x10000000000⟩], keys := AMap.put [] 1 ⟨9, 5, none⟩ }
  { t with trust := { t.trust with tenants := [⟨9, 1, 0, 5, []⟩], staged := [⟨0, 0xABC, sigOk⟩] } }

/-- TenantsAndRepair, its first part: grants that are known, badly bound, and good; a tenant of the session and of none; images staged and not, held
and not, waiting and not. -/
theorem witness_TenantsAndRepair :
    let s := provisioned true true
    let free := provisioned false false
    let new := inSessions State.reset
    let waiting := { provisioned true false with trust := { (provisioned true false).trust with activations := [(ask 1, 0)] } }
    let own (s : State) (t : BitVec 16) : Bool := (s.trust.tenants.find? fun x => x.tag == t && x.session == 1).isSome
    s.trust.measFail = false ∧ (s.session? 1).map (·.open_) = some true ∧ (∃ t ∈ s.trust.tenants, t.tag = (grantOf [] [] 0).tag) ∧ (new.tdi 16).state = .unlocked ∧ new.trust.tenants = [] ∧
    grantOk granted 9 = true ∧ (new.table 6 0).length < 128 ∧ hostApart (new.table 6 0 ++ [writtenEntry granted.entry 0]) = true ∧ granted.entry.key.toNat % 16 = 0 ∧
    (new.die 6).keys.find 1 = none ∧ (s.die 6).keys.find 1 ≠ none ∧ (s.die 6).keys.find 2 = none ∧ own s 9 = true ∧ own s 8 = false ∧ own new 9 = false ∧
    (s.trust.staged.find? fun x => x.slot == 0).isSome = true ∧ (s.trust.staged.find? fun x => x.slot == 1).isSome = false ∧ (s.launches.any fun l => l.bind.any fun p => p.2 == 0) = true ∧
    free.launches = [] ∧ (free.trust.staged.map (·.sigOk)) = [false] ∧ waiting.launches = [] ∧ (ask 1, 0) ∈ waiting.trust.activations ∧ free.trust.activations = [] := by decide +kernel

/-- TenantsAndRepair, changes and releases that go on: a REPROVISION with what the old entries admitted on its way and without, asked again or not; a
RELEASE that waits for a host request of its tenant, one whose tenant's team has stopped, and one without. -/
theorem witness_TenantsAndRepair_waits :
    let s := provisioned true false
    let g := grantOf [] [] 0
    let h : HeldReq := ⟨⟨3, BitVec.ofNat 56 (paOf 6 0x10000010000), 8, false, 0, none⟩, none, 0⟩
    let w : State := { s.setTdi 3 ⟨.run, false, 9, [], []⟩ with mgmt := { s.mgmt with hostHeld := [h] } }
    let asked : State := { s with trust := { s.trust with changes := [(ask 1, g, [], [])] } }
    let waits : State := { w with trust := { w.trust with changes := [(ask 1, g, [], [h])] } }
    let own (s : State) : Bool := (s.trust.tenants.find? fun x => x.tag == 9 && x.session == 1).isSome
    let r := provisioned true true
    let mine : State := { r with mem := writeBytes r.mem (imagePa 0 128) (bytesOf 2 9) }
    let begun (s : State) : State := ({ s with trust := { s.trust with releases := [(ask 1, 9, true)] } } : State).releaseBegin 9 true
    (s.trust.changes.find? fun c => c.1 == ask 1 && c.2.1 == g) = none ∧ own s = true ∧ g.entries = [] ∧ s.drained (s.admitted 9) = true ∧ w.drained (w.admitted 9) = false ∧
    (asked.trust.changes.find? fun c => c.1 == ask 1 && c.2.1 == g) = some (ask 1, g, [], []) ∧ asked.drained ([], []) = true ∧ waits.drained ([], [h]) = false ∧
    s.trust.releases = [] ∧ (begun s).releaseQuiet 9 = true ∧ (begun mine).releaseQuiet 9 = true ∧ (begun mine).launches.length = 1 ∧ (begun w).releaseQuiet 9 = false ∧ (ask 1, 9, true) ∈ (begun mine).trust.releases := by decide +kernel

/-- R351, R354, R355, R359, R360: a tenant is provisioned, and released; firmware that can take effect, is held, and is not signed. -/
theorem test_tenants :
    let new := inSessions State.reset
    let p := nxt (exec (.provision (ask 1) (grantOf [granted] [] 3)) new)
    let k := nxt (exec (.provision (ask 1) (grantOf [] [6] 0)) new)
    let bad := nxt (exec (.provision (ask 1) (grantOf [granted, granted, { granted with slot := 40 }] [6] 3)) new)
    let r := provisioned true true
    let z := nxt (exec (.release (ask 1) 9 true) r)
    let fw (s : State) : BitVec 256 × Nat := ((s.die 0).fwDigest, s.trust.staged.length)
    let act (s : State) : State := nxt (exec (.firmwareActivate (ask 1) 0) s)
    (p.table 6 0) = [⟨9, 0xF, 0, 0x1000001FFFF, 0x10000010000⟩] ∧ (p.tdi 3).tenant = 9 ∧ p.trust.tenants.map (·.tag) = [9] ∧ (k.die 6).keys.find 1 = some ⟨9, 5, none⟩ ∧
    (bad.outbox, bad.trust.tenants.length) = ([.spdm 1 .failed], 0) ∧ (bad.table 6 0).length = 0 ∧
    z.trust.tenants.length = 0 ∧ z.outbox.getLast? = some (.spdm 1 .done) ∧ fw (act (provisioned true false)) = (0xABC, 0) ∧ fw (act r) = (0, 1) ∧ (act r).trust.activations = [(ask 1, 0)] ∧
    (act (provisioned false false)).outbox = [.spdm 1 (.error .invalidRequest)] ∧ fw (act (provisioned false false)) = (0, 0) ∧
    (nxt (exec (.firmwareStage (ask 1) ⟨5, 1, true⟩) new)).mgmt.health = 0x2000000000 := by decide +kernel

/-- A packet for SD slot 8 from package 5, and the table of that SD, which admits tenant 7 on port 0, joined; a checkpoint of BD 6 in a copy and in the store. -/
def packet (n : Nat) (auth : Bool) : PodPacket := ⟨0, n, auth, ⟨9, 5, 0, 7, 1, 1, []⟩, false⟩
def podded : State :=
  let s := State.reset
  { s.setDie 8 { s.die 8 with acc := [⟨7, 0xF, 0, 0xFFFF, 0⟩] } with mgmt := { s.mgmt with podcfg := 0x1000 } }
def copied : SafeCopy := ⟨0, 6, 3, ⟨4, [(paOf 6 0x10000000100, [1, 2])], 9⟩, [some (7, 0)]⟩
def safeTier (ctl rst : Nat) (store : List SafeCopy) : State :=
  let s := State.reset
  let t := s.setDie 7 { s.die 7 with acc := [⟨7, 0xF, 0, 0x1000000FFFF, 0x10000000000⟩], ckpt := AMap.put [] 3 ⟨4, some copied.gen, none⟩, keys := AMap.put [] 1 ⟨7, 0, none⟩ }
  { t with mgmt := { t.mgmt with safectl := BitVec.ofNat 64 ctl, saferst := BitVec.ofNat 64 rst }, trust := { t.trust with safeCopies := store, copying := [copied] } }

/-- TenantsAndRepair, its second part: a key held, being reloaded, and absent; packets taken and not; a copy and a restore that run, and not; a
restore with a copy whose extents are covered, and with none. -/
theorem witness_TenantsAndRepair_second :
    let s := provisioned true true
    let k := s.setDie 6 { s.die 6 with keys := AMap.put [] 1 ⟨9, 5, some 100⟩ }
    let go := 7 * 2 ^ 32 + 6 * 2 ^ 40 + 3 * 2 ^ 24
    let r := safeTier 0 go [copied]
    (s.die 6).keys.find 1 = some ⟨9, 5, none⟩ ∧ (s.die 6).keys.find 2 = none ∧ ((k.die 6).keys.find 1).map (·.reload) = some (some 100) ∧ k.ptick = 100 ∧
    podded.podAdmits 8 (packet 0 true) = true ∧ AMap.getD podded.trust.podNext (5 * 65536 + 9) 0 = 0 ∧ podded.podAdmits 8 ⟨1, 0, true, (packet 0 true).msg, false⟩ = false ∧
    r.mgmt.saferst.toNat / 2 ^ 32 % 256 = 7 ∧ (r.trust.safeCopies.find? fun c => c.pkg.toNat == r.mgmt.saferst.toNat / 2 ^ 52 && c.slot == r.mgmt.saferst.toNat / 2 ^ 40 % 256 && c.set_ == r.mgmt.saferst.toNat / 2 ^ 24 % 256) = some copied ∧
    r.slotGone 7 = false ∧ (accEntryFor (r.die 7).acc 7 (paOff (paOf 6 0x10000000100))).isSome = true ∧ (accEntryFor (r.die 7).acc 7 (paOff (paOf 6 0x10000000100) + 1)).isSome = true ∧
    (safeTier 0x10001 (2 ^ 48) []).mgmt.safectl.toNat / 2 ^ 16 % 16 = 1 ∧ (safeTier 0x10001 (2 ^ 48) []).mgmt.saferst.toNat / 2 ^ 48 % 16 = 1 ∧
    s.launches.map (fun l => l.streams.map fun y => (y.team, y.eng.slot)) = [[(0, 0)]] := by decide +kernel

/-- TenantsAndRepair, the pod and the safe tier: a packet with more to follow, of a port that is joined and one that is not; one that was sent; a copy whose
extent is resealed, and one whose tenant has no key there. -/
theorem witness_TenantsAndRepair_pod :
    let p : PodPacket := { packet 0 true with more := true }
    let k : State := { podded with trust := { podded.trust with podKept := [packet 0 true] } }
    let go := 7 * 2 ^ 32 + 6 * 2 ^ 40 + 3 * 2 ^ 24
    let r := safeTier 0 go [copied]
    let bare := r.setDie 7 { r.die 7 with keys := [] }
    podded.podAdmits 8 p = true ∧ p.port < 12 ∧ podded.mgmt.podcfg.getLsbD 12 = true ∧ podded.mgmt.podcfg.getLsbD 13 = false ∧ p.msg.payload.length ≤ 9000 ∧ dieKind 8 = some .sd ∧
    (packet 0 true).port / 3 = 8 / 9 ∧ packet 0 true ∈ k.trust.podKept ∧ podded.trust.podKept = [] ∧
    r.resealFor 7 (paOf 6 0x10000000100) [1, 2] (some (7, 0)) = some [1, 2] ∧ bare.resealFor 7 (paOf 6 0x10000000100) [1, 2] (some (7, 0)) = none := by decide +kernel

/-- R356, R357, R358, R435, R447: a lost key; packets in and out of order; a copy and a restore. -/
theorem test_repair :
    let s := provisioned true true
    let sealed := s.setDie 6 { s.die 6 with acc := [{ granted.entry with key := 1, rights := 0xF }] }
    let t := nxt (exec (.keySlotEccFailure 6 1 false) sealed)
    let p := nxt (exec (.podPacketReceive 8 (packet 0 true)) podded)
    let c := nxt (exec .safeTierCopy (safeTier 0x300 0 []))
    let r := nxt (exec .safeRestore (safeTier 0 (7 * 2 ^ 32 + 6 * 2 ^ 40 + 3 * 2 ^ 24) [copied]))
    (t.die 6).keys.length = 0 ∧ (t.die 6).acc.map (·.rights) = [7] ∧ (p.die 8).messages.length = 1 ∧ nxt (exec (.podPacketReceive 8 (packet 0 true)) p) = p ∧
    nxt (exec (.podPacketReceive 8 (packet 0 false)) podded) = podded ∧ (nxt (exec (.podPacketReceive 8 (packet 1 true)) p)).trust.podNext.getD (5 * 65536 + 9) 0 = 2 ∧
    (nxt (exec (.podJoin 0x123 0xABC) podded)).mgmt.podcfg = 0xABC123 ∧ c.mgmt.safectl = 0x10301 ∧ c.trust.copying.map (fun x => (x.slot, x.set_)) = [(7, 3)] ∧
    (nxt (exec (.safeTierCopyDone true) c)).trust.safeCopies.map (·.slot) = [7] ∧ (nxt (exec (.safeTierCopyDone false) c)).mgmt.safectl = 0x30300 ∧
    r.bytes (paOf 7 0x10000000100) 2 = [1, 2] ∧ (nxt (exec (.safeRestoreDone true) r)).mgmt.saferst.toNat / 2 ^ 48 % 16 = 2 := by decide +kernel

end
end

section
/-! PROOFS. Host requests and writes of management registers (14 R347, R352, R353, 24 R446, R455, 00 R4): what the host reads and
writes of memory, what a request gets by the verdict of the tables, and what a write does to a register. -/

namespace Sys2Proof.Machine

/-! ## Fields and bytes of a register -/

theorem fld_low {w : Nat} (v : BitVec w) (n : Nat) : fld v 0 n = v.toNat % 2 ^ n := by
  simp [fld, BitVec.extractLsb'_toNat]

theorem fld_high_half (v : Word) : fld v 32 32 = v.toNat / 2 ^ 32 := by
  have := v.isLt
  simp only [fld, BitVec.extractLsb'_toNat, Nat.shiftRight_eq_div_pow]
  omega

/-- Reading a register byte by byte gives its little-endian bytes (R3). -/
theorem bytesOf_eq_map_extractLsb' {w : Nat} (v : BitVec w) (n : Nat) :
    bytesOf n v.toNat = (List.range n).map fun k => v.extractLsb' (8 * k) 8 := by
  have general (m : Nat) : bytesOf n m = (List.range n).map fun k => BitVec.ofNat 8 (m / 2 ^ (8 * k)) := by
    induction n generalizing m with
    | zero => rfl
    | succ n ih =>
      rw [bytesOf, ih, List.range_succ_eq_map, List.map_cons, List.map_map]
      congr 1
      · simp
      · refine List.map_congr_left fun k _ => ?_
        have shift : 2 ^ (8 * (k + 1)) = 256 * 2 ^ (8 * k) := by rw [Nat.mul_succ, Nat.pow_add, Nat.mul_comm]
        rw [Function.comp_apply, Nat.div_div_eq_div_mul, shift]
  simp only [general, BitVec.extractLsb', Nat.shiftRight_eq_div_pow]

theorem byte_of_word_offset {off k : Nat} (h : off % 8 = 0) (hk : k < 8) : (off + k) / 8 * 8 = off ∧ (off + k) % 8 = k := by
  omega

/-! ## Memory as the host sees it (R116, R372, R455) -/

@[simp] theorem overlay_length (pa : Nat) (bs : List Byte) (q : Nat) (d : List Byte) : (overlay pa bs q d).length = bs.length := by
  unfold overlay
  split
  · simp
  · rfl

@[simp] theorem State.view_length (s : State) (g : Agent) (pa n : Nat) : (s.view g pa n).length = n := by
  refine List.foldlRecOn _ _ (motive := fun bs : List Byte => bs.length = n) (by simp [State.bytes, readBytes_eq]) fun bs hbs a _ => ?_
  exact List.foldlRecOn _ _ (motive := fun bs : List Byte => bs.length = n) hbs fun bs hbs k _ => by simpa using hbs

/-- A byte of a run that touches no poisoned unit is in none. -/
theorem State.poisoned_byte_of_run {s : State} {pa n i : Nat} (h : s.poisoned pa n = false) (hi : i < n) : s.poisoned (pa + i) 1 = false := by
  simp only [State.poisoned, List.any_eq_false, Bool.and_eq_true, decide_eq_true_eq, not_and] at *
  intro u hu
  have := h u hu
  omega

theorem State.hostBytes_of_not_poisoned {s : State} {pa n : Nat} (h : s.poisoned pa n = false) : s.hostBytes pa n = s.view .host pa n := by
  apply List.ext_getElem
  · simp [State.hostBytes]
  · intro i hi _
    have hin : i < n := by simpa [State.hostBytes] using hi
    simp [State.hostBytes, State.poisoned_byte_of_run h hin]

theorem State.cutUnit_of_no_poison {s : State} (h : s.poison = []) (pa n a : Nat) : s.cutUnit pa n a = false := by
  simp [State.cutUnit, h]

theorem State.hostStore_of_no_poison {s : State} (h : s.poison = []) (pa : Nat) (bs : List Byte) : s.hostStore pa bs = s.store pa bs := by
  have whole : (List.range bs.length).zipWith (fun i (p : Byte × Byte) => if s.cutUnit pa bs.length (pa + i) then p.1 else p.2)
      ((s.bytes pa bs.length).zip bs) = bs := by
    apply List.ext_getElem
    · simp [State.bytes, readBytes_eq]
    · simp [State.cutUnit_of_no_poison h]
  rw [State.hostStore, whole]

theorem State.store_of_no_poison {s : State} (h : s.poison = []) (pa : Nat) (bs : List Byte) :
    s.store pa bs = { s with mem := (s.store pa bs).mem, written := (s.store pa bs).written } := by
  simp [State.store, h]

theorem State.byteAt_store (s : State) (pa : Nat) (bs : List Byte) (a : Nat) :
    byteAt (s.store pa bs).mem a = if pa ≤ a ∧ a < pa + bs.length then bs.getD (a - pa) 0 else byteAt s.mem a := by
  split
  · exact byteAt_writeBytes_in s.mem pa bs a (by omega) (by omega)
  · exact byteAt_writeBytes_out s.mem pa bs a (by omega)

/-! ## Serving a request -/

/-- A read of memory that nothing holds is served (R455). -/
theorem State.hostMemory_read {s : State} {h : HostReq} (hr : s.hostReady ⟨h, none, s.ptick⟩ = true) (hg : s.slotGone (paSlot h.pa.toNat) = false)
    (hp : s.poisoned h.pa.toNat h.len = false) :
    s.hostMemory h none = s.complete h .success (s.view .host h.pa.toNat h.len) := by
  simp [State.hostMemory, hr, State.hostEnd, hg, State.hostServe, hp, State.hostBytes_of_not_poisoned]

/-- A write of memory that nothing holds is served (R455). -/
theorem State.hostMemory_write {s : State} {h : HostReq} {bs : List Byte} (hr : s.hostReady ⟨h, some bs, s.ptick⟩ = true)
    (hg : s.slotGone (paSlot h.pa.toNat) = false) (hp : s.poison = []) :
    s.hostMemory h (some bs) = (s.store h.pa.toNat bs).complete h .success [] := by
  simp [State.hostMemory, hr, State.hostEnd, hg, State.hostServe, State.hostStore_of_no_poison hp, State.cutUnit_of_no_poison hp]

/-- Whether an address is served as memory: it names neither a register nor an image slot. -/
def Place.isMemory (p : Place) : Prop := match p with | .mgmt _ => False | .sched _ => False | _ => True

theorem State.hostFetch_memory {s : State} {h : HostReq} (hm : (placeOf h.pa.toNat).isMemory) : s.hostFetch h = s.hostMemory h none := by
  unfold State.hostFetch
  split <;> simp_all [Place.isMemory]

theorem State.hostPut_memory {s : State} {h : HostReq} {bs : List Byte} (hm : (placeOf h.pa.toNat).isMemory) :
    s.hostPut h bs = s.hostMemory h (some bs) := by
  unfold State.hostPut
  split <;> simp_all [Place.isMemory]

theorem State.tdiShut_of_not_tdi (s : State) {fn : Nat} (h : isTdi fn = false) (image queue : Option Nat) : s.tdiShut fn image queue = false := by
  simp [State.tdiShut, h]

/-- A read of a whole register completes with its value (R4). -/
theorem State.hostFetch_register {s : State} {h : HostReq} {off : Nat} {r : MReg} (hp : placeOf h.pa.toNat = .mgmt off) (ht : isTdi h.fn = false)
    (ho : off % 8 = 0) (hl : h.len = 8) (hr : mregAt off = some r) :
    s.hostFetch h = s.complete h .success (bytesOf 8 (s.readReg r).toNat) := by
  have hbytes : (List.range 8).map (fun k => s.regByte h.fn (off + k)) = bytesOf 8 (s.readReg r).toNat := by
    rw [bytesOf_eq_map_extractLsb']
    refine List.map_congr_left fun k hk => ?_
    obtain ⟨hword, hbyte⟩ := byte_of_word_offset ho (List.mem_range.1 hk)
    simp [State.regByte, hword, hbyte, hr, State.tdiShut_of_not_tdi s ht]
  simp only [State.hostFetch, hp, hl, hbytes]

/-- A denied request counted in DENYLOG: its master and its slot stand there until the next one (R446). -/
def State.denied (s : State) (h : HostReq) : State :=
  { s with mgmt := { s.mgmt with
    denylog := BitVec.ofNat 64 (min (s.mgmt.denylog.toNat / 2 ^ 32 + 1) 0xFFFFFFFF * 2 ^ 32 + (s.hostMaster h.fn).toNat * 2 ^ 16 +
      paSlot h.pa.toNat * 2 ^ 8) } }

theorem State.denyHost_of_not_tdi (s : State) {h : HostReq} (ht : isTdi h.fn = false) : s.denyHost h = (s.denied h).complete h .unsupported [] := by
  simp only [State.denyHost, ht, Bool.false_and, Bool.false_eq_true, if_false, fld_high_half, State.updMgmt, State.denied]

/-! ## Requests that reach the tables, and those that do not -/

/-- A request that the HD judges: the HD is there, the function exists, and the link takes the request in plain (R347, R434, R455). -/
structure State.Reaches (s : State) (h : HostReq) : Prop where
  up : (s.die 36).phase ≠ .lost
  function : h.fn ≤ 16
  plain : h.ide = none
  stream : h.stream ∉ s.trust.ideOn

/-- The length of a write is that of its bytes; it reaches the tables as the request does. -/
theorem State.Reaches.withLen {s : State} {h : HostReq} (hr : s.Reaches h) (n : Nat) : s.Reaches { h with len := n } :=
  ⟨hr.up, hr.function, hr.plain, hr.stream⟩

theorem State.Reaches.ideTake {s : State} {h : HostReq} (hr : s.Reaches h) : s.ideTake h = some s := by
  simp [State.ideTake, hr.plain, hr.stream]

/-- IDE rejects what fails integrity, names no stream of the port, or is plaintext where IDE is on (R347, log 64). -/
theorem State.ideTake_rejects {s : State} {h : HostReq}
    (hi : h.ide = some false ∨ (h.ide = some true ∧ 8 < h.stream) ∨ (h.ide = none ∧ h.stream ∈ s.trust.ideOn)) : s.ideTake h = none := by
  rcases hi with hi | ⟨hi, hs⟩ | ⟨hi, hs⟩ <;> simp [State.ideTake, *]

section
variable {s : State} {h : HostReq} {bs : List Byte}

theorem execHostRead_no_function (hup : (s.die 36).phase ≠ .lost) (hf : 16 < h.fn) :
    execHostRead h s = .next (s.complete h .unsupported []) := by
  simp [execHostRead, hup, hf]

theorem execHostWrite_no_function (hup : (s.die 36).phase ≠ .lost) (hf : 16 < h.fn) :
    execHostWrite h bs s = .next (s.complete { h with len := bs.length } .unsupported []) := by
  simp [execHostWrite, hup, hf]

theorem execHostRead_rejected (hf : h.fn ≤ 16) (hi : s.ideTake h = none) : execHostRead h s = .next s := by
  simp [execHostRead, Nat.not_lt.2 hf, hi]

theorem execHostWrite_rejected (hf : h.fn ≤ 16) (hi : s.ideTake { h with len := bs.length } = none) : execHostWrite h bs s = .next s := by
  simp [execHostWrite, Nat.not_lt.2 hf, hi]

theorem execHostRead_shut (hr : s.Reaches h) (hs : s.hostShut h = true) :
    execHostRead h s = .next (s.complete h .success (List.replicate h.len 0xFF)) := by
  simp [execHostRead, hr.up, Nat.not_lt.2 hr.function, hr.ideTake, hs]

theorem execHostRead_admitted (hr : s.Reaches h) (ho : s.hostShut h = false)
    (hv : s.hostJudge (s.hostMaster h.fn) rRead h.pa.toNat h.len = .ok) : execHostRead h s = .next (s.hostFetch h) := by
  simp [execHostRead, hr.up, Nat.not_lt.2 hr.function, hr.ideTake, ho, hv]

theorem execHostRead_denied (hr : s.Reaches h) (ho : s.hostShut h = false)
    (hv : s.hostJudge (s.hostMaster h.fn) rRead h.pa.toNat h.len = .denied) (ht : isTdi h.fn = false) :
    execHostRead h s = .next ((s.denied h).complete h .unsupported []) := by
  simp [execHostRead, hr.up, Nat.not_lt.2 hr.function, hr.ideTake, ho, hv, s.denyHost_of_not_tdi ht]

theorem execHostRead_unmapped (hr : s.Reaches h) (ho : s.hostShut h = false)
    (hv : s.hostJudge (s.hostMaster h.fn) rRead h.pa.toNat h.len = .unmapped) : execHostRead h s = .next (s.complete h .unsupported []) := by
  simp [execHostRead, hr.up, Nat.not_lt.2 hr.function, hr.ideTake, ho, hv]

theorem execHostWrite_admitted (hr : s.Reaches h) (ho : s.hostShut { h with len := bs.length } = false)
    (hv : s.hostJudge (s.hostMaster h.fn) rWrite h.pa.toNat bs.length = .ok) :
    execHostWrite h bs s = .next (s.hostPut { h with len := bs.length } bs) := by
  simp [execHostWrite, hr.up, Nat.not_lt.2 hr.function, (hr.withLen bs.length).ideTake, ho, hv]

theorem execHostWrite_denied (hr : s.Reaches h) (ho : s.hostShut { h with len := bs.length } = false)
    (hv : s.hostJudge (s.hostMaster h.fn) rWrite h.pa.toNat bs.length = .denied) (ht : isTdi h.fn = false) :
    execHostWrite h bs s = .next ((s.denied h).complete { h with len := bs.length } .unsupported []) := by
  have deny := s.denyHost_of_not_tdi (h := { h with len := bs.length }) ht
  simp only [execHostWrite, hr.up, Nat.not_lt.2 hr.function, (hr.withLen bs.length).ideTake, ho, hv, deny, if_false, Bool.false_eq_true]
  rfl

theorem execHostWrite_unmapped (hr : s.Reaches h) (ho : s.hostShut { h with len := bs.length } = false)
    (hv : s.hostJudge (s.hostMaster h.fn) rWrite h.pa.toNat bs.length = .unmapped) :
    execHostWrite h bs s = .next (s.complete { h with len := bs.length } .unsupported []) := by
  simp [execHostWrite, hr.up, Nat.not_lt.2 hr.function, (hr.withLen bs.length).ideTake, ho, hv]

/-- A read of memory that the tables admit completes with what the host sees there. -/
theorem execHostRead_memory (hr : s.Reaches h) (ho : s.hostShut h = false)
    (hv : s.hostJudge (s.hostMaster h.fn) rRead h.pa.toNat h.len = .ok) (hm : (placeOf h.pa.toNat).isMemory)
    (hready : s.hostReady ⟨h, none, s.ptick⟩ = true) (hg : s.slotGone (paSlot h.pa.toNat) = false)
    (hp : s.poisoned h.pa.toNat h.len = false) :
    execHostRead h s = .next (s.complete h .success (s.view .host h.pa.toNat h.len)) := by
  rw [execHostRead_admitted hr ho hv, State.hostFetch_memory hm, State.hostMemory_read hready hg hp]

/-- A read of a whole register that the tables admit completes with its value. -/
theorem execHostRead_register {off : Nat} {r : MReg} (hr : s.Reaches h) (ho : s.hostShut h = false)
    (hv : s.hostJudge (s.hostMaster h.fn) rRead h.pa.toNat h.len = .ok) (hp : placeOf h.pa.toNat = .mgmt off) (ht : isTdi h.fn = false)
    (h8 : off % 8 = 0) (hl : h.len = 8) (hreg : mregAt off = some r) :
    execHostRead h s = .next (s.complete h .success (bytesOf 8 (s.readReg r).toNat)) := by
  rw [execHostRead_admitted hr ho hv, State.hostFetch_register hp ht h8 hl hreg]

/-- A write of memory that the tables admit stores its bytes and completes. -/
theorem execHostWrite_memory (hr : s.Reaches h) (ho : s.hostShut { h with len := bs.length } = false)
    (hv : s.hostJudge (s.hostMaster h.fn) rWrite h.pa.toNat bs.length = .ok) (hm : (placeOf h.pa.toNat).isMemory)
    (hready : s.hostReady ⟨{ h with len := bs.length }, some bs, s.ptick⟩ = true) (hg : s.slotGone (paSlot h.pa.toNat) = false)
    (hp : s.poison = []) :
    execHostWrite h bs s = .next ((s.store h.pa.toNat bs).complete { h with len := bs.length } .success []) := by
  rw [execHostWrite_admitted hr ho hv, State.hostPut_memory (h := { h with len := bs.length }) hm, State.hostMemory_write hready hg hp]

end

/-! ## Writes of registers (R4) -/

theorem execRegisterWrite_register {off : Nat} {r : MReg} (hr : mregAt off = some r) (v : Word) (s : State) :
    execRegisterWrite off v s = .next (s.writeReg r v) := by
  simp [execRegisterWrite, hr]

theorem execRegisterWrite_nothing {off : Nat} (hr : mregAt off = none) (v : Word) (s : State) : execRegisterWrite off v s = .next s := by
  simp [execRegisterWrite, hr]

/-- A register without a field that software writes keeps its value (R4). -/
def MReg.readOnly : MReg → Bool
  | .mixw _ | .arithrev | .ptick | .orient _ | .zero | .lstat _ | .eparam _ | .ebyte | .domop _ | .podcfg | .incarn _ => true
  | _ => false

theorem State.writeReg_readOnly (s : State) {r : MReg} (hr : r.readOnly = true) (v : Word) : s.writeReg r v = s :=
  match r, hr with
  | .mixw _, _ | .arithrev, _ | .ptick, _ | .orient _, _ | .zero, _ | .lstat _, _ | .eparam _, _ | .ebyte, _ | .domop _, _ | .podcfg, _
  | .incarn _, _ => rfl

theorem execRegisterWrite_readOnly {off : Nat} (hr : (mregAt off).any MReg.readOnly = true) (v : Word) (s : State) :
    execRegisterWrite off v s = .next s := by
  obtain ⟨r, hat, hro⟩ := (Option.any_eq_true _ _).1 hr
  rw [execRegisterWrite_register hat, s.writeReg_readOnly hro]

/-- The cap is held to 1,000 to 8,400 (R342). -/
theorem execPcapWrite_eq (v : Word) (s : State) :
    execPcapWrite v s = .next { s with gov := { s.gov with pcap := BitVec.ofNat 64 (max 1000 (min 8400 (v.toNat % 2 ^ 16))) } } := by
  rw [execPcapWrite, capOf, fld_low]

/-- Only a write of 0 clears a trip's cause (R438). -/
theorem execTripcauseWrite_eq (slot : Nat) (v : Word) (s : State) :
    execTripcauseWrite slot v s =
      .next (if slot ≤ 36 ∧ v.toNat % 256 = 0 then s.setDie slot { s.die slot with tripCause := 0 } else s) := by
  simp [execTripcauseWrite, event, fld_low, State.updDie]

/-- Settles O48: a request that reaches the tables gets what their verdict gives, memory as the host sees it or a register's value; one that
IDE rejects (log 64) leaves the state; a register takes what R4 lets software write. -/
theorem hostRequests : Obligations.HostRequests := by
  unfold Obligations.HostRequests
  intro s h bs v slot k r pa q up ide master memory ready open_ ends counted write mgmt gov
  have reaches (hup : up) (hf : h.fn ≤ 16) (hi : ide) : s.Reaches h := ⟨hup, hf, hi.1, hi.2⟩
  have wrote {off : Nat} (r : MReg) (hr : mregAt off = some r) : write off (s.writeReg r v) := execRegisterWrite_register hr v s
  refine ⟨?noFunction, ?judged, ?shut, ?rejected, ?nothing, ?readOnly, ?govcfg, ?drisk, ?spillbase, ?flog, ?fltcfg, ?fresp0, ?pcapRegister, ?pcap,
    ?tripcauseZero, ?tripcauseOther⟩
  case noFunction => exact fun hup hf => ⟨execHostRead_no_function hup hf, execHostWrite_no_function hup hf⟩
  case judged =>
    intro hup hf hi ho hoq
    have hr := reaches hup hf hi
    refine ⟨?readMemory, ?readDenied, fun hv => execHostRead_unmapped hr ho hv, ?readRegister, ?writeMemory, ?writeDenied, fun hv =>
      execHostWrite_unmapped hr hoq hv⟩
    case readMemory => exact fun hv hm hready hp => execHostRead_memory hr ho hv hm hready.1 hready.2 hp
    case readDenied => exact fun hv ht => execHostRead_denied hr ho hv ht
    case readRegister =>
      intro hv ht hpa hl hplace hreg
      have h8 : paOff pa % 8 = 0 := by simp only [paOff]; omega
      exact execHostRead_register hr ho hv hplace ht h8 hl hreg
    case writeMemory =>
      exact fun hv hm hready hp => ⟨s.store pa bs, execHostWrite_memory hr hoq hv hm hready.1 hready.2 hp, State.store_of_no_poison hp pa bs,
        s.byteAt_store pa bs⟩
    case writeDenied => exact fun hv ht => execHostWrite_denied hr hoq hv ht
  case shut => exact fun hup hf hi hs => execHostRead_shut (reaches hup hf hi) hs
  case rejected =>
    exact fun hf hi => ⟨execHostRead_rejected hf (State.ideTake_rejects hi), execHostWrite_rejected hf (State.ideTake_rejects hi)⟩
  case nothing => exact fun hr => execRegisterWrite_nothing hr v s
  case readOnly =>
    have untouched : ∀ o ∈ [0x80000000, 0x80000028, 0x80000030, 0x80000100, 0x80130140, 0x80140008, 0x80150800],
        (mregAt o).any MReg.readOnly = true := by decide +kernel
    exact fun o ho => execRegisterWrite_readOnly (untouched o ho) v s
  case govcfg => exact wrote .govcfg rfl
  case drisk => exact wrote .drisk rfl
  case spillbase => exact wrote .spillbase rfl
  case flog => exact wrote .flog rfl
  case fltcfg => exact wrote .fltcfg rfl
  case fresp0 => exact wrote .fresp0 rfl
  case pcapRegister => exact (execRegisterWrite_register (off := 0x80130008) (r := .pcap) rfl v s).trans (execPcapWrite_eq v s)
  case pcap => exact execPcapWrite_eq v s
  case tripcauseZero => exact fun hs hv => (execTripcauseWrite_eq slot v s).trans (by rw [if_pos ⟨hs, hv⟩])
  case tripcauseOther => exact fun hv => (execTripcauseWrite_eq slot v s).trans (by rw [if_neg fun h => hv h.2])

end Sys2Proof.Machine
end

section
/-! PROOFS. Transfers (10 R250, R259, R274): a `cwr` has no payload, yet the statement speaks of every transfer of that form, and one that has
begun and still holds extents to write back writes them. -/

namespace Sys2Proof.Machine

/-- A `cwr` that has begun and holds an extent to write back, which the model issues for `ckget` only (R274). -/
def cwrWithExtent : Transfer :=
  { id := 1, form := .cwr, d0 := 0, d1 := 0, d2 := 0, tile := false, cword := none, cval := 0, cls := 0, scope := 0, ckset := 0, base := 0,
    len := 0, follow := 0, target := 0, record := none, due := 0, uid := 0, pc := 0, begun := true, got := [], wrote := [], counts := [],
    exts := [(0, [1])], moved := false, waits := [] }

/-- The copy engine of cluster 0 of slot 0. -/
def copyEngine : EngId := ⟨0, 0, 16⟩

/-- The package after power-on, with that `cwr` alone on channel 0 of the copy engine. -/
def cwrWithExtentIssued : State :=
  State.reset.updEng copyEngine fun e => { e with chans := e.chans.set 0 { e.chans[0] with out := [cwrWithExtent] } }

/-- Its event writes the extent back: memory changes. -/
theorem cwrWithExtent_writes_memory {t : State} (h : exec (.transferComplete copyEngine 0 1) cwrWithExtentIssued = .next t) :
    t.mem ≠ cwrWithExtentIssued.mem := by
  have writes : (match execTransferComplete copyEngine 0 1 cwrWithExtentIssued with | .next t => t.mem | _ => []) = [(0, 1)] := by decide +kernel
  rw [exec_transferComplete] at h
  rw [h] at writes
  simp only [writes]
  decide +kernel

/-- Refutes O39: its clause on a `cwr` that starts leaves memory alone, and does not ask that the transfer has no extents to write back. -/
theorem not_transfersComplete : ¬ Obligations.TransfersComplete := by
  unfold Obligations.TransfersComplete
  intro h
  obtain ⟨payload, -, -⟩ := h cwrWithExtentIssued copyEngine 0 1 0 0 0 0 cwrWithExtent [] [] ⟨none, [], []⟩ ⟨[], [], []⟩ ⟨[], [], []⟩ ⟨0, 0, 0, 0⟩ 0
  obtain ⟨cwrMoves, -, -⟩ := payload (by decide +kernel) rfl (by decide +kernel)
  obtain ⟨t, hgo, hframe, -⟩ := cwrMoves rfl
  have unchanged : t.mem = cwrWithExtentIssued.mem := by rw [hframe]
  exact cwrWithExtent_writes_memory hgo unchanged

end Sys2Proof.Machine
end

section
/-! PROOFS. Image slots, invalidates, shape entries and cache sizes (12 R309, R310, 04 R98, R103, R104, R454): what a slot's bytes read after
each operation, what a commit seals, what an invalidate leaves of each die, and when the tables are written. -/

namespace Sys2Proof.Machine

/-! ## Reading after a store (R116) -/

/-- Bytes that read alike one by one read alike as a run. -/
theorem State.bytes_congr {s t : State} {pa n : Nat} (h : ∀ a, pa ≤ a → a < pa + n → byteAt t.mem a = byteAt s.mem a) :
    t.bytes pa n = s.bytes pa n := by
  simp only [State.bytes, readBytes_eq]
  refine List.map_congr_left fun k hk => ?_
  have := List.mem_range.1 hk
  exact h (pa + k) (by omega) (by omega)

theorem State.byteAt_store_out (s : State) (pa : Nat) (bs : List Byte) {a : Nat} (h : a < pa ∨ pa + bs.length ≤ a) :
    byteAt (s.store pa bs).mem a = byteAt s.mem a := byteAt_writeBytes_out s.mem pa bs a h

theorem State.bytes_store_same (s : State) (pa : Nat) {bs : List Byte} {n : Nat} (h : bs.length = n) : (s.store pa bs).bytes pa n = bs := by
  subst h
  exact readBytes_writeBytes s.mem pa bs

theorem State.bytes_store_apart (s : State) {pa q n : Nat} {bs : List Byte} (h : q + n ≤ pa ∨ pa + bs.length ≤ q) :
    (s.store pa bs).bytes q n = s.bytes q n :=
  State.bytes_congr fun _ _ _ => s.byteAt_store_out pa bs (by omega)

/-- A part of a run of bytes is the run of that part. -/
theorem State.take_bytes (s : State) (pa k n : Nat) : (s.bytes pa n).take k = s.bytes pa (min k n) := by
  simp only [State.bytes, readBytes_eq, ← List.map_take, List.take_range]

theorem State.drop_bytes (s : State) (pa k n : Nat) : (s.bytes pa n).drop k = s.bytes (pa + k) (n - k) := by
  apply List.ext_getElem
  · simp [State.bytes, readBytes_eq]
  · intro i _ _
    simp [State.bytes, readBytes_eq, Nat.add_assoc]

/-- `t` differs from `s` in memory, poison and written bits at most. -/
def State.MemoryOnly (s t : State) : Prop := t = { s with mem := t.mem, poison := t.poison, written := t.written }

theorem State.MemoryOnly.refl (s : State) : s.MemoryOnly s := rfl

theorem State.MemoryOnly.store {s t : State} (h : s.MemoryOnly t) (pa : Nat) (bs : List Byte) : s.MemoryOnly (t.store pa bs) := by
  rw [State.MemoryOnly] at *
  rw [h]
  rfl

@[simp] theorem bytesOf_length (n v : Nat) : (bytesOf n v).length = n := by
  induction n generalizing v with
  | zero => rfl
  | succ n ih => rw [bytesOf, List.length_cons, ih]

theorem event_due {due : Bool} (s t : State) (h : due = true) : event s due t = .next t := by rw [event, if_pos h]

theorem event_idle {due : Bool} (s t : State) (h : due = false) : event s due t = .next s := by simp [event, h]

/-! ## Image slots (12 R310) -/

@[simp] theorem State.image_updImage (s : State) (i : Nat) (f : ImageSlot → ImageSlot) : (s.updImage i f).image i = f (s.image i) := by
  simp [State.image, State.updImage]

@[simp] theorem State.bytes_updImage (s : State) (i : Nat) (f : ImageSlot → ImageSlot) (pa n : Nat) : (s.updImage i f).bytes pa n = s.bytes pa n := rfl

theorem imagePa_add (i off : Nat) : imagePa i off = imagePa i 0 + off := by
  simp only [imagePa, paOf]
  omega

theorem State.byteAt_wipe (s : State) (pa n a : Nat) : byteAt (s.wipe pa n).mem a = if pa ≤ a ∧ a < pa + n then 0 else byteAt s.mem a := by
  split
  case isTrue h => exact byteAt_clearBytes_in s.mem pa n a h.1 h.2
  case isFalse h => exact byteAt_clearBytes_out s.mem pa n a (by omega)

theorem State.mem_poison_wipe (s : State) (pa n a : Nat) : a ∈ (s.wipe pa n).poison ↔ a ∈ s.poison ∧ ¬ (pa ≤ a ∧ a < pa + n) := by
  simp only [State.wipe, List.mem_filter, Bool.not_eq_true', ← Bool.not_eq_true, Bool.and_eq_true, decide_eq_true_eq]

theorem execImageOpen_opens {s : State} {i : Nat} (hi : i < 64) (h : (s.image i).state = 0 ∨ (s.image i).state = 3) :
    execImageOpen i s =
      .next ((s.wipe (imagePa i 0) 0x400000).updImage i fun m => { m with state := 1, inits := [], banks := [], groups := [] }) :=
  event_due _ _ (by simp [hi, h])

theorem execImageOpen_idle {s : State} {i : Nat} (h : (s.image i).state = 1 ∨ (s.image i).state = 2) : execImageOpen i s = .next s :=
  event_idle _ _ (by rcases h with h | h <;> simp [h])

theorem execImageApertureWrite_stores {s : State} {i off : Nat} {bs : List Byte} (hi : i < 64) (h : (s.image i).state = 1)
    (hb : off + bs.length ≤ 0x400000) (x : PatternTables) :
    execImageApertureWrite i off bs x s = .next ((s.store (imagePa i off) bs).updImage i fun m => m.addTables x) :=
  event_due _ _ (by simp [hi, h, hb])

theorem execImageApertureWrite_idle {s : State} {i : Nat} (h : (s.image i).state ≠ 1) (off : Nat) (bs : List Byte) (x : PatternTables) :
    execImageApertureWrite i off bs x s = .next s := event_idle _ _ (by simp [h])

theorem State.imageBusy_iff (s : State) (i : Nat) : s.imageBusy i = true ↔ (∃ l ∈ s.launches, l.image = i) ∨ (s.image i).framesHeld ≠ 0 := by
  simp [State.imageBusy]

/-- LSTAT after a refused unload: error code 1 in its low byte (R310, R318). -/
theorem lstat_refused (v : Word) : fld v 8 56 * 256 + 1 = v.toNat / 256 * 256 + 1 := by
  have := v.isLt
  simp only [fld, BitVec.extractLsb'_toNat, Nat.shiftRight_eq_div_pow]
  omega

theorem execImageUnload_empty {s : State} {i : Nat} (h : (s.image i).state = 0) : execImageUnload i s = .next s := by
  simp [execImageUnload, h]

theorem execImageUnload_busy {s : State} {i : Nat} (hi : i < 64) (h : (s.image i).state ≠ 0) (hb : s.imageBusy i = true) :
    execImageUnload i s = .next (s.updImage i fun m => { m with lstat := BitVec.ofNat 64 (m.lstat.toNat / 256 * 256 + 1) }) := by
  simp [execImageUnload, Nat.not_le.2 hi, h, hb, lstat_refused]

theorem execImageUnload_free {s : State} {i : Nat} (hi : i < 64) (h : (s.image i).state ≠ 0) (hb : s.imageBusy i = false) :
    execImageUnload i s = .next (s.updImage i fun m => { m with state := 0 }) := by
  simp [execImageUnload, Nat.not_le.2 hi, h, hb]

/-! ## Commit (12 R309, R310) -/

theorem Sha.round_length (v : Sha) (w : Word32) (h : v.length = 8) : (v.round w).length = 8 := by
  unfold Sha.round
  split
  · rfl
  · exact h

theorem Sha.foldl_round_length (ws : List Word32) {v : Sha} (h : v.length = 8) : (ws.foldl Sha.round v).length = 8 :=
  List.foldlRecOn ws Sha.round (motive := fun v : Sha => v.length = 8) h fun v hv w _ => v.round_length w hv

theorem shaBlocks_length (n : Nat) (bs : List Byte) {v : Sha} (h : v.length = 8) : (shaBlocks v n bs).length = 8 := by
  induction n generalizing v bs with
  | zero => exact h
  | succ n ih => exact ih _ (by rw [Sha.block, List.length_zipWith, Sha.foldl_round_length _ h, h, Nat.min_self])

/-- A digest has 32 bytes (FIPS 180-4). -/
theorem sha256_length (msg : List Byte) : (sha256 msg).length = 32 := by
  have start : Sha.start.length = 8 := by decide +kernel
  simp only [sha256, List.length_flatMap, List.length_reverse, bytesOf_length, List.map_const',
    List.sum_replicate_nat, shaBlocks_length _ _ start]

/-- Marking the streams writes memory only. -/
theorem State.markReproducible_memoryOnly (s : State) (i : Nat) : s.MemoryOnly (s.markReproducible i) :=
  State.MemoryOnly.store
    (List.foldlRecOn _ _ (motive := s.MemoryOnly) (State.MemoryOnly.refl s) fun _ ht _ _ => ht.store _ _) _ _

/-- The image's promise, once its streams are marked (R309). -/
theorem State.bytes_promise (s : State) (i : Nat) :
    (s.markReproducible i).bytes (imagePa i 88) 1 =
      bytesOf 1 (if (s.allStreams i).all fun p => s.streamReproducible i p.1 p.2 then 1 else 0) := by
  simp only [State.markReproducible, List.all_map, Function.comp_def]
  exact State.bytes_store_same _ _ (bytesOf_length 1 _)

/-- The state a commit that its checks pass leaves. -/
def State.committed (s : State) (i : Nat) : State :=
  ((s.markReproducible i).store (imagePa i 96) ((s.markReproducible i).imageHash i)).updImage i fun m => { m with state := 2 }

theorem execImageCommit_idle {s : State} {i : Nat} (h : (s.image i).state ≠ 1) : execImageCommit i s = .next s := by
  simp [execImageCommit, h]

theorem execImageCommit_fails {s : State} {i : Nat} (hi : i < 64) (h : (s.image i).state = 1) (hok : s.imageOk i = false) :
    execImageCommit i s = .next (s.updImage i fun m => { m with state := 3 }) := by
  simp [execImageCommit, Nat.not_le.2 hi, h, hok]

theorem execImageCommit_commits {s : State} {i : Nat} (hi : i < 64) (h : (s.image i).state = 1) (hok : s.imageOk i = true) :
    execImageCommit i s = .next (s.committed i) := by
  simp [execImageCommit, Nat.not_le.2 hi, h, hok, State.committed]

theorem State.committed_frame (s : State) (i : Nat) :
    s.committed i = { s with
      images := (s.committed i).images, mem := (s.committed i).mem, poison := (s.committed i).poison, written := (s.committed i).written } := by
  have marked := (s.markReproducible_memoryOnly i).store (imagePa i 96) ((s.markReproducible i).imageHash i)
  rw [State.committed]
  rw [State.MemoryOnly] at marked
  rw [marked]
  rfl

theorem State.imageHash_length (s : State) (i : Nat) : (s.imageHash i).length = 32 := sha256_length _

/-- A commit writes its hash field and nothing else of the marked image. -/
theorem State.bytes_committed_apart (s : State) (i : Nat) {off n : Nat} (h : off + n ≤ 96 ∨ 128 ≤ off) :
    (s.committed i).bytes (imagePa i off) n = (s.markReproducible i).bytes (imagePa i off) n := by
  rw [State.committed, State.bytes_updImage, State.bytes_store_apart]
  rw [State.imageHash_length, imagePa_add i off, imagePa_add i 96]
  omega

theorem State.bytes_hash (s : State) (i : Nat) : (s.committed i).bytes (imagePa i 96) 32 = (s.markReproducible i).imageHash i := by
  rw [State.committed, State.bytes_updImage, State.bytes_store_same _ _ (State.imageHash_length _ i)]

/-- The hash sealed in an image is that of the image as the commit leaves it, its hash field taken as zero (R309). -/
theorem State.imageHash_committed (s : State) (i : Nat) : (s.committed i).imageHash i = (s.markReproducible i).imageHash i := by
  have length : (s.committed i).imgLength i = (s.markReproducible i).imgLength i :=
    congrArg natOf (s.bytes_committed_apart i (off := 0) (n := 4) (by omega))
  have before : ((s.committed i).bytes (imagePa i 0) ((s.markReproducible i).imgLength i)).take 96 =
      ((s.markReproducible i).bytes (imagePa i 0) ((s.markReproducible i).imgLength i)).take 96 := by
    rw [State.take_bytes, State.take_bytes]
    exact s.bytes_committed_apart i (.inl (by omega))
  have after : ((s.committed i).bytes (imagePa i 0) ((s.markReproducible i).imgLength i)).drop 128 =
      ((s.markReproducible i).bytes (imagePa i 0) ((s.markReproducible i).imgLength i)).drop 128 := by
    rw [State.drop_bytes, State.drop_bytes, ← imagePa_add]
    exact s.bytes_committed_apart i (.inr (Nat.le_refl _))
  rw [State.imageHash, State.imageHash, length, before, after]

/-- The promise stands just when every stream is reproducible (R146, R309). -/
theorem State.promise_committed (s : State) (i : Nat) :
    (s.committed i).img i 88 1 = 1 ↔ ∀ p ∈ s.allStreams i, s.streamReproducible i p.1 p.2 = true := by
  rw [State.img, s.bytes_committed_apart i (.inl (by omega)), s.bytes_promise, ← List.all_eq_true]
  split <;> simp_all [bytesOf, natOf]

/-! ## Translations (04 R101, R103) -/

theorem AMap.find_map {α β : Type} (m : AMap α) (f : α → β) (i : Nat) : AMap.find (m.map fun p => (p.1, f p.2)) i = (m.find i).map f := by
  induction m with
  | nil => rfl
  | cons p m ih =>
    obtain ⟨k, v⟩ := p
    simp only [List.map_cons, AMap.find]
    split
    · rfl
    · exact ih

theorem AMap.getD_map {α β : Type} (m : AMap α) (f : α → β) (i : Nat) (d : α) :
    AMap.getD (m.map fun p => (p.1, f p.2)) i (f d) = f (m.getD i d) := by
  rw [AMap.getD, AMap.find_map, AMap.getD, Option.getD_map]

theorem MergeEntry.without_nil {m : MergeEntry} (h : m.parts ≠ []) : m.without [] = some m := by
  have kept : m.parts.filter (fun p => !([] : List Nat).contains p.acc) = m.parts := List.filter_eq_self.2 fun _ _ => rfl
  simp only [MergeEntry.without, kept, if_neg h]

theorem filterMap_without_nil {l : List MergeEntry} (h : ∀ x ∈ l, x.parts ≠ []) : l.filterMap (MergeEntry.without · []) = l := by
  induction l with
  | nil => rfl
  | cons x l ih =>
    rw [List.filterMap_cons_some (f := (MergeEntry.without · [])) (MergeEntry.without_nil (h x List.mem_cons_self)), ih fun y hy => h y (List.mem_cons_of_mem x hy)]

/-- Where no entry is empty, taking no access out of the merge buffers changes no die. -/
theorem State.die_leaveEntries_nil (s : State) (k : Nat) (h : ∀ x ∈ (s.die k).merge, x.parts ≠ []) : (s.leaveEntries []).die k = s.die k := by
  have read := AMap.getD_map s.dies (fun d => { d with merge := d.merge.filterMap (MergeEntry.without · []) }) k Die.reset
  exact read.trans (by rw [← State.die, filterMap_without_nil h])

theorem State.die_updDie (s : State) (j k : Nat) (f : Die → Die) : (s.updDie j f).die k = if k = j then f (s.die k) else s.die k := by
  rw [State.updDie]
  split
  case isTrue h => rw [h, State.die_setDie]
  case isFalse h => exact State.die_setDie_ne s _ h

/-- An update of each of the first `n` dies, one after another. -/
theorem State.die_foldl_updDie (s : State) (f : Die → Die) (n k : Nat) :
    ((List.range n).foldl (fun (s : State) slot => s.updDie slot f) s).die k = if k < n then f (s.die k) else s.die k := by
  induction n with
  | zero => rfl
  | succ n ih =>
    rw [List.range_succ, List.foldl_append, List.foldl_cons, List.foldl_nil, State.die_updDie, ih]
    grind

/-- A die's root table after an invalidate: a BD may get a new root for the space (R101; log 51). -/
def rootsAfter (asid k : Nat) (root : Option (Nat × Nat)) (roots : AMap Nat) : AMap Nat :=
  match root with
  | some (b, at_) => if b = k ∧ dieKind k = some .bd then roots.put (asid % 65536) (at_ % 2 ^ 56 / 0x20000 * 0x20000) else roots
  | none => roots

theorem State.die_setRoot (s : State) (asid : Nat) (root : Option (Nat × Nat)) (k : Nat) :
    (s.setRoot asid root).die k = { s.die k with roots := rootsAfter asid k root (s.die k).roots } := by
  unfold rootsAfter
  rcases root with _ | ⟨b, at_⟩
  · rfl
  · by_cases hd : dieKind b = some .bd
    · simp only [State.setRoot, if_pos hd, State.die_updDie]
      by_cases hk : k = b
      · subst hk
        simp [hd]
      · simp [hk, Ne.symm hk]
    · simp only [State.setRoot, if_neg hd]
      have none : ¬ (b = k ∧ dieKind k = some .bd) := fun h => hd (h.1 ▸ h.2)
      simp [none]

/-- `t` differs from `s` in its dies at most. -/
def State.DiesOnly (s t : State) : Prop := t = { s with dies := t.dies }

theorem State.DiesOnly.updDie {s t : State} (h : s.DiesOnly t) (k : Nat) (f : Die → Die) : s.DiesOnly (t.updDie k f) := by
  rw [State.DiesOnly] at *
  rw [h]
  rfl

theorem State.DiesOnly.setRoot {s t : State} (h : s.DiesOnly t) (asid : Nat) (root : Option (Nat × Nat)) : s.DiesOnly (t.setRoot asid root) := by
  rcases root with _ | ⟨b, at_⟩
  · exact h
  · simp only [State.setRoot]
    split
    · exact h.updDie _ _
    · exact h

theorem State.leaveEntries_nil_diesOnly {s : State} (h : s.crossings = []) : s.DiesOnly (s.leaveEntries []) := by
  simp [State.DiesOnly, State.leaveEntries, h]

/-- A die that an invalidate has reached; `s` holds the launches' range lists. -/
def Die.invalidated (s : State) (id : BitVec 16) (base limit : Addr) (d : Die) : Die :=
  { d with
    cache := d.cache.filter fun c => !(c.asid == id && decide (base.toNat / 4096 ≤ c.page) && decide (c.page ≤ limit.toNat / 4096))
    ranges := s.newRanges id d }

/-- The dies once an invalidate that finds nothing in flight has reached them. -/
def State.invalidateDies (s : State) (asid : Nat) (base limit : Addr) (root : Option (Nat × Nat)) : State :=
  (List.range 37).foldl (fun (t : State) slot => t.updDie slot (Die.invalidated (s.leaveEntries []) (BitVec.ofNat 16 asid) base limit))
    ((s.leaveEntries []).setRoot asid root)

theorem State.invalidateDies_diesOnly {s : State} (h : s.crossings = []) (asid : Nat) (base limit : Addr) (root : Option (Nat × Nat)) :
    s.DiesOnly (s.invalidateDies asid base limit root) :=
  List.foldlRecOn _ _ (motive := s.DiesOnly) ((State.leaveEntries_nil_diesOnly h).setRoot asid root) fun _ ht _ _ => ht.updDie _ _

/-- The engine of an address space drops the translation of its sleeping wait (R103). -/
def Engine.invalidated (id : BitVec 16) (base limit : Addr) (e : Engine) : Engine := if e.asid = id then e.unread base limit else e

theorem State.newRanges_of_none {s : State} {id : BitVec 16} {d : Die} (h : ∀ r ∈ d.ranges, r.asid ≠ id) : s.newRanges id d = d.ranges := by
  have unknown : (d.ranges.any fun r => r.asid == id) = false := by simpa using h
  simp [State.newRanges, unknown]

/-- Each of the package's dies after an invalidate. -/
theorem State.die_invalidateDies {s : State} {k : Nat} (hk : k < 37) (hm : ∀ x ∈ (s.die k).merge, x.parts ≠ [])
    (asid : Nat) (base limit : Addr) (root : Option (Nat × Nat)) :
    (s.invalidateDies asid base limit root).die k =
      Die.invalidated (s.leaveEntries []) (BitVec.ofNat 16 asid) base limit
        { s.die k with roots := rootsAfter asid k root (s.die k).roots } := by
  rw [State.invalidateDies, State.die_foldl_updDie, if_pos hk, State.die_setRoot, State.die_leaveEntries_nil s k hm]

theorem Die.mem_cache_invalidated {s : State} {id : BitVec 16} {base limit : Addr} {d : Die} (c : CachedPage) :
    c ∈ (d.invalidated s id base limit).cache ↔
      c ∈ d.cache ∧ ¬ (c.asid = id ∧ base.toNat / 4096 ≤ c.page ∧ c.page ≤ limit.toNat / 4096) := by
  simp only [Die.invalidated, List.mem_filter, Bool.not_eq_true', ← Bool.not_eq_true, Bool.and_eq_true, beq_iff_eq, decide_eq_true_eq, and_assoc]

theorem State.eng_invalidated (s t : State) (id : BitVec 16) (base limit : Addr) (j : EngId) :
    ({ t with engines := s.engines.map fun p => (p.1, p.2.invalidated id base limit) } : State).eng j = (s.eng j).invalidated id base limit := by
  have read := AMap.getD_map s.engines (Engine.invalidated id base limit) j.key Engine.reset
  have reset : Engine.reset.invalidated id base limit = Engine.reset := ite_self _
  rw [reset] at read
  exact read

theorem execTranslationInvalidate_eq_of_quiet {s : State} (ha : s.accesses = []) (hx : s.crossings = []) (asid : Nat) (base limit : Addr)
    (root : Option (Nat × Nat)) :
    execTranslationInvalidate asid base limit root s = .next { s.invalidateDies asid base limit root with
      engines := s.engines.map fun p => (p.1, p.2.invalidated (BitVec.ofNat 16 asid) base limit) } := by
  have frame := State.invalidateDies_diesOnly hx asid base limit root
  rw [State.DiesOnly] at frame
  have accesses : (s.invalidateDies asid base limit root).accesses = [] := by rw [frame]; exact ha
  have engines : (s.invalidateDies asid base limit root).engines = s.engines := by rw [frame]
  rw [State.invalidateDies] at accesses engines ⊢
  unfold Die.invalidated at accesses engines ⊢
  simp only [execTranslationInvalidate, ha, List.filter_nil, byEngine, List.foldl_nil, List.map_nil, accesses, engines, Engine.invalidated]

/-- With nothing in flight an invalidate changes the dies and the engines alone: each die as `Die.invalidated`, each engine as
`Engine.invalidated` (R103). -/
theorem execTranslationInvalidate_quiet {s : State} (ha : s.accesses = []) (hx : s.crossings = []) (hm : ∀ k, ∀ x ∈ (s.die k).merge, x.parts ≠ [])
    (asid : Nat) (base limit : Addr) (root : Option (Nat × Nat)) :
    ∃ t, execTranslationInvalidate asid base limit root s = .next t ∧ t = { s with dies := t.dies, engines := t.engines } ∧
      (∀ j, t.eng j = (s.eng j).invalidated (BitVec.ofNat 16 asid) base limit) ∧
      ∀ k < 37, t.die k = Die.invalidated (s.leaveEntries []) (BitVec.ofNat 16 asid) base limit
        { s.die k with roots := rootsAfter asid k root (s.die k).roots } := by
  have frame := State.invalidateDies_diesOnly hx asid base limit root
  have dies (k : Nat) (hk : k < 37) := State.die_invalidateDies hk (hm k) asid base limit root
  have next := execTranslationInvalidate_eq_of_quiet ha hx asid base limit root
  generalize s.invalidateDies asid base limit root = u at frame dies next
  exact ⟨_, next, by rw [frame], s.eng_invalidated u _ base limit, dies⟩

/-! ## The shape table and a BD's cache (04 R98, R104, R454) -/

/-- Whether a course runs (R33). -/
def State.courseRuns (s : State) : Bool := s.launches.any fun l => l.state == .inCourse

theorem State.courseRuns_iff (s : State) : s.courseRuns = true ↔ ∃ l ∈ s.launches, l.state = .inCourse := by
  simp [State.courseRuns]

theorem State.courseRuns_eq_false {s : State} (h : ¬ ∃ l ∈ s.launches, l.state = .inCourse) : s.courseRuns = false :=
  Bool.eq_false_iff.2 fun hr => h (s.courseRuns_iff.1 hr)

/-- An entry of 64 bytes as the HD writes it: the writer's tag over its tenant field (R454). -/
theorem State.shapeBytes_eq (s : State) (fn : Nat) {bs : List Byte} (h : bs.length = 64) :
    s.shapeBytes fn bs =
      bs.take 16 ++ bytesOf 2 (if isTdi fn = true ∧ (s.tdi fn).state = .run then (s.tdi fn).tenant else 0).toNat ++ bs.drop 18 := by
  have rest : (bs.drop 18).take 46 = bs.drop 18 := List.take_of_length_le (by simp [h])
  simp only [State.shapeBytes, rest, Bool.and_eq_true, beq_iff_eq]
  split <;> rfl

theorem State.shapeBytes_length (s : State) (fn : Nat) {bs : List Byte} (h : bs.length = 64) : (s.shapeBytes fn bs).length = 64 := by
  simp [State.shapeBytes, h]

/-- A write while a course runs waits, and the table stays where it is (R104). -/
theorem execShapeTableWrite_waits {s : State} {index : Nat} {bs : List Byte} (hi : index < 65536) (hb : bs.length = 64)
    (hr : s.courseRuns = true) (fn : Nat) (base : Option Nat) :
    execShapeTableWrite index fn bs base s =
      .next { s with mgmt := { s.mgmt with shapePend := s.mgmt.shapePend ++ [(index, s.shapeBytes fn bs)] } } := by
  have stays : s.setShapebase base = s := by
    rcases base with _ | b
    · rfl
    · exact if_pos hr
  rw [execShapeTableWrite, event_due _ _ (by simp [hi, hb]), stays]
  exact congrArg _ (if_pos hr)

/-- The state whose SHAPEBASE the HD has set, if it sets it (log 51). -/
def State.placed (s : State) (base : Option Nat) : State :=
  match base with
  | some b => { s with mgmt := { s.mgmt with shapebase := BitVec.ofNat 64 (b % 2 ^ 56 / 64 * 64) } }
  | none => s

@[simp] theorem State.placed_mem (s : State) (base : Option Nat) : (s.placed base).mem = s.mem := by
  cases base <;> rfl

/-- Between courses the one write that waits is applied at once (R104). -/
theorem State.applyShapes_one {s : State} (hr : s.courseRuns = false) (hp : s.mgmt.shapePend = []) (index : Nat) (bs : List Byte) :
    (s.updMgmt fun m => { m with shapePend := m.shapePend ++ [(index, bs)] }).applyShapes = s.store (s.shapePa index) bs := by
  have emptied : { s.mgmt with shapePend := [] } = s.mgmt := by rw [← hp]
  refine (if_neg (Bool.eq_false_iff.1 hr)).trans ?_
  simp only [State.updMgmt, hp, List.nil_append, List.foldl_cons, List.foldl_nil, State.store_mgmt, emptied]
  rfl

/-- A write between courses reaches the table, placed anew if the HD places it (R104; log 51). -/
theorem execShapeTableWrite_writes {s : State} {index : Nat} {bs : List Byte} (hi : index < 65536) (hb : bs.length = 64)
    (hr : s.courseRuns = false) (hp : s.mgmt.shapePend = []) (fn : Nat) (base : Option Nat) :
    execShapeTableWrite index fn bs base s = .next ((s.placed base).store ((s.placed base).shapePa index) (s.shapeBytes fn bs)) := by
  rw [execShapeTableWrite, event_due _ _ (by simp [hi, hb])]
  rcases base with _ | b
  · exact congrArg _ (State.applyShapes_one hr hp index _)
  · have moved : s.setShapebase (some b) = s.placed (some b) := if_neg (Bool.eq_false_iff.1 hr)
    rw [moved]
    exact congrArg _ (State.applyShapes_one (s := s.placed (some b)) hr hp index _)

theorem execBdcfgWrite_idle {s : State} (hr : s.courseRuns = true) (slot : Nat) (v : Word) : execBdcfgWrite slot v s = .next s :=
  event_idle _ _ (by simp [show (s.launches.any fun l => l.state == .inCourse) = true from hr])

theorem execBdcfgWrite_sets {s : State} {slot : Nat} {v : Word} (hs : dieKind slot = some .bd) (hv : v.toNat % 32 ≤ 16) (hr : s.courseRuns = false) :
    execBdcfgWrite slot v s = .next (s.setDie slot { s.die slot with bdcfg := BitVec.ofNat 64 (v.toNat % 32) }) := by
  have units : fld v 0 5 = v.toNat % 32 := fld_low v 5
  rw [execBdcfgWrite, units]
  exact event_due _ _ (by simp [hs, hv, show (s.launches.any fun l => l.state == .inCourse) = false from hr])

/-- Settles O47: each operation's effect read off its equation, the bytes of a slot and of the shape table by what a store leaves, the dies after
an invalidate one by one. -/
theorem imagesAndTables : Obligations.ImagesAndTables := by
  unfold Obligations.ImagesAndTables
  intro s i off asid slot index fn bs base limit v x root where_ m pa set running id named tag entry holds placed
  refine ⟨?opens, execImageOpen_idle, ?aperture, ?notLoading, ?commitFails, ?commits, execImageUnload_empty, ?unload, ?invalidate, ?shapes, ?bdcfg⟩
  case opens =>
    intro hi h
    refine ⟨_, execImageOpen_opens hi h, rfl, ?_, ?_, s.byteAt_wipe pa 0x400000, s.mem_poison_wipe pa 0x400000⟩
    · rw [State.image_updImage]
    · rw [State.image_updImage]
      rfl
  case aperture =>
    intro hi h hb
    have at_ : imagePa i off = pa + off := imagePa_add i off
    refine ⟨_, execImageApertureWrite_stores hi h hb x, rfl, ?_, fun a ha => s.byteAt_store_out _ bs (by rwa [at_])⟩
    rw [State.bytes_updImage, ← at_, State.bytes_store_same _ _ rfl]
  case notLoading => exact fun h => ⟨execImageApertureWrite_idle h off bs x, execImageCommit_idle h⟩
  case commitFails => exact fun hi h hok => execImageCommit_fails hi h hok
  case commits =>
    intro hi h hok
    refine ⟨s.committed i, execImageCommit_commits hi h hok, s.committed_frame i, ?_, ?_, s.promise_committed i⟩
    · rw [State.committed, State.image_updImage]
    · rw [s.bytes_hash i, ← s.imageHash_committed i]
      rfl
  case unload =>
    exact fun hi h => ⟨fun hb => execImageUnload_busy hi h ((s.imageBusy_iff i).2 hb), fun hb =>
      execImageUnload_free hi h (Bool.eq_false_iff.2 fun busy => hb ((s.imageBusy_iff i).1 busy))⟩
  case invalidate =>
    intro ha hx hm
    obtain ⟨t, hgo, hframe, heng, hdie⟩ := execTranslationInvalidate_quiet ha hx hm asid base limit root
    refine ⟨t, hgo, hframe, heng, fun k hk => ?_⟩
    rw [hdie k hk]
    exact ⟨rfl, rfl, Die.mem_cache_invalidated, State.newRanges_of_none⟩
  case shapes =>
    intro hi hb
    have written : s.shapeBytes fn bs = entry := s.shapeBytes_eq fn hb
    rw [← written]
    refine ⟨fun hr => execShapeTableWrite_waits hi hb (s.courseRuns_iff.2 hr) fn where_, fun hr hp => ?_⟩
    have idle := State.courseRuns_eq_false hr
    have length := s.shapeBytes_length fn hb
    refine ⟨_, execShapeTableWrite_writes hi hb idle hp fn where_, rfl, State.bytes_store_same _ _ length, fun a ha => ?_⟩
    exact (State.byteAt_store_out _ _ _ (by rwa [length])).trans (by rw [State.placed_mem])
  case bdcfg =>
    exact fun hs hv => ⟨fun hr => execBdcfgWrite_idle (s.courseRuns_iff.2 hr) slot v, fun hr => execBdcfgWrite_sets hs hv (State.courseRuns_eq_false hr)⟩

end Sys2Proof.Machine
end
